-- ==== Sys2Proof/Word.lean ====
section
/-!
DEFINITION. Sys2Proof/Word.lean: the word types of the block. The spec gives bytes, 32-bit scalar registers (R103),
64-bit set-up registers (R492); everything it only counts or addresses is a natural number.
-/

namespace Sys2Proof

/-- One byte of a memory, a record or a frame (R6). -/
abbrev Byte := BitVec 8

/-- A 32-bit word: a scalar register of a sequencer (R103), an FP32 value by its bits (R38). -/
abbrev Word32 := BitVec 32

/-- A 64-bit word: a set-up register (R492). -/
abbrev Word64 := BitVec 64

end Sys2Proof
end

