-- ==== Sys2Proof/Syntax.lean ====
section
/-!
DEFINITION. Sys2Proof/Syntax.lean: the commands of the block, one constructor of `Instr` for each row of
spec/opcode_table.json, with the operands the spec gives each. Numbers stand for unsigned fields; WellFormed.lean
bounds them. A Hearth operand is a physical Hearth number (R2).
-/

namespace Sys2Proof

/-- The fields of a descriptor that its opcode does not fix (Tables 15-4 and 15-5); `rsv` holds the reserved bits. -/
structure Desc where
  tag : Nat := 0
  path : Nat := 0
  bHost : Bool := false
  aHost : Bool := false
  lend : Bool := false
  barrier : Bool := false
  irq : Bool := false
  rsv : Nat := 0
  a : Nat := 0
  b : Nat := 0
  l : Nat := 0
  ka : Nat := 0
  kb : Nat := 0
  p : Nat := 0
  q : Nat := 0
  deriving DecidableEq, Repr

/-- Where a descriptor came from: port, ring and submission slot (R432). -/
structure Origin where
  port : Nat
  ring : Nat
  slot : Nat
  deriving DecidableEq, Repr

/-- TLOAD (Table 4-4). -/
structure TloadF where
  desc : Nat
  row0 : Nat
  col0 : Nat
  rows : Nat
  cols32 : Nat
  scratch : Nat
  transpose : Bool
  idx : Bool
  deriving DecidableEq, Repr

/-- TGATHER and TSCATTER (Tables 4-4 and 4-5). -/
structure TindexF where
  desc : Nat
  index : Nat
  count : Nat
  cols32 : Nat
  scratch : Nat
  col0 : Nat
  deriving DecidableEq, Repr

/-- TFILL (Table 4-4). -/
structure TfillF where
  scratch : Nat
  length : Nat
  pattern : Nat
  deriving DecidableEq, Repr

/-- TSTORE (Table 4-5). -/
structure TstoreF where
  desc : Nat
  row0 : Nat
  col0 : Nat
  rows : Nat
  cols32 : Nat
  scratch : Nat
  transpose : Bool
  srcFmt : Nat
  idx : Bool
  deriving DecidableEq, Repr

/-- ALOAD (Table 4-6). -/
structure AloadF where
  pair : Nat
  kinner : Bool
  narrow : Bool
  scratch : Nat
  k0 : Nat
  n0 : Nat
  idx : Bool
  deriving DecidableEq, Repr

/-- ASTREAM (Table 4-6). -/
structure AstreamF where
  pair : Nat
  narrow : Bool
  g : Nat
  opens : Bool
  closes : Bool
  scratch : Nat
  base : Nat
  rows : Nat
  idx : Bool
  deriving DecidableEq, Repr

/-- ABIND (Table 4-6). -/
structure AbindF where
  g : Nat
  out : Nat
  chain : Nat
  m0 : Nat
  n0 : Nat
  split : Nat
  deriving DecidableEq, Repr

/-- ACLOSE (Table 4-6). -/
structure AcloseF where
  g : Nat
  narrow : Bool
  deriving DecidableEq, Repr

/-- ACATCH (Table 4-6). -/
structure AcatchF where
  pair : Nat
  g : Nat
  list : Nat
  idx : Bool
  deriving DecidableEq, Repr

/-- VRUN (Table 4-7). -/
structure VrunF where
  chain : Nat
  rows : Nat
  src : Nat
  out : Nat
  m0 : Nat
  n0 : Nat
  idx : Bool
  deriving DecidableEq, Repr

/-- WAIT, SUB and SIGNAL (Table 4-8); `dev` is the register of the target device, 0 in WAIT and SUB. -/
structure TallyF where
  scope : Nat
  index : Nat
  n : Nat
  dev : Nat
  imm : Nat
  deriving DecidableEq, Repr

/-- ROLL (Table 4-8). -/
structure RollF where
  ctx : Nat
  red : Nat
  payload : Nat
  deriving DecidableEq, Repr

/-- LOOP (Table 4-9). -/
structure LoopF where
  count : Nat
  index : Nat
  endW : Nat
  imm : Nat
  deriving DecidableEq, Repr

/-- BREAK and JUMP (Table 4-9); a BREAK has no target. -/
structure BranchF where
  reg : Nat
  cond : Nat
  target : Nat
  deriving DecidableEq, Repr

/-- ALU (Table 4-9). -/
structure AluF where
  d : Nat
  a : Nat
  b : Nat
  fn : Nat
  imm : Bool
  imm24 : Nat
  deriving DecidableEq, Repr

/-- One slot of a long word, decoded (Tables 4-4 to 4-9). -/
inductive SlotOp where
  | tload (f : TloadF) | tgather (f : TindexF) | tfill (f : TfillF)
  | tstore (f : TstoreF) | tscatter (f : TindexF)
  | aload (f : AloadF) | astream (f : AstreamF) | abind (f : AbindF) | aclose (f : AcloseF) | acatch (f : AcatchF)
  | vdef (chain record : Nat) | vrun (f : VrunF) | vlen (reg : Nat)
  | wait (f : TallyF) | signal (f : TallyF) | sub (f : TallyF) | roll (f : RollF) | fence
  | loop (f : LoopF) | brk (f : BranchF) | jump (f : BranchF) | alu (f : AluF) | li (d imm : Nat)
  | ldx (d off : Nat) | take (ring : Nat)
  deriving DecidableEq, Repr

/-- A transaction (Table 14-2) with the device name of its source; `copy`: a STORE made by OP_COPY, which takes channel BULK (Table 14-3). -/
structure Txn where
  op : Nat := 0
  src : Nat := 0
  dst : Nat := 0
  addr : Nat := 0
  key : Nat := 0
  len : Nat := 1
  tenant : Nat := 0
  tag : Nat := 0
  seq : Nat := 0
  ackSeq : Nat := 0
  resend : Bool := false
  window : Bool := false
  copy : Bool := false
  status : Nat := 0
  aop : Nat := 0
  wide : Bool := false
  opndA : Nat := 0
  opndB : Nat := 0
  deriving DecidableEq, Repr

/-- A frame between devices as the switch carries it: its transaction, payload bytes, hops left and channel (Table 13-2). -/
structure Frame where
  txn : Txn
  data : List Byte := []
  hops : Nat := 0
  vc : Nat := 0
  deriving DecidableEq, Repr

/-- The credits that a frame's header returns (Table 13-2). -/
structure Credits where
  creditVc : Nat := 0
  credit : Nat := 0
  deriving DecidableEq, Repr

/-- What every frame's header tells the sender at the other end (Table 13-2): the last DATA frame received in order, and the credits returned. -/
structure Returns extends Credits where
  ack : Nat := 0
  deriving DecidableEq, Repr

/-- What the header of a frame says beside its transaction (Table 13-2), and the Farger port it came in on; `seq` is the sequence number of a DATA frame
(the first one's, where a transaction takes several). -/
structure Head extends Returns where
  port : Nat
  seq : Nat := 0
  deriving DecidableEq, Repr

/-- A lane's window of error rates as it ends (R388): the bits of data that the lane carried, and the symbols corrected in it (R372). -/
structure LaneWindow where
  dataBits : Nat
  corrected : Nat
  deriving DecidableEq, Repr

/-- A pull request (R211). -/
structure PullF where
  layer : Nat
  expert : Nat
  step : Nat
  revision : Nat
  requester : Nat
  epoch : Nat
  slot : Nat
  deriving DecidableEq, Repr

/-- A granule of a pull (R212): where it belongs and its bytes; `members` are the requesters of the broadcast it is part of, each with its slot and
batch epoch (R211, R332). -/
structure GranuleF where
  layer : Nat
  slot : Nat
  epoch : Nat
  index : Nat
  holder : Nat
  members : List (Nat × Nat × Nat)
  data : List Byte
  deriving DecidableEq, Repr

/-- A pushed token, or an output-gradient row with its router weight (R213, R256). -/
structure TokenF where
  backward : Bool
  layer : Nat
  step : Nat
  microBatch : Nat
  expert : Nat
  origin : Nat
  epoch : Nat
  revision : Nat
  returnRow : Nat
  weight : Nat
  data : List Byte
  deriving DecidableEq, Repr

/-- An answer or a returned input-gradient row (R214, R257). -/
structure AnswerF where
  backward : Bool
  holder : Nat
  epoch : Nat
  returnRow : Nat
  data : List Byte
  deriving DecidableEq, Repr

/-- A Crucible contribution chunk, or an owner copy chunk (R281, R286): `absent` is the absent marker; `last` ends the
sender's contribution; the pairs are (hi, lo), a closed FP32 value travelling as (value, 0). -/
structure ContribF where
  matrix : Nat
  round : Nat
  owner : Bool
  sender : Nat
  chunk : Nat
  absent : Bool
  last : Bool
  rows : List Nat
  vals : List (Word32 × Word32)
  deriving DecidableEq, Repr

/-- A gather granule or a no-change marker (R305). -/
structure GatherF where
  matrix : Nat
  step : Nat
  sender : Nat
  noChange : Bool
  index : Nat
  data : List Byte
  deriving DecidableEq, Repr

/-- A Roll-call arrival or result between devices (R324, R325). -/
structure RollMsg where
  ctx : Nat
  gen : Nat
  sender : Nat
  red : Nat
  tenant : Nat
  payload : List Byte
  deriving DecidableEq, Repr

/-- Who makes a store to a page of the hub: a Hearth's Lesson, or a host descriptor (R405, R415). -/
inductive Agent where
  | hearth (h : Nat)
  | host (o : Origin)
  deriving DecidableEq, Repr

/-- What a training frame carries (R379, R381, Table 13-4). -/
inductive TrainMsg where
  | version (revision : Nat) (lanes : List Nat)
  | identity (name position port : Nat) (digest : Nat)
  | credit (units : List Nat)
  deriving DecidableEq, Repr

/-- The outcome of the lane-by-lane part of a training position (R379). -/
inductive TrainEvent where
  | start
  | noSignal
  | detected
  | lanesReady (ok : List Nat)
  | aligned (ok : List Nat)
  deriving DecidableEq, Repr

/-- The measurements of one regulator decision (R472, R474): W, W, mV, the beat rate at 75 °C or less in M beats/s, degrees of the 88 Hearths and 16 layers. -/
structure Readings where
  avg1ms : Nat
  avg10us : Nat
  inputMv : Nat
  beatRate : Nat
  hearths : List Nat
  layers : List Nat
  deriving DecidableEq, Repr

/-- What the tests of start-up find (R477, R476 step 6): failing rows by channel and row, failing Hearths. -/
structure BootFindings where
  badRows : List (Nat × Nat)
  badHearths : List Nat
  deriving DecidableEq, Repr

/-- What a PCI Express link trained to (R425): its generation and its width in lanes. -/
structure PcieMode where
  gen : Nat
  width : Nat
  deriving DecidableEq, Repr

/-- A firmware image as flash holds it (R481): kind 1 to 4, security version, payload, signature, key certificate. `signed` says what the check of RFC 8017
gives: the signature over header and payload verifies under the certificate's key, and the certificate against the fused digest `Power.rootKey` (entry 11). -/
structure Image where
  kind : Nat
  version : Nat
  payload : List Byte
  signature : List Byte
  certificate : List Byte
  signed : Bool
  deriving DecidableEq, Repr

/-- The commands of the block. A bad frame names the lane of each of its uncorrectable codewords (R388). -/
inductive Instr where
  -- descriptors
  | opLessonLoad (o : Origin) (d : Desc)
  | opCard (o : Origin) (d : Desc)
  | opRun (o : Origin) (d : Desc)
  | opRunLend (o : Origin) (d : Desc)
  | opCopy (o : Origin) (d : Desc)
  | opFill (o : Origin) (d : Desc)
  | opSignal (o : Origin) (d : Desc)
  | opSignalSub (o : Origin) (d : Desc)
  | opRoll (o : Origin) (d : Desc)
  | forwardBatch (o : Origin) (d : Desc)
  | backwardBatch (o : Origin) (d : Desc)
  | releaseBatch (o : Origin) (d : Desc)
  | cancelBatch (o : Origin) (d : Desc)
  | opCrucibleStep (o : Origin) (d : Desc)
  | snapshotTake (o : Origin) (d : Desc)
  | snapshotRestore (o : Origin) (d : Desc)
  | opSeat (o : Origin) (d : Desc)
  -- slots of a Lesson
  | tload (h : Nat) (f : TloadF)
  | tgather (h : Nat) (f : TindexF)
  | tfill (h : Nat) (f : TfillF)
  | tstore (h : Nat) (f : TstoreF)
  | tscatter (h : Nat) (f : TindexF)
  | aload (h : Nat) (f : AloadF)
  | astream (h : Nat) (f : AstreamF)
  | abind (h : Nat) (f : AbindF)
  | aclose (h : Nat) (f : AcloseF)
  | acatch (h : Nat) (f : AcatchF)
  | groupWriteback (h : Nat)
  | vdef (h : Nat) (chain record : Nat)
  | vrun (h : Nat) (f : VrunF)
  | vlen (h : Nat) (reg : Nat)
  | wait (h : Nat) (f : TallyF)
  | waitSatisfied (h : Nat)
  | signal (h : Nat) (f : TallyF)
  | sub (h : Nat) (f : TallyF)
  | roll (h : Nat) (f : RollF)
  | fence (h : Nat)
  | loop (h : Nat) (f : LoopF)
  | brk (h : Nat) (f : BranchF)
  | jump (h : Nat) (f : BranchF)
  | alu (h : Nat) (f : AluF)
  | li (h : Nat) (d imm : Nat)
  | ldx (h : Nat) (d off : Nat)
  | take (h : Nat) (ring : Nat)
  | timetableItemTaken (h : Nat)
  | runEnd (h : Nat)
  | lentItemTake (h : Nat)
  | lentBudgetExpiry (h : Nat)
  -- the Bellows
  | routerRecord (record : Nat)
  | timetablePost (ring : Nat)
  | intakeTimeout (epoch : Nat)
  | pullRequest (w : Head) (f : PullF)
  | mergeWindowClose (layer expert step : Nat)
  | granule (w : Head) (f : GranuleF)
  | token (w : Head) (f : TokenF)
  | answer (w : Head) (f : AnswerF)
  -- combine and hash
  | frameRecord (h : Nat) (record : Nat)
  | combineScatter (h : Nat) (f : TindexF)
  | scatterChunk (smithy bank : Nat)
  | closeRecord (h : Nat) (record : Nat)
  | frameDrain (smithy : Nat)
  | hashScatter (h : Nat) (f : TindexF)
  | mergeRecord (a : Agent) (record : Nat)
  -- the Crucible
  | announce (a : Agent) (record : Nat)
  | contrib (w : Head) (f : ContribF)
  | gatherGranule (w : Head) (f : GatherF)
  -- Roll calls, Tally window, pages
  | rollArrivalMsg (w : Head) (f : RollMsg)
  | rollResultMsg (w : Head) (f : RollMsg)
  | rollCallClose (ctx : Nat)
  | rollCallTimeout (ctx : Nat)
  | tallyWindowStore (a : Agent) (off len key word : Nat)
  | tallyWindowLoad (h : Nat) (off len key dst : Nat)
  | atomicRecord (a : Agent) (off : Nat) (record : Nat)
  | poolRequest (tenant : Nat) (record : Nat)
  | poolFree (tenant : Nat) (record : Nat)
  | poolSetInitDone (set : Nat)
  -- requests and responses of the fabric
  | loadRequest (w : Head) (t : Txn)
  | storeRequest (w : Head) (t : Txn) (data : List Byte)
  | atomicRequest (w : Head) (t : Txn)
  | signalRequest (w : Head) (t : Txn)
  | lineUnitWrite (line : Nat)
  | dataResponse (w : Head) (t : Txn) (data : List Byte)
  | doneResponse (w : Head) (t : Txn)
  | resultResponse (w : Head) (t : Txn)
  | progress (w : Head) (holder epoch : Nat)
  | progressTimer (origin epoch : Nat)
  | fabResendTimer (dst : Nat)
  | fabTimeout (dst tag : Nat)
  | replayEntryEvict (src seq : Nat)
  -- links
  | frameForward (w : Head) (f : Frame)
  | badFrame (port : Nat) (lanes : List Nat)
  | ackFrame (port : Nat) (r : Returns)
  | ackTimer (port : Nat)
  | nakFrame (port : Nat) (r : Returns)
  | laneRateWindow (port lane : Nat) (window : LaneWindow)
  | laneSet (w : Head) (lanes : List Nat)
  | idleFrame (port ack creditVc credit : Nat)
  | creditFrame (port ack : Nat) (r : Credits)
  | trainFrame (port : Nat) (m : TrainMsg)
  | basePage (port : Nat) (gen1 gen2 : Bool)
  | portTraining (port : Nat) (e : TrainEvent)
  | trainingTimeout (port : Nat)
  | peerSignalLost (port : Nat)
  -- restart, snapshots, memory
  | restartWave (w : Head) (number origin status sender : Nat)
  | warmResetEnd
  | snapshotDrainTimeout
  | refreshTick (channel : Nat)
  | patrolScrubStep (channel : Nat)
  | layerTemperature (die layer temp : Nat)
  -- power and start-up
  | regulatorTick (r : Readings)
  | thermalTrip (h : Nat)
  | inputCutoff
  | coldStart
  | enableHigh (f : BootFindings)
  | enableLow
  | perstDeassert (port : Nat)
  | perstAssert (port : Nat)
  -- host ports
  | pcieLinkDown (port : Nat)
  | heartbeatTimeout (port : Nat)
  | configRequest (port : Nat)
  | sqTail (port ring value : Nat)
  | cqHead (port ring value : Nat)
  | msixUnmask (port vector : Nat)
  | pciRingEnable (via port ring value : Nat)
  | pciHeartbeat (via port value : Nat)
  -- management registers
  | jobStart (via : Nat)
  | jobEnd (via : Nat)
  | mgtFaultClear (via value : Nat)
  | mgtSvnCommit (via value : Nat)
  | mgtDeviceIdWrite (via value : Nat)
  | poolSetEnable (via value : Nat)
  | farPortRetrain (via value : Nat)
  | hubFabTeardown (via value : Nat)
  | registerWrite (via off size value : Nat)
  -- MCTP
  | setDeviceId (value : Nat)
  | setPowerCap (value : Nat)
  | getBootStatus
  | getRetirement
  | getEvents
  | mctpControl (request : List Byte)
  | pldmSensor (request : List Byte)
  | pldmFirmwareUpdate (image : Image)
  | getVersion
  | getCapabilities
  | negotiateAlgorithms (asym hash : Nat)
  | getDigests
  | getCertificate (slot off len : Nat)
  | challenge (slot : Nat) (nonce : List Byte)
  | getMeasurements (index : Nat) (signed : Bool) (nonce : List Byte)
  | spdmUnsupported (code : Nat)
  -- host port events
  | pcieLinkUp (port : Nat) (mode : PcieMode) (f : BootFindings)
  | lostHostReadTimeout (id : Nat)
  | hostReadCompletion (id : Nat) (ok : Bool) (data : List Byte)
  deriving DecidableEq, Repr

end Sys2Proof
end

