-- ==== Sys2Proof/Decode.lean ====
section
/-!
DEFINITION. Sys2Proof/Decode.lean: the command that a word spells. The commands of this block are events and writes, not words: no row of
spec/opcode_table.json gives bits.
-/

namespace Sys2Proof

/-- The command of a word of the table: none, for no row has bits. -/
def decodeTableWord (_nbits _w : Nat) : Option Instr := none

end Sys2Proof
end

