-- ==== Sys2Proof/Config.lean ====
section
/-!
DEFINITION. Sys2Proof/Config.lean: the free values. Each is a constant with no body: nothing can evaluate it, so a
statement about it holds whatever it is.
-/

namespace Sys2Proof.Config

/-- The byte that undefined scratch holds (R454), by the warm resets so far, the physical Hearth and the offset (entry 4). -/
opaque freeScratch : Nat → Nat → Nat → Byte

/-- A value the spec leaves open, by the state's own counter of such values (entries 12 and 17). -/
opaque freeWord : Nat → Word64

/-- The element code stored in an MX block of scale 0xFF, whose elements all read as NaN (R45), by the element's magnitude (entry 19). -/
opaque freeMxCode : Nat → Nat

/-- The shard that holds the weights of an expert of a layer: no structure of the spec names it (entry 26). -/
opaque freeShard : Nat → Nat → Nat

/-- The bytes of an RSASSA-PSS signature of the identity key over the named bytes (R486), by the counter of free values (entry 12). -/
opaque freeSignature : Nat → List Byte → List Byte

/-- The digest of an item that start-up measures and whose bytes the spec does not lay out (R484), by measurement register and by what the item holds
(entry 11). -/
opaque freeDigest : Nat → Nat → List Byte

/-- The reply that an MCTP control, PLDM or SPDM standard defines and this spec does not lay out (R487), by counter and request (entry 18). -/
opaque freeReply : Nat → List Byte → List Byte

/-- The rows, by channel and number, that fail the memory test of a start which COLD_START begins (R477; entry 149). -/
opaque foundRows : Nat → List (Nat × Nat)

/-- The first 8 bytes of the digest of this device's identity public key, made at manufacture (R381, R485; entry 12). -/
opaque identityDigest : Nat

/-- The configuration area of flash as made at manufacture: the certificate of the identity key and the chain to the vendor root (R485; entry 12). -/
opaque identityChain : List Byte

/-- The digest of the vendor root key, fused at manufacture (R481; entry 12). -/
opaque rootKeyDigest : List Byte

end Sys2Proof.Config
end

