-- ==== Sys2Proof/Machine/Bits.lean ====
section
/-!
DEFINITION. Sys2Proof/Machine/Bits.lean: bit fields, little-endian byte lists (R6), saturating counts (R498) and the
sorted key lists that hold every sparse store of the block.
-/

namespace Sys2Proof.Machine

/-- Bits [hi:lo] of a number, the higher index first (R6). -/
def bits (n hi lo : Nat) : Nat := (n >>> lo) % 2 ^ (hi + 1 - lo)

/-- Bit [i] of a number as a truth value. -/
def bit (n i : Nat) : Bool := (n >>> i) % 2 == 1

/-- One of two numbers: 1 for true. -/
def b2n (b : Bool) : Nat := if b then 1 else 0

/-- A field value placed at bit `lo`, cut to `w` bits. -/
def place (v w lo : Nat) : Nat := (v % 2 ^ w) <<< lo

/-- A `w`-bit two's complement field as an integer. -/
def toSigned (v w : Nat) : Int :=
  let u := v % 2 ^ w
  if u < 2 ^ (w - 1) then (u : Int) else (u : Int) - (2 ^ w : Nat)

/-- An integer as a `w`-bit two's complement field. -/
def ofSigned (i : Int) (w : Nat) : Nat := (i % ((2 ^ w : Nat) : Int)).toNat

/-- The number a little-endian byte list holds (R6). -/
def leNat : List Byte → Nat
  | [] => 0
  | b :: r => b.toNat + 256 * leNat r

/-- The `n` low bytes of a number, little-endian (R6). -/
def leBytes : Nat → Nat → List Byte
  | 0, _ => []
  | n + 1, v => BitVec.ofNat 8 v :: leBytes n (v / 256)

/-- The quotient rounded up. -/
def ceilDiv (a b : Nat) : Nat := (a + b - 1) / b

/-- `a` rounded up to a multiple of `b`. -/
def roundUp (a b : Nat) : Nat := ceilDiv a b * b

/-- Largest value of a 32-bit counter (R498). -/
def max32 : Nat := 0xFFFFFFFF

/-- A saturating sum below `2 ^ w` (R498). -/
def satAdd (w a b : Nat) : Nat := min (a + b) (2 ^ w - 1)

/-- The lowest index below `n` that satisfies `p`, if any. -/
def findBelow (n : Nat) (p : Nat → Bool) : Option Nat := (List.range n).find? p

/-- The first position of a list whose entry satisfies `p`. -/
def indexOf? {α : Type} (l : List α) (p : α → Bool) : Option Nat := l.findIdx? p

/-- Entry `i` of a list changed by `f`. -/
def modAt {α : Type} (l : List α) (i : Nat) (f : α → α) : List α := l.modify i f

/-- The first entry that satisfies `p` changed by `f`; the list unchanged if none does. -/
def modFirst {α : Type} (p : α → Bool) (f : α → α) : List α → List α
  | [] => []
  | a :: r => if p a then f a :: r else a :: modFirst p f r

/-- The first entry that satisfies `p` taken out. -/
def dropFirst {α : Type} (p : α → Bool) : List α → List α
  | [] => []
  | a :: r => if p a then r else a :: dropFirst p r

/-- A list cut into pieces of `n` (the last may be shorter); `fuel` bounds the pieces. -/
def chunksFuel {α : Type} (n : Nat) : Nat → List α → List (List α)
  | 0, _ => []
  | fuel + 1, l => if l.isEmpty then [] else l.take n :: chunksFuel n fuel (l.drop n)

/-- A list cut into pieces of `n`, the last one possibly shorter. -/
def chunks {α : Type} (n : Nat) (l : List α) : List (List α) := chunksFuel n l.length l

/-- Insertion into a list kept in the order of `lt`, behind equal entries. -/
def insertBy {α : Type} (lt : α → α → Bool) (x : α) : List α → List α
  | [] => [x]
  | a :: r => if lt x a then x :: a :: r else a :: insertBy lt x r

/-- A list in the order of `lt`; equal entries keep their order. -/
def sortBy {α : Type} (lt : α → α → Bool) (l : List α) : List α :=
  l.foldl (fun acc x => insertBy lt x acc) []

/-! Key lists: pairs in strictly rising key order. -/

/-- The value listed for a key. -/
def kvGet {α : Type} : List (Nat × α) → Nat → Option α
  | [], _ => none
  | (a, v) :: r, k => if k = a then some v else kvGet r k

/-- A key listed with a value, in its place. -/
def kvPut {α : Type} : List (Nat × α) → Nat → α → List (Nat × α)
  | [], k, v => [(k, v)]
  | (a, w) :: r, k, v =>
    if k < a then (k, v) :: (a, w) :: r
    else if k = a then (k, v) :: r
    else (a, w) :: kvPut r k v

/-- A key taken out. -/
def kvDel {α : Type} : List (Nat × α) → Nat → List (Nat × α)
  | [], _ => []
  | (a, w) :: r, k => if k = a then kvDel r k else (a, w) :: kvDel r k

/-- The value of a key in a list whose unlisted keys hold `d`. -/
def spGet {α : Type} (d : α) (m : List (Nat × α)) (k : Nat) : α := (kvGet m k).getD d

/-- The canonical list after key `k` is given `v`: an entry equal to `d` is not listed. -/
def spPut {α : Type} [DecidableEq α] (d : α) (m : List (Nat × α)) (k : Nat) (v : α) : List (Nat × α) :=
  if v = d then kvDel m k else kvPut m k v

end Sys2Proof.Machine
end

