-- ==== Sys2Proof/Machine/Num.lean ====
section
/-!
DEFINITION. Sys2Proof/Machine/Num.lean: element formats, exact values, rounding and conversion (02_number_formats.md R38 to
R50, R506) and the FP32 operations the other units round by.
-/

namespace Sys2Proof.Machine

/-- The element formats of Table 2-1 (R38). -/
inductive Fmt where
  | fp32 | bf16 | fp16 | e4m3 | e5m2 | mx8e4 | mx8e5 | mx6e3 | mx6e2 | mx4 | int32 | uint8 | picked
  deriving DecidableEq, Repr

/-- Format codes of Table 2-1; 0xC, 0xD and 0xF are reserved. -/
def fmtOfCode : Nat → Option Fmt
  | 0 => some .fp32 | 1 => some .bf16 | 2 => some .fp16 | 3 => some .e4m3 | 4 => some .e5m2
  | 5 => some .mx8e4 | 6 => some .mx8e5 | 7 => some .mx6e3 | 8 => some .mx6e2 | 9 => some .mx4
  | 10 => some .int32 | 11 => some .uint8 | 14 => some .picked | _ => none

/-- The code of a format (Table 2-1). -/
def Fmt.code : Fmt → Nat
  | .fp32 => 0 | .bf16 => 1 | .fp16 => 2 | .e4m3 => 3 | .e5m2 => 4 | .mx8e4 => 5 | .mx8e5 => 6
  | .mx6e3 => 7 | .mx6e2 => 8 | .mx4 => 9 | .int32 => 10 | .uint8 => 11 | .picked => 14

/-- Bits of one stored element (Table 2-1). -/
def Fmt.elemBits : Fmt → Nat
  | .fp32 | .int32 => 32 | .bf16 | .fp16 => 16 | .mx6e3 | .mx6e2 => 6 | .mx4 => 4 | _ => 8

/-- The microscaling formats (R39). -/
def Fmt.isMx : Fmt → Bool
  | .mx8e4 | .mx8e5 | .mx6e3 | .mx6e2 | .mx4 => true | _ => false

/-- A floating-point layout: exponent bits, mantissa bits, bias, and which codes are not finite. -/
structure FpLayout where
  ebits : Nat
  mbits : Nat
  bias : Nat
  /-- 0: an all-ones exponent holds infinity and NaN; 1: only the all-ones code is NaN (E4M3); 2: every code is finite. -/
  special : Nat
  deriving DecidableEq, Repr

/-- The layout of a floating-point element (Table 2-1); integer formats have none. -/
def Fmt.layout : Fmt → Option FpLayout
  | .fp32 => some ⟨8, 23, 127, 0⟩ | .bf16 => some ⟨8, 7, 127, 0⟩ | .fp16 => some ⟨5, 10, 15, 0⟩
  | .e4m3 | .mx8e4 => some ⟨4, 3, 7, 1⟩ | .e5m2 | .mx8e5 => some ⟨5, 2, 15, 0⟩
  | .mx6e3 => some ⟨3, 2, 3, 2⟩ | .mx6e2 => some ⟨2, 3, 1, 2⟩ | .mx4 => some ⟨2, 1, 1, 2⟩ | _ => none

/-- Smallest normal exponent of a layout. -/
def FpLayout.emin (l : FpLayout) : Int := 1 - (l.bias : Int)

/-- A value: NaN, an infinity, or the exact number (-1)^neg * m * 2^e. -/
inductive FV where
  | nan
  | inf (neg : Bool)
  | fin (neg : Bool) (m : Nat) (e : Int)
  deriving DecidableEq, Repr

/-- Positive zero. -/
def FV.zero : FV := .fin false 0 0

/-- The value an encoded element holds, before any scale (Table 2-1). -/
def FpLayout.decode (l : FpLayout) (n : Nat) : FV :=
  let s := bit n (l.ebits + l.mbits)
  let x := (n >>> l.mbits) % 2 ^ l.ebits
  let f := n % 2 ^ l.mbits
  let top := 2 ^ l.ebits - 1
  if l.special == 0 && x == top then (if f == 0 then .inf s else .nan)
  else if l.special == 1 && x == top && f == 2 ^ l.mbits - 1 then .nan
  else if x == 0 then .fin s f (l.emin - l.mbits)
  else .fin s (2 ^ l.mbits + f) ((x : Int) - l.bias - l.mbits)

/-- Shift by a signed count: up exactly, down by flooring. -/
def shiftZ (m : Nat) (k : Int) : Nat := if 0 ≤ k then m <<< k.toNat else m >>> (-k).toNat

/-- The exponent of the leading bit of a nonzero magnitude: floor_log2 (R46, R48). -/
def floorLog2 (m : Nat) (e : Int) : Int := (Nat.log2 m : Int) + e

/-- Whether m1*2^e1 is less than m2*2^e2. -/
def magLt (m1 : Nat) (e1 : Int) (m2 : Nat) (e2 : Int) : Bool :=
  let e := min e1 e2
  decide (m1 <<< (e1 - e).toNat < m2 <<< (e2 - e).toNat)

/-- Rounding modes of a conversion (R47): nearest even, toward zero, stochastic with its 32 bits (R48); `up` is
toward plus infinity and `away` away from zero in magnitude (R185, R186). -/
inductive Rnd where
  | rne | rtz | sr (r : Nat) | ceil | floorUp
  deriving DecidableEq, Repr

/-- The magnitude m*2^e as a count of units 2^q, rounded (R47, R48). -/
def rndUnits (r : Rnd) (m : Nat) (e q : Int) : Nat :=
  if q ≤ e then m <<< (e - q).toNat
  else
    let k := (q - e).toNat
    let lower := m >>> k
    let rest := m % 2 ^ k
    match r with
    | .rne =>
      if 2 * rest > 2 ^ k then lower + 1
      else if 2 * rest == 2 ^ k then lower + lower % 2 else lower
    | .rtz => lower
    | .sr b => if rest * 2 ^ 32 / 2 ^ k + b ≥ 2 ^ 32 then lower + 1 else lower
    | .ceil => if rest == 0 then lower else lower + 1
    | .floorUp => lower

/-- A finite value on a grid of `mbits` and `emin` extended upward with no largest exponent (R44 step 4). -/
def roundGrid (r : Rnd) (mbits : Nat) (emin : Int) : FV → FV
  | .fin s m e =>
    if m == 0 then .fin s 0 0
    else
      let q := max (floorLog2 m e) emin - mbits
      .fin s (rndUnits r m e q) q
  | v => v

/-- The largest finite magnitude of a layout, as m*2^e. -/
def FpLayout.maxFinite (l : FpLayout) : Nat × Int :=
  let top := 2 ^ l.ebits - 1
  match l.special with
  | 0 => (2 ^ (l.mbits + 1) - 1, ((top - 1 : Nat) : Int) - l.bias - l.mbits)
  | 1 => (2 ^ (l.mbits + 1) - 2, (top : Int) - l.bias - l.mbits)
  | _ => (2 ^ (l.mbits + 1) - 1, (top : Int) - l.bias - l.mbits)

/-- Whether a rounded magnitude exceeds the largest finite one (R45). -/
def FpLayout.overflows (l : FpLayout) (m : Nat) (e : Int) : Bool :=
  let (a, b) := l.maxFinite
  magLt a b m e

/-- The code of a finite value that lies on the layout's grid and within its range (R44 step 6). -/
def FpLayout.encodeFin (l : FpLayout) (s : Bool) (m : Nat) (e : Int) : Nat :=
  let sgn := b2n s <<< (l.ebits + l.mbits)
  if m == 0 then sgn
  else
    let x := max (floorLog2 m e) l.emin
    let k := shiftZ m (e - (x - l.mbits))
    if k < 2 ^ l.mbits then sgn + k
    else sgn + ((x + l.bias).toNat <<< l.mbits) + (k - 2 ^ l.mbits)

/-- The code of an infinity (layouts of kind 0). -/
def FpLayout.infCode (l : FpLayout) (s : Bool) : Nat :=
  (b2n s <<< (l.ebits + l.mbits)) + ((2 ^ l.ebits - 1) <<< l.mbits)

/-- The canonical quiet NaN (R43): 0x7FC0_0000, 0x7FC0, 0x7E00, 0x7F (E4M3), 0x7E (E5M2). -/
def FpLayout.nanCode (l : FpLayout) : Nat :=
  match l.special with
  | 0 => ((2 ^ l.ebits - 1) <<< l.mbits) + 2 ^ (l.mbits - 1)
  | _ => 2 ^ (l.ebits + l.mbits) - 1

/-- The largest finite code with a sign. -/
def FpLayout.maxCode (l : FpLayout) (s : Bool) : Nat :=
  let (m, e) := l.maxFinite
  l.encodeFin s m e

/-! Exact arithmetic on values. -/

/-- The sign of a value, zero's included. -/
def FV.neg? : FV → Bool
  | .nan => false | .inf s => s | .fin s _ _ => s

/-- The value with its sign turned. -/
def FV.negate : FV → FV
  | .nan => .nan | .inf s => .inf (!s) | .fin s m e => .fin (!s) m e

/-- The value with a positive sign. -/
def FV.abs : FV → FV
  | .nan => .nan | .inf _ => .inf false | .fin _ m e => .fin false m e

/-- Whether a value is finite. -/
def FV.isFinite : FV → Bool
  | .fin _ _ _ => true | _ => false

/-- Whether a value is plus or minus zero. -/
def FV.isZero : FV → Bool
  | .fin _ m _ => m == 0 | _ => false

/-- Whether a value is NaN. -/
def FV.isNan : FV → Bool
  | .nan => true | _ => false

/-- A finite value's signed significand at exponent `e` (at most its own). -/
def signedAt (s : Bool) (m : Nat) (e0 e : Int) : Int :=
  let u : Int := (m <<< (e0 - e).toNat : Nat)
  if s then -u else u

/-- The exact sum (R43 step 3): an exact zero is -0 only when both terms are -0; opposite infinities give NaN. -/
def FV.add : FV → FV → FV
  | .nan, _ => .nan
  | _, .nan => .nan
  | .inf s, .inf t => if s == t then .inf s else .nan
  | .inf s, .fin _ _ _ => .inf s
  | .fin _ _ _, .inf t => .inf t
  | .fin s m e, .fin t n f =>
    if m == 0 && n == 0 then .fin (s && t) 0 0
    else
      let g := min e f
      let z := signedAt s m e g + signedAt t n f g
      .fin (decide (z < 0)) z.natAbs g

/-- The exact product (R43): 0 times an infinity gives NaN. -/
def FV.mul : FV → FV → FV
  | .nan, _ => .nan
  | _, .nan => .nan
  | .inf s, .inf t => .inf (s != t)
  | .inf s, .fin t n _ => if n == 0 then .nan else .inf (s != t)
  | .fin s m _, .inf t => if m == 0 then .nan else .inf (s != t)
  | .fin s m e, .fin t n f => .fin (s != t) (m * n) (e + f)

/-- Multiplication by 2^k, exact with an unbounded exponent (R41). -/
def FV.scale (k : Int) : FV → FV
  | .fin s m e => .fin s m (e + k)
  | v => v

/-- The exact sum of a list of terms (R43 step 3); no term at all gives +0. -/
def FV.sum : List FV → FV
  | [] => .zero
  | x :: r => r.foldl FV.add x

/-- Numeric comparison of two values that are not NaN: less than. -/
def FV.lt : FV → FV → Bool
  | .nan, _ => false
  | _, .nan => false
  | .inf s, .inf t => s && !t
  | .inf s, .fin _ _ _ => s
  | .fin _ _ _, .inf t => !t
  | .fin s m e, .fin t n f =>
    let g := min e f
    decide (signedAt s m e g < signedAt t n f g)

/-- Numeric equality; +0 and -0 are equal, NaN equals nothing. -/
def FV.eqv (a b : FV) : Bool := !a.isNan && !b.isNan && !a.lt b && !b.lt a

/-! FP32 by its bits. -/

/-- The FP32 layout. -/
def f32L : FpLayout := ⟨8, 23, 127, 0⟩

/-- The value of FP32 bits. -/
def f32V (w : Word32) : FV := f32L.decode w.toNat

/-- The canonical quiet NaN of FP32 (R43). -/
def f32Nan : Word32 := 0x7FC00000#32

/-- A layout's code of a value rounded once, overflowing to infinity (R43 step 4). -/
def FpLayout.roundCode (l : FpLayout) (r : Rnd) (v : FV) : Nat :=
  match roundGrid r l.mbits l.emin v with
  | .nan => l.nanCode
  | .inf s => l.infCode s
  | .fin s m e => if l.overflows m e then l.infCode s else l.encodeFin s m e

/-- A value rounded to FP32, nearest with ties to even. -/
def toF32 (v : FV) : Word32 := BitVec.ofNat 32 (f32L.roundCode .rne v)

/-- A value rounded to FP32 toward plus infinity (R185, R186). -/
def toF32Up (v : FV) : Word32 :=
  match v with
  | .fin true m e =>
    match roundGrid .floorUp 23 f32L.emin (.fin true m e) with
    | .fin s a b => BitVec.ofNat 32 (if f32L.overflows a b then f32L.maxCode true else f32L.encodeFin s a b)
    | _ => f32Nan
  | .fin false m e => BitVec.ofNat 32 (f32L.roundCode .ceil (.fin false m e))
  | w => toF32 w

/-- FP32 addition to nearest even. -/
def fadd (a b : Word32) : Word32 := toF32 ((f32V a).add (f32V b))

/-- FP32 subtraction to nearest even. -/
def fsub (a b : Word32) : Word32 := toF32 ((f32V a).add (f32V b).negate)

/-- FP32 multiplication to nearest even. -/
def fmul (a b : Word32) : Word32 := toF32 ((f32V a).mul (f32V b))

/-- An exact quotient carried with a sticky bit, enough to round it once to FP32. -/
def quotV (s : Bool) (a b : Nat) (e : Int) : FV :=
  let k := 64 + Nat.log2 b
  let n := a <<< k
  let q := n / b
  .fin s (2 * q + b2n (n % b != 0)) (e - k - 1)

/-- The quotient of two values before rounding (R149: IEEE 754 invalid cases give NaN). -/
def FV.div : FV → FV → FV
  | .nan, _ => .nan
  | _, .nan => .nan
  | .inf _, .inf _ => .nan
  | .inf s, .fin t _ _ => .inf (s != t)
  | .fin s _ _, .inf t => .fin (s != t) 0 0
  | .fin s m e, .fin t n f =>
    if n == 0 then (if m == 0 then .nan else .inf (s != t))
    else if m == 0 then .fin (s != t) 0 0
    else quotV (s != t) m n (e - f)

/-- FP32 division to nearest even. -/
def fdiv (a b : Word32) : Word32 := toF32 ((f32V a).div (f32V b))

/-- The integer square root by bits: the largest r with r*r at most n, for r below 2^i more bits. -/
def isqrtBits (n : Nat) : Nat → Nat → Nat
  | 0, r => r
  | i + 1, r => let t := r + 2 ^ i; isqrtBits n i (if t * t ≤ n then t else r)

/-- The integer square root. -/
def isqrt (n : Nat) : Nat := isqrtBits n (Nat.log2 n / 2 + 1) 0

/-- The square root before rounding, with a sticky bit; -0 gives -0, a negative value NaN (Table 5-4). -/
def FV.sqrt : FV → FV
  | .nan => .nan
  | .inf s => if s then .nan else .inf false
  | .fin s m e =>
    if m == 0 then .fin s 0 0
    else if s then .nan
    else
      let (m1, e1) := if e % 2 == 0 then (m, e) else (2 * m, e - 1)
      let n := m1 <<< 128
      let q := isqrt n
      .fin false (2 * q + b2n (q * q != n)) (e1 / 2 - 64 - 1)

/-- FP32 square root to nearest even. -/
def fsqrt (a : Word32) : Word32 := toF32 (f32V a).sqrt

/-- Whether FP32 bits hold a finite value. -/
def f32Finite (a : Word32) : Bool := (f32V a).isFinite

/-- Compensated addition of one term into a pair (R53). -/
def compAdd (p : Word32 × Word32) (t : Word32) : Word32 × Word32 :=
  let s := fadd p.1 t
  if !f32Finite s then (s, 0#32)
  else
    let bp := fsub s p.1
    let e := fadd (fsub p.1 (fsub s bp)) (fsub t bp)
    (s, fadd p.2 e)

/-- The pair that close_group forms over its segments (R56), before the last addition. -/
def closePair : List (Word32 × Word32) → Word32 × Word32
  | [] => (0#32, 0#32)
  | p :: r => r.foldl (fun a s => let b := compAdd a s.1; (b.1, fadd b.2 s.2)) p

/-- close_group (R56). -/
def closeGroup (seg : List (Word32 × Word32)) : Word32 :=
  let p := closePair seg
  fadd p.1 p.2

/-! Random bits (R49). -/

/-- Reduction modulo 2^64. -/
def u64 (n : Nat) : Nat := n % 2 ^ 64

/-- The mixing function (R49). -/
def mix (z : Nat) : Nat :=
  let a := u64 (Nat.xor (u64 z) (u64 z >>> 30) * 0xBF58476D1CE4E5B9)
  let b := u64 (Nat.xor a (a >>> 27) * 0x94D049BB133111EB)
  Nat.xor b (b >>> 31)

/-- The 32 random bits of an element (R49). -/
def srBits (seed tensorId index step : Nat) : Nat :=
  let k0 := mix seed
  let k1 := mix (Nat.xor (u64 seed) 0x9E3779B97F4A7C15)
  let c := mix (Nat.xor (u64 index) k0)
  let d := mix (Nat.xor (Nat.xor c (u64 ((step <<< 32) + tensorId % 2 ^ 32))) k1)
  d >>> 32

/-! Conversion (R44 to R48, R506). -/

/-- The rounding a conversion uses for one element: the tensor's mode (R47) and, for mode 0b10, the element's bits. -/
def rndOf (mode r : Nat) : Rnd :=
  match mode with
  | 1 => .rtz
  | 2 => .sr r
  | _ => .rne

/-- What one conversion did, for the gauge's outcome counts (R62). -/
structure Outc where
  sat : Bool := false
  under : Bool := false
  zero : Bool := false
  deriving DecidableEq, Repr

/-- Conversion into a floating-point layout after scaling (R44 steps 4 to 6, Table 2-3); `mx` marks an element of a
finite MX block, which saturates in both modes. -/
def convFp (l : FpLayout) (r : Rnd) (nonSat mx isF32 : Bool) (x : FV) : Nat × Outc :=
  match x with
  | .nan => (l.nanCode, {})
  | .inf s =>
    if isF32 || (nonSat && l.special == 0) then (l.infCode s, {})
    else if nonSat && !mx then (l.nanCode, {})
    else (l.maxCode s, {})
  | .fin s m e =>
    match roundGrid r l.mbits l.emin (.fin s m e) with
    | .fin t a b =>
      if l.overflows a b then
        let code := if mx || !nonSat then l.maxCode t else if l.special == 0 then l.infCode t else l.nanCode
        (code, { sat := true })
      else (l.encodeFin t a b, { under := m != 0 && a == 0, zero := a == 0 })
    | _ => (l.nanCode, {})

/-- Conversion into INT32 or UINT8 (R506). -/
def convInt (isInt32 : Bool) (r : Rnd) (x : FV) : Nat × Outc :=
  let lo : Int := if isInt32 then -(2 ^ 31 : Nat) else 0
  let hi : Int := if isInt32 then (2 ^ 31 - 1 : Nat) else 255
  let w := if isInt32 then 32 else 8
  match x with
  | .nan => (0, { zero := true })
  | .inf s => (ofSigned (if s then lo else hi) w, { zero := s && !isInt32 })
  | .fin s m e =>
    let u : Int := (rndUnits r m e 0 : Nat)
    let v := if s then -u else u
    let c := max lo (min hi v)
    (ofSigned c w, { sat := decide (c ≠ v), under := m != 0 && u == 0, zero := decide (c = 0) })

/-- Conversion of one real value into a plain format (R44, R41, R506). -/
def convPlain (f : Fmt) (k : Int) (r : Rnd) (nonSat : Bool) (x : FV) : Nat × Outc :=
  match f with
  | .int32 => convInt true r x
  | .uint8 => convInt false r x
  | _ =>
    match f.layout with
    | some l => convFp l r nonSat false (f == .fp32) (x.scale k)
    | none => (0, {})

/-- emax of an MX element format (R46). -/
def Fmt.emaxElem : Fmt → Int
  | .mx8e4 => 8 | .mx8e5 => 15 | .mx6e3 => 4 | .mx6e2 => 2 | .mx4 => 2 | _ => 0

/-- The larger of two finite magnitudes. -/
def magMax (a b : Nat × Int) : Nat × Int := if magLt a.1 a.2 b.1 b.2 then b else a

/-- The block scale byte of a block of real values (R46). -/
def mxScale (f : Fmt) (v : List FV) : Nat :=
  if v.any (fun x => !x.isFinite) then 0xFF
  else
    let a := v.foldl (fun acc x => match x with | .fin _ m e => magMax acc (m, e) | _ => acc) (0, 0)
    if a.1 == 0 then 127
    else (max (-127) (min 127 (floorLog2 a.1 a.2 - f.emaxElem)) + 127).toNat

/-- Conversion of one element of a block whose scale byte is `s` (R44 step 3, R45). In a block of scale 0xFF every element
reads as NaN; its stored code is a free value and it counts as no outcome (entry 19). -/
def convMx (f : Fmt) (s : Nat) (r : Rnd) (x : FV) : Nat × Outc :=
  match f.layout with
  | some l =>
    if s == 0xFF then
      match x with
      | .fin _ m _ => (Config.freeMxCode m % 2 ^ f.elemBits, {})
      | _ => (Config.freeMxCode 0 % 2 ^ f.elemBits, {})
    else convFp l r false true false (x.scale (127 - (s : Int)))
  | none => (0, {})

/-- The real value of a stored element: `sc` is k for a plain format (R41) or the block's scale byte (R39). -/
def decodeElem (f : Fmt) (sc : Int) (code : Nat) : FV :=
  match f with
  | .int32 => let i := toSigned code 32; .fin (decide (i < 0)) i.natAbs 0
  | .uint8 => .fin false (code % 256) 0
  | _ =>
    match f.layout with
    | some l => if f.isMx then (if sc == 255 then .nan else (l.decode code).scale (sc - 127)) else (l.decode code).scale (-sc)
    | none => .nan

end Sys2Proof.Machine
end

