-- ==== Sys2Proof/Machine/State.lean ====
section
/-!
DEFINITION. Sys2Proof/Machine/State.lean: everything the spec gives the device as plain data, the queue of waiting
commands, the reasons a step can stop, and the state after reset. Numbers are unsigned fields; INVENTORY.md lists each
with its width and rule.
-/

namespace Sys2Proof.Machine

/-- A byte store: cells in strictly rising address order. -/
abbrev Mem := List Host.Cell

/-- A Tally: a 32-bit value and two sticky flags (R310). -/
structure Tally where
  value : Nat := 0
  overSet : Bool := false
  underSet : Bool := false
  deriving DecidableEq, Repr

/-- The sparse Tallies of one block: unlisted ones are at reset. -/
abbrev Tallies := List (Nat × Tally)

/-- A waiter on a Tally, in the order in which waits reached it (R312): scope code, unit (Hearth or Smithy number, 0 for
fabric), index, count, waiting Hearth. -/
structure Waiter where
  scope : Nat
  unit : Nat
  index : Nat
  n : Nat
  hearth : Nat
  deriving DecidableEq, Repr

/-- What an operation of a Lesson or a device block reads or writes through: a Hearth, a descriptor, a Smithy's drain, a device
block. -/
inductive Actor where
  | hearth (h : Nat)
  | desc (o : Origin)
  | smithy (s : Nat)
  | block
  deriving DecidableEq, Repr

/-- What names a fault record (R449, Table 16-2); `who`: the descriptors whose work raised the fault, which the record does not hold (R507). -/
structure FaultReq where
  cls : Nat
  status : Nat
  unit : Nat := 0
  detail : Nat := 0
  addr : Nat := 0
  step : Nat := 0xFFFFFFFF
  who : List Origin := []
  deriving DecidableEq, Repr

/-- A fault record as the log keeps it (Table 16-2). -/
structure FaultRec where
  req : FaultReq
  timeUs : Nat
  seq : Nat
  origin : Nat
  wave : Nat
  deriving DecidableEq, Repr

/-! Hearth. -/

/-- What an ABIND latches (R117): output descriptor (7 none), chain record in force, coordinates, split word, and whether it named
split x0 (R179). -/
structure Binding where
  out : Nat := 7
  record : Option Nat := none
  m0 : Nat := 0
  n0 : Nat := 0
  split : Nat := 0
  noSplit : Bool := true
  deriving DecidableEq, Repr

/-- The lane map of a skip span (R182), with the neuron extent of pair 0. -/
structure LaneMap where
  n0 : Nat
  extent : Nat
  width : Nat
  chosen : List Nat
  probe : List Nat
  forced : List Bool
  deriving DecidableEq, Repr

/-- A stationary plane (R74): rounds of columns of (streaming element, value), or in narrow mode one list of columns per segment; an
unloaded plane is all +0. -/
structure Plane where
  loaded : Bool := false
  k0 : Nat := 0
  n0 : Nat := 0
  width : Nat := 0
  kinner : Bool := false
  narrow : Bool := false
  window : Bool := false
  rounds : List (List (List (Nat × FV))) := []
  deriving DecidableEq, Repr

/-- The probe plane of a skip group (R183): columns of values and the largest shadow scale of each (R185). -/
structure ProbePlane where
  k0 : Nat
  n0 : Nat
  cols : List (List FV)
  sigma : List FV
  deriving DecidableEq, Repr

/-- The skip part of a group (R184 to R188); `tiles` are the k0 and orientation of its main streams. -/
structure SkipPart where
  map : LaneMap
  probes : List (List Word32)
  absSum : List Word32
  sigma : List FV
  tiles : List (Nat × Bool)
  judged : Bool := false
  called : List Nat := []
  forcedCount : Nat := 0
  unguarded : Nat := 0
  deriving DecidableEq, Repr

/-- One accumulation group (R83). An element is (hi, lo): compensated pair; FP32 value and 0; FP16 code and fold value. -/
structure Group where
  base : Nat
  rows : Nat
  slotsPerRow : Nat
  fmt : Nat
  fold : Bool
  binding : Binding
  terms : Nat := 0
  total : Nat := 0
  flags : Nat := 0
  closedSegs : Nat := 0
  acc : List (List (Word32 × Word32))
  skip : Option SkipPart := none
  deriving DecidableEq, Repr

/-- One writeback pass of a skip group (R189): the lanes written as skipped, whether in REPLAY, whether the group's first pass, and the
neuron extent of pair 0. -/
structure SkipPass where
  lanes : List Bool
  extent : Nat
  replay : Bool
  first : Bool
  deriving DecidableEq, Repr

/-- A writeback that waits for the Temper (R145): closed values by row, what its gauge record carries, for a split part the (hi, lo) pairs of its
segments by row (R94), and the place of its closing operation in the order of issue. -/
structure Writeback where
  binding : Binding
  base : Nat
  slots : Nat
  values : List (List Word32)
  segments : Nat
  flags : Nat
  status : Nat := 0
  fmt : Nat := 0
  terms : Nat := 0
  pairs : List (List (List (Word32 × Word32))) := []
  skip : Option SkipPass := none
  seq : Nat := 0
  deriving DecidableEq, Repr

/-- An operation that waits in its unit's queue, with what it latched at its issue (R117, R119, R125, R153): its place in the order of issue, the
registers, the bindings of chains and groups, the length register. -/
structure Issued where
  op : SlotOp
  seq : Nat := 0
  regs : List (Nat × Word32) := []
  chains : List (Nat × Nat) := []
  bindings : List (Nat × Binding) := []
  vlen : Nat := 128
  deriving DecidableEq, Repr

/-- The work of a Hearth's units that issued before an operation of its Y slot: the tags of its remote writes under way, its reads under way, and
the place in the order of issue up to which queued operations and waiting writebacks belong to it (R127, R319). -/
structure Prior where
  tags : List Nat := []
  xfers : List Nat := []
  upTo : Nat := 0
  deriving DecidableEq, Repr

/-- A queued operation of the Y unit with its registers read (R125): a Roll call and a fence with the work that issued before them; a remote
signal sent under a tag; a Roll call arrived at. -/
inductive YOp where
  | wait (scope index n : Nat)
  | signal (scope index n dev : Nat)
  | sub (scope index n : Nat)
  | roll (ctx red payload : Nat) (prior : Prior)
  | fence (prior : Prior)
  | sent (tag : Nat)
  | rolled (ctx payload : Nat)
  deriving DecidableEq, Repr

/-- An image in lesson memory with its validated masks (R135). -/
structure LessonImage where
  off : Nat
  len : Nat
  descMask : Nat
  pairMask : Nat
  deriving DecidableEq, Repr

/-- A loop of the loop stack (R129): first body word, end word, word after it, index register, iteration, count. -/
structure LoopEntry where
  body : Nat
  endW : Nat
  after : Nat
  reg : Nat
  iter : Nat
  count : Nat
  deriving DecidableEq, Repr

/-- A Timetable item in the hands of a Hearth (R214): its batch, whether it is a guest item, its pairs' guest rows. -/
structure TakenItem where
  ring : Nat
  epoch : Nat
  backward : Bool
  weight : Bool := false
  layer : Nat
  guests : List Nat
  deriving DecidableEq, Repr

/-- A lent item on its Hearth (R441): borrower's port and origin, budget, irq; once aborted the status with which it ends when its split parts have
arrived (R97, R442). -/
structure LentItem where
  origin : Origin
  irq : Bool
  budget : Nat
  slots : Nat
  ending : Option Nat := none
  deriving DecidableEq, Repr

/-- A staged half of a window (R173): its scratch offset, the first KiB boundaries after it in the form it has and in the other it could
have had, its kind (Table 6-6), what it was staged from. -/
structure WindowHalf where
  scratch : Nat
  next : Nat
  alt : Nat
  kind : Nat
  desc : Nat
  row0 : Nat
  col0 : Nat
  rows : Nat
  cols : Nat
  deriving DecidableEq, Repr

/-- One physical Hearth (R16, R103); `seq` is the place in the order of issue of the last operation issued, or of the one at work; `loopDue` is the word
whose loop ends once its LDX or TAKE has written its register (R125, R130). -/
structure Hearth where
  scratch : Mem := []
  lesson : Mem := []
  images : List LessonImage := []
  regs : List (Nat × Word32) := []
  running : Bool := false
  lentRun : Option LentItem := none
  pc : Nat := 0
  ended : Option Nat := none
  rank : Nat := 0
  size : Nat := 1
  runOf : Option Origin := none
  loops : List LoopEntry := []
  chains : List (Nat × Nat) := []
  bindings : List (Nat × Binding) := []
  card0 : List Byte := []
  card1 : List Byte := []
  picked : List (Nat × Nat × Nat) := []
  stale : List Nat := []
  vlen : Nat := 128
  groups : List (Nat × Group) := []
  current : Plane := {}
  shadow : Option Plane := none
  probeCur : Option ProbePlane := none
  probeNext : Option ProbePlane := none
  laneMaps : List LaneMap := []
  windows : List WindowHalf := []
  wbq : List Writeback := []
  yq : List YOp := []
  waitq : List Issued := []
  seq : Nat := 0
  taking : Option Nat := none
  loopDue : Option Nat := none
  tallies : Tallies := []
  pendingStatus : Nat := 0
  allocs : List (Nat × Nat × Nat) := []
  items : List TakenItem := []
  seenClose : List (Nat × Nat) := []
  lastEnd : Nat := 0
  claim : Option (Nat × Nat) := none
  storageFaults : Nat := 0
  deriving DecidableEq, Repr

/-! Smithy, Timetable, hash accumulator. -/

/-- A 64-byte chunk that waits in a bank's conflict queue (R237): its first cell and its products. -/
structure Chunk where
  cell : Nat
  vals : List Word32
  deriving DecidableEq, Repr

/-- The frame of a Smithy (R230): its record, cells, close records received, tokens that received anything, whether its drain
waits for the delivery of its writes (R317). -/
structure CFrame where
  record : Nat
  cells : List (Nat × Word32) := []
  written : List Nat := []
  touched : List Nat := []
  closes : Nat := 0
  pendingStatus : Nat := 0
  draining : Bool := false
  deriving DecidableEq, Repr

/-- One Smithy (R16): tally block, scatter buffer, frame records that hold their Tongs. -/
structure Smithy where
  tallies : Tallies := []
  frame : Option CFrame := none
  banks : List (Nat × List Chunk) := []
  held : List (Nat × Nat) := []
  deriving DecidableEq, Repr

/-- An item on a Timetable ring (R216) with what its retirement needs. -/
structure Item where
  x8 : Nat
  x9 : Nat
  x10 : Nat
  x11 : Nat
  epoch : Nat
  guestSeg : Bool
  guests : List Nat
  backward : Bool
  layer : Nat
  deriving DecidableEq, Repr

/-- A lent item on a lendable ring (R440): its descriptor and its lend record. -/
structure LendPost where
  origin : Origin
  irq : Bool
  record : Nat
  deriving DecidableEq, Repr

/-- The Timetable (R216): per (die, ring) the items in order; per ring the items that wait to be posted; the lendable
rings; the alternation of dies; the rings whose next item waits on a full ring and has been counted. -/
structure Timetable where
  rings : List (Nat × List Item) := []
  waiting : List (Nat × List Item) := []
  lend : List (Nat × List LendPost) := []
  lendNext : List (Nat × Nat) := []
  posted : List (Nat × Nat) := []
  fullSeen : List Nat := []
  deriving DecidableEq, Repr

/-- A line of the hash accumulator (R240, R242): key, way of its set, age of its last write, spill entry it came from. Its pairs lie in hub SRAM
(R239). -/
structure HashLine where
  key : Nat
  way : Nat
  age : Nat
  spill : Option Nat
  deriving DecidableEq, Repr

/-- The hash accumulator (R239 to R244). -/
structure HashAcc where
  lines : List HashLine := []
  spilled : List Nat := []
  clock : Nat := 0
  deriving DecidableEq, Repr

/-! Bellows. -/

/-- A kept pair of a batch (R197). -/
structure Pair where
  token : Nat
  slot : Nat
  expert : Nat
  weight : Nat
  deriving DecidableEq, Repr

/-- A token list (R207): expert, billet, pairs, first output row, decision, holder, Lodge slot, whether posted. -/
structure TokenList where
  expert : Nat
  billet : Nat
  pairs : List Pair
  outRow : Nat
  decision : Nat
  holder : Nat
  lodge : Nat
  posted : Bool := false
  deriving DecidableEq, Repr

/-- The backward side of a batch (R252 to R262); `rowsOut` counts the rows sent that lack their delivery notice. -/
structure Backward where
  record : Nat
  recHost : Bool
  recAddr : Nat
  acc : Nat
  origin : Origin
  started : Bool := false
  rowsOut : Nat := 0
  unitsPosted : Bool := false
  rollArrived : Bool := false
  rollClosed : Bool := false
  guestClosed : Bool := false
  localClosed : Bool := false
  answers : Nat := 0
  answerSignalled : Bool := false
  postedSignalled : Bool := false
  done : Bool := false
  deriving DecidableEq, Repr

/-- A live FORWARD batch (R193 to R221): `acc` numbers acceptances; `bank` is the seating-plan bank it latched (R204); `sent` holds per holder the
answers owed; `rowsOut` counts the rows sent that lack their delivery notice (R215); `guestLists` the billets of guest lists by expert; `enders` the
RELEASE and CANCEL records, true for CANCEL. -/
structure Batch where
  epoch : Nat
  acc : Nat
  record : Nat
  recHost : Bool
  recAddr : Nat
  origin : Origin
  tenant : Nat
  revision : Nat
  bank : Nat := 0
  arrived : List Nat := []
  pairs : List Pair := []
  status : Nat := 0
  firstSeen : Bool := false
  sealed : Bool := false
  lists : List TokenList := []
  pushed : Nat := 0
  dropped : Nat := 0
  pulled : Nat := 0
  prefetchCancelled : Nat := 0
  discarded : Nat := 0
  answers : Nat := 0
  sent : List (Nat × Nat) := []
  rowsOut : Nat := 0
  answerSignalled : Bool := false
  localClosed : Bool := false
  guestClosed : Bool := false
  postedSignalled : Bool := false
  rollArrived : Bool := false
  rollClosed : Bool := false
  done : Bool := false
  cancelled : Bool := false
  enders : List (Origin × Bool) := []
  bwd : Option Backward := none
  guestLists : List (Nat × Nat) := []
  billets : List Nat := []
  deriving DecidableEq, Repr

/-- A guest row in use (R213, R256). -/
structure Guest where
  layer : Nat
  row : Nat
  step : Nat
  microBatch : Nat
  expert : Nat
  origin : Nat
  epoch : Nat
  returnRow : Nat
  weight : Nat := 0
  arrival : Nat
  joined : Bool := false
  postedFwd : Bool := false
  answered : Bool := false
  haveGrad : Bool := false
  postedBwd : Bool := false
  answeredBwd : Bool := false
  deriving DecidableEq, Repr

/-- A Lodge slot in use (R210): state 1 PREFETCH, 2 CONFIRMED, 3 COMPLETE; unlisted slots are FREE. -/
structure LodgeSlot where
  layer : Nat
  slot : Nat
  state : Nat
  expert : Nat
  step : Nat
  epoch : Nat
  got : List Nat := []
  deriving DecidableEq, Repr

/-- An open merge window at a holder (R211). -/
structure MergeWindow where
  layer : Nat
  expert : Nat
  step : Nat
  requests : List PullF
  closing : Bool := false
  deriving DecidableEq, Repr

/-- A batch, or its backward side, as the Hearths that it enlists see its rings (R218). -/
structure RingView where
  acc : Nat
  epoch : Nat
  backward : Bool
  localRing : Nat
  guestRing : Nat
  path : Nat
  tenant : Nat
  localClosed : Bool
  guestClosed : Bool
  batchGone : Bool := false
  deriving DecidableEq, Repr

/-- Granules still to come for a cancelled prefetch, of a slot which its batch may have taken again (R220). -/
structure Voided where
  layer : Nat
  slot : Nat
  epoch : Nat
  holder : Nat
  left : Nat
  deriving DecidableEq, Repr

/-- The Bellows (R192); `ended` holds what a Hearth that has not yet seen the close of an ended batch still has to be shown (R218); `stalled`: router
records that a full intake keeps back, with who stores each and from which slot, the oldest first (R198). -/
structure Bellows where
  batches : List Batch := []
  lastEpoch : Nat := 0
  intake : List Nat := []
  stalled : List (Actor × Nat × Nat) := []
  guests : List Guest := []
  ended : List RingView := []
  arrivalClock : Nat := 0
  lodge : List LodgeSlot := []
  voided : List Voided := []
  windows : List MergeWindow := []
  waitingRecords : List (Origin × Bool × Nat × Nat) := []
  acceptClock : Nat := 0
  heard : List (Nat × Nat) := []
  activeBank : Nat := 0
  activeRev : Nat := 0
  standbyRev : Nat := 0
  effectiveStep : Nat := 0
  lastStep : Option Nat := none
  layerStep : List (Nat × Nat × Nat × Nat) := []
  deriving DecidableEq, Repr

/-! Crucible. -/

/-- An announced part of a matrix (R279): matrix, step, part, tiles so far, its descriptor, and the tenant that announced it (Table 10-9). -/
structure Announced where
  matrix : Nat
  step : Nat
  part : Nat
  tiles : Nat
  desc : List Byte
  tenant : Nat := 0
  deriving DecidableEq, Repr

/-- A matrix value under reduction (R280, R283): per element (hi, lo), or absent; SPARSE values by present row. -/
structure Accum where
  matrix : Nat
  dense : Option (List (Word32 × Word32))
  sparse : List (Nat × List (Word32 × Word32)) := []
  deriving DecidableEq, Repr

/-- Where an OP_CRUCIBLE_STEP stands (Table 10-7). -/
inductive CruPhase where
  | idle
  | round (j : Nat)
  | owners
  | quench
  | picker (call : Nat)
  | check (shard : Nat)
  | gather
  deriving DecidableEq, Repr

/-- The Crucible (R275 to R308). `leafIn`: the parts whose values have been read (R280). `stageHeld`: chunks that wait on their sender's share of the
staging (R285); `unfenced`: contributions sent in the round and not yet delivered; `drained`: the round's drain Roll call has closed (R284). `restored`:
the step of the last RESTORE (R462); `lastRun`: the highest step of an OP_CRUCIBLE_STEP, refused or run (R300; entry 70); `lastDone`: the last one that completed its step
(R459). `imaged`: matrices whose image has landed for a step that this device has not begun (R306). -/
structure Crucible where
  phase : CruPhase := .idle
  record : Nat := 0
  origin : Option Origin := none
  waiting : List (Origin × Nat) := []
  lastRun : Option Nat := none
  lastDone : Option Nat := none
  announced : List Announced := []
  nonFinite : List (Nat × Nat) := []
  acc : List Accum := []
  inbox : List ContribF := []
  reduced : List Accum := []
  clipFactor : Option Word32 := none
  finished : List (Nat × Nat) := []
  quenched : Option Nat := none
  changed : List Nat := []
  landed : List (Nat × List Nat) := []
  imaged : List (Nat × Nat) := []
  restored : Option Nat := none
  leafIn : List (Announced × List Word32) := []
  stageHeld : List ContribF := []
  unfenced : Nat := 0
  drained : Bool := false
  gatherSignalled : List Nat := []
  digests : List (Nat × Nat) := []
  deriving DecidableEq, Repr

/-- The Crucible with no step in hand. -/
def Crucible.idled (x : Crucible) : Crucible :=
  { x with phase := .idle, acc := [], reduced := [], clipFactor := none, gatherSignalled := [], digests := [], changed := [], landed := [], origin := none }

/-! Sync. -/

/-- A local participant of a Roll call (R323). -/
inductive Party where
  | hearth (h : Nat)
  | host (o : Origin)
  | bellows (epoch : Nat) (backward : Bool)
  | crucible
  | picker
  | snapshot
  deriving DecidableEq, Repr

/-- A Roll-call context's open generation (R325, R327). -/
structure RollCtx where
  gen : Nat := 0
  counts : List (Nat × Nat) := []
  arrived : List (Party × List Byte × Nat) := []
  held : List (Party × List Byte × Nat × Nat) := []
  remote : List (Nat × List Byte) := []
  remoteHeld : List (Nat × List Byte) := []
  sentUp : Bool := false
  result : Option (List Byte) := none
  deriving DecidableEq, Repr

/-- The fabric sync engine (R309, R322) with the waiters of every Tally. -/
structure Sync where
  tallies : Tallies := []
  ctxs : List (Nat × RollCtx) := []
  waiters : List Waiter := []
  deriving DecidableEq, Repr

/-! Pools. -/

/-- One pool set (R350): record as checked, ready, error; free lists of stacked classes, owners of scratch billets. -/
structure PoolSet where
  enabled : Bool := false
  ready : Bool := false
  error : Bool := false
  record : Nat := 0
  heads : List (Nat × Nat) := []
  owners : List (Nat × Nat) := []
  waiting : List (Nat × Nat) := []
  deriving DecidableEq, Repr

/-- The buffer pool manager (R350 to R360). -/
structure Pools where
  sets : List (Nat × PoolSet) := []
  held : List (Nat × Nat) := []
  deriving DecidableEq, Repr

/-! Fabric. -/

/-- What the arrival of data continues with. Ranges are the bytes asked for, in order. -/
inductive Cont where
  | fetchDesc (q r slot : Nat)
  | lesson (o : Origin) (d : Desc)
  | card (o : Origin) (d : Desc)
  | lend (o : Origin) (d : Desc)
  | lendImage (o : Origin) (h record : Nat)
  | lendCard (o : Origin) (h record : Nat) (image : List Byte)
  | copy (o : Origin) (d : Desc)
  | roll (o : Origin) (d : Desc)
  | bellows (o : Origin) (d : Desc)
  | crucible (o : Origin) (d : Desc)
  | leaf (a : Announced)
  | snapshot (o : Origin) (d : Desc)
  | seat (o : Origin) (d : Desc)
  | tload (h : Nat) (f : TloadF) (regs : List (Nat × Word32))
  | tgather (h : Nat) (f : TindexF) (regs : List (Nat × Word32))
  | tstore (h : Nat) (f : TstoreF) (regs : List (Nat × Word32))
  | window (h : Nat) (w : WindowHalf) (cause : Nat)
  | acatch (h : Nat) (f : AcatchF) (regs : List (Nat × Word32)) (seq : Nat)
  | splitRead (h : Nat) (w : Writeback) (headers : List Byte)
  deriving DecidableEq, Repr

/-- A read in progress from a host or from other devices: the pieces asked for and those that have come. -/
structure Transfer where
  id : Nat
  actor : Actor
  cont : Cont
  host : Option Nat := none
  pieces : List (Nat × Nat)
  got : List (Nat × List Byte) := []
  deriving DecidableEq, Repr

/-- What the response of an outstanding request ends (R418). A piece of a row of a hash scatter says whether it is the row's first and whether the
card was strict (R175, R176). -/
inductive ReqUse where
  | piece (xfer index : Nat)
  | store
  | atomicPage (reply doneTally : Nat) (signal : Bool)
  | split (w : Writeback)
  | hashRow (count strict : Bool)
  | signalAfter (tally : Nat)
  | signal
  | pull (epoch : Nat)
  deriving DecidableEq, Repr

/-- A request to another device that still lacks its response (R418); `slot` is the slot of the operation that sent it, 9 for none (R126). -/
structure OutReq where
  tag : Nat
  dst : Nat
  frame : Frame
  actor : Actor
  use : ReqUse
  slot : Nat := 9
  resends : Nat := 0
  late : Bool := false
  deriving DecidableEq, Repr

/-- A request that waits at the line unit: a line's part of a write, a signal, an atomic, or a load behind them (R409, R416); `off` is the
first address of the part. -/
structure LineWrite where
  line : Nat
  port : Nat
  txn : Txn
  off : Nat
  data : List Byte
  last : Bool
  deriving DecidableEq, Repr

/-- The fabric side of the hub (R399 to R422): requests out, sequences out and in, replay entries that are live and what is acknowledged, atomics held
back, the line unit with the source it served last on each line, transfers, frames to send. -/
structure Fabric where
  out : List OutReq := []
  nextTag : Nat := 0
  seqOut : List (Nat × Nat) := []
  sigOut : List (Nat × Nat) := []
  seqIn : List (Nat × Nat) := []
  sigIn : List (Nat × Nat) := []
  live : List (Nat × Nat) := []
  acked : List (Nat × Nat) := []
  atomHeld : List OutReq := []
  lineWait : List LineWrite := []
  lineBusy : List (Nat × Nat) := []
  xfers : List Transfer := []
  nextXfer : Nat := 0
  tx : List (Nat × Nat × Frame) := []
  deriving DecidableEq, Repr

/-- The route table as latched at the last job start (R393): entry index and its mask; usable, generation-1 ports, planes. -/
structure Route where
  masks : List (Nat × Nat) := []
  gen1 : List Nat := []
  deriving DecidableEq, Repr

/-! Host ports. -/

/-- A descriptor that has started and not completed (R431). -/
structure Started where
  slot : Nat
  tag : Nat
  opcode : Nat
  irq : Bool
  barrier : Bool
  hearths : List Nat := []
  members : List (Nat × Option Nat × Nat) := []
  awaited : Nat := 0
  done : Nat := 0
  total : Nat := 0
  status : Nat := 0
  data : Nat := 0
  deriving DecidableEq, Repr

/-- A fetched descriptor that waits to start (R431). -/
structure Fetched where
  slot : Nat
  opcode : Nat
  d : Desc
  deriving DecidableEq, Repr

/-- One ring pair (R427). -/
structure Ring where
  enabled : Bool := false
  lost : Bool := false
  error : Bool := false
  sqTail : Nat := 0
  fetchHead : Nat := 0
  cqHead : Nat := 0
  cqTail : Nat := 0
  phase : Bool := true
  fetched : List Fetched := []
  started : List Started := []
  irqOut : Bool := false
  irqHeld : List Nat := []
  lostHead : Nat := 0
  deriving DecidableEq, Repr

/-- An item of a queue (R361): type and valid bit of its word 0, and the rest. The idle item of R363 is the default. -/
structure QueueItem where
  kind : Nat := 0
  valid : Bool := false
  payload : Nat := 0
  deriving DecidableEq, Repr

/-- An edge FIFO (R365): its items, its write and read pointers in Gray code, the self-timed side's pointer as the three flip-flops of the clocked side
hold it, newest first, and the clocked side's pointer as the self-timed side last sampled it. -/
structure EdgeFifo where
  items : List QueueItem := []
  write : Nat := 0
  read : Nat := 0
  flops : List Nat := [0, 0, 0]
  sampled : Nat := 0
  deriving DecidableEq, Repr

/-- One PCI Express port (R425): its generation and width as trained, messages sent, posted writes, answers to configuration requests, µs since the last heartbeat
(R437), and its edge FIFOs (R365). -/
structure HostPort where
  trained : Bool := false
  gen : Nat := 0
  width : Nat := 0
  perst : Bool := true
  lost : Bool := false
  rings : List (Nat × Ring) := []
  masked : List Nat := []
  pendingBits : List Nat := []
  sent : List Nat := []
  writes : List (Nat × List Byte) := []
  config : List Nat := []
  sinceBeat : Nat := 0
  inEdge : EdgeFifo := {}
  outEdge : EdgeFifo := {}
  deriving DecidableEq, Repr

/-! Memory condition. -/

/-- The stacked-memory controllers (R338, R341 to R347), and the edge FIFO that brings them the refresh requests of the local reference (R365). -/
structure Dram where
  active : List Nat := (List.range 64).map (fun i => i / 2 + 32 * (i % 2))
  localSize : Nat := 0
  errors : List (Nat × Nat) := []
  watch : List (Nat × List Nat) := []
  marked : List (Nat × Nat) := []
  retiredRows : List (Nat × Nat) := []
  retiredChannels : List Nat := []
  patrol : List (Nat × Nat) := []
  refreshes : List (Nat × Nat) := []
  refEdge : EdgeFifo := {}
  deriving DecidableEq, Repr

/-! Picker, snapshots, management. -/

/-- One picker entry (R63 to R68). -/
structure PickEntry where
  history : List (Nat × Nat) := []
  summary : List (Nat × Int × Int) := []
  pickNow : Nat × Nat := (1, 0)
  pickPrev : Nat × Nat := (1, 0)
  deriving DecidableEq, Repr

/-- The picker (R63); `stepKnown`: the first step number of the job has shown itself (R68; entry 15). -/
structure Picker where
  entries : List (Nat × PickEntry) := []
  pickStep : Nat := 0
  stepKnown : Bool := false
  deriving DecidableEq, Repr

/-- The snapshot engine (R457 to R464): phase 0 idle, 1 waits on ctx1, 2 drains, 3 waits on ctx2; `cardStep` is one more than the
highest step of a card that has run since the job's start or restart (R459); `waiting`: records that wait for the engine (entry 81). -/
structure Snap where
  phase : Nat := 0
  restore : Bool := false
  record : Nat := 0
  recAddr : Nat := 0
  origin : Option Origin := none
  area : Nat := 0
  turn : Nat := 0
  step : Nat := 0
  cardStep : Nat := 0
  waiting : List (Origin × Nat × List Byte) := []
  deriving DecidableEq, Repr

/-- MGT_JOB_STATE (R451). -/
inductive JobState where
  | running | quiesced | resetting | restarted | stopped
  deriving DecidableEq, Repr

/-- Management state outside power (R449 to R455, R499). -/
structure Mgt where
  deviceId : Nat := 0
  active : Bool := false
  jobs : Nat := 0
  jobState : JobState := .running
  torn : Bool := false
  overLimit : Bool := false
  waveNum : Nat := 1
  waveUp : List Nat := []
  waveDown : List Nat := []
  waveFromParent : List Nat := []
  waveSeen : List (Nat × Nat) := []
  waveOrigin : Nat := 0
  waveHeld : Option (Nat × Nat × Nat) := none
  faultHeld : Bool := false
  restartCount : Nat := 0
  snapLast : Nat := 0xFFFFFFFF
  faultHead : Nat := 0
  faultLog : List FaultRec := []
  timeUs : Nat := 0
  logical : List Nat := []
  retiredHearths : List Nat := []
  retiredMap : List Nat := []
  pendingRetire : List Nat := []
  deriving DecidableEq, Repr

/-- The part (R1, R2, R468): grade 1 or 2, fused Hearths, position straps. -/
structure Part where
  grade : Nat := 1
  fused : List Nat := [59, 63, 67, 71, 75, 79, 83, 87]
  pos : Nat := 0
  deriving DecidableEq, Repr

/-- Everything but power and links: what commands of the job side change. -/
structure Core where
  part : Part := {}
  mgt : Mgt := {}
  cfg : List (Nat × Nat) := []
  latched : List (Nat × Nat) := []
  counters : List (Nat × Nat) := []
  stacked : Mem := []
  hub : Mem := []
  dram : Dram := {}
  hearths : List (Nat × Hearth) := []
  scratchEpoch : Nat := 0
  smithies : List (Nat × Smithy) := []
  tt : Timetable := {}
  hash : HashAcc := {}
  picker : Picker := {}
  bellows : Bellows := {}
  crucible : Crucible := {}
  sync : Sync := {}
  pools : Pools := {}
  fabric : Fabric := {}
  route : Route := {}
  ports : List (Nat × HostPort) := []
  snap : Snap := {}
  free : Nat := 0
  deriving DecidableEq, Repr

/-! Power, flash, root of trust. -/

/-- The four images of a slot as shipped (R481; entry 13). -/
def shippedImages : List Image := (List.range 4).map (fun i => { kind := i + 1, version := 0, payload := [], signature := List.replicate 512 0#8, certificate := [], signed := true })

/-- SPI flash as far as the spec gives it (R473, R481, R483): both firmware slots, whether B is preferred, the event area (Hearths that
tripped), the configuration area. The Hearth of a trip not yet written is the input stage's. -/
structure Flash where
  slotA : List Image := shippedImages
  slotB : List Image := shippedImages
  preferB : Bool := false
  tripped : Option Nat := none
  events : List Nat := []
  config : List Byte := Config.identityChain
  deriving DecidableEq, Repr

/-- Power, regulator, start-up, root of trust, management traffic (R470 to R488). -/
structure Power where
  stage : Nat := 0
  waitFor : Nat := 0
  failCode : Nat := 0
  percent : Nat := 0
  portsDone : Nat := 0
  enable : Bool := false
  standbyOn : Bool := false
  mainOn : Bool := false
  thermTrip : Bool := false
  coreNow : Nat := 750
  powerNow : Nat := 0
  inputMv : Nat := 0
  beatRate : Nat := 2000
  rates : List Nat := []
  cap : Nat := 2400
  fixed : Bool := false
  coreSet : Nat := 750
  hearthTemp : List (Nat × Nat) := []
  layerTemp : List (Nat × Nat) := []
  hot : List Nat := []
  throttled : List Nat := []
  tick : Nat := 0
  meas : List (Nat × List Byte) := []
  flash : Flash := {}
  bootedB : Bool := false
  running : List Nat := []
  fusedMin : List Nat := []
  rootKey : List Byte := Config.rootKeyDigest
  svnCommit : Bool := false
  replies : List (List Byte) := []
  mgtIn : EdgeFifo := {}
  mgtOut : EdgeFifo := {}
  deriving DecidableEq, Repr

/-! Links. -/

/-- A frame as this device put it on a port's wire (Table 13-2): what its header says beyond the transaction. An ACK and a CREDIT frame return
credits beside their acknowledgement (R376). -/
inductive WireFrame where
  | data (seq ack creditVc credit : Nat) (f : Frame)
  | ack (ack creditVc credit : Nat)
  | nak (ack : Nat)
  | credit (ack creditVc credit : Nat)
  | laneSet (ack : Nat) (lanes : List Nat)
  | train (m : TrainMsg)
  | basePage (gen1 gen2 : Bool)
  deriving DecidableEq, Repr

/-- A frame kept for replay (R385) with the sequence and the credits that its header carries. -/
structure Kept where
  seq : Nat
  creditVc : Nat
  credit : Nat
  frame : Frame
  deriving DecidableEq, Repr

/-- A transaction that has arrived and waits in the receive buffer of its channel (R375): its units, and the command that brought it. -/
structure Held where
  vc : Nat
  units : Nat
  cmd : Instr
  deriving DecidableEq, Repr

/-- One Farger port's link (R369 to R390): position (Table 13-4); lanes in service, lanes that passed so far in training, lanes in the
retirement record; generation; settings latched at the training's start; last sequence sent and received; the replay queue and how many
of its frames are sent; what the receive buffers hold; credits of the peer and credits owed to it; channels whose frame was counted as waiting,
the last one served in turn and the input last served on each; retries charged in the 1 ms window; uncorrectable codewords in the 1 s window;
whether frames are discarded until a rewind; the port's edge FIFOs; frames put on the wire. -/
structure Link where
  position : Nat := 0
  lanes : List Nat := []
  passed : List Nat := []
  retired : List Nat := []
  gen : Nat := 0
  planeB : Bool := false
  allow1 : Bool := false
  expect : Nat := 0
  peer : Nat := 0
  txSeq : Nat := 0
  rxSeq : Nat := 0
  ackOwed : Bool := false
  replay : List Kept := []
  sent : Nat := 0
  rx : List Held := []
  credits : List (Nat × Nat) := []
  owed : List (Nat × Nat) := []
  waited : List Nat := []
  lastVc : Nat := 3
  lastIn : List (Nat × Nat) := []
  laneRetries : List (Nat × Nat) := []
  portRetries : Nat := 0
  uncorrWindow : List (Nat × Nat) := []
  discarding : Bool := false
  inEdge : EdgeFifo := {}
  outEdge : EdgeFifo := {}
  wire : List WireFrame := []
  deriving DecidableEq, Repr

/-- The state of the block: the job side, power, the 32 links, and the waiting commands, first in, first out. -/
structure State where
  core : Core := {}
  power : Power := {}
  links : List (Nat × Link) := []
  pending : List Instr := []
  deriving DecidableEq, Repr

/-- Reasons the block stops with no next state. There is none: every fault of the spec is a next state (R447, R507), so no
command of the table ends a run. -/
inductive Fault where
  deriving DecidableEq, Repr

/-- Reasons the block refuses a command. -/
inductive Refusal where
  /-- Raised by an arm of exec that has no meaning yet, by its mnemonic. Safe: the model stops. -/
  | notModelled (mnemonic : String)
  deriving DecidableEq, Repr

/-- The device with its input just applied and nothing started: every register at its Reset column, memory with nothing
listed, no command waiting (R9, R476; entries 1, 2 and 14). -/
def State.reset : State := {}

end Sys2Proof.Machine
end

