-- ==== Sys2Proof/Machine/Queues.lean ====
section
/-!
DEFINITION. Sys2Proof/Machine/Queues.lean: items, probes and blocking takes (R361, R363), queues that replay (R364), and edge FIFOs with their
pointers and flags (R365, R366, Table 12-5).
-/

namespace Sys2Proof.Machine

/-! Items and chains (R361 to R364). -/

/-- The idle item (R363): every payload bit 0, type IDLE and the valid bit clear. -/
def idleItem : QueueItem := {}

/-- Whether a queue may hold an item: never one of type IDLE with its valid bit set (R363). -/
def QueueItem.holdable (x : QueueItem) : Bool := !(x.kind == 0 && x.valid)

/-- Word 0 of an item (R361): type in [3:0], valid in [4]; the rest is payload. -/
def QueueItem.word (x : QueueItem) : Nat := x.kind % 16 + place (b2n x.valid) 1 4 + x.payload <<< 5

/-- A queue with its three positions (R364): the items from the mark to the tail, how many of them are taken, and its depth. A fall-through chain is one
whose takes release at once (R362). -/
structure ItemQueue where
  depth : Nat
  items : List QueueItem := []
  taken : Nat := 0
  deriving DecidableEq, Repr

/-- Whether the producer waits: tail − mark equals the depth (R362, R364). -/
def ItemQueue.full (q : ItemQueue) : Bool := q.items.length == q.depth

/-- An item written at the tail; none while the producer waits. -/
def ItemQueue.offer (q : ItemQueue) (x : QueueItem) : Option ItemQueue :=
  if q.full || !x.holdable then none else some { q with items := q.items ++ [x] }

/-- The next take: the item at the head, which a take leaves in the queue. A blocking take finds none and waits (R363). -/
def ItemQueue.take (q : ItemQueue) : Option (QueueItem × ItemQueue) := (q.items[q.taken]?).map (fun x => (x, { q with taken := q.taken + 1 }))

/-- A probe returns at once, of an empty queue the idle item (R363). -/
def ItemQueue.probe (q : ItemQueue) : QueueItem × ItemQueue := (q.take).getD (idleItem, q)

/-- The first k items released, k at most head − mark: only this frees space. -/
def ItemQueue.release (q : ItemQueue) (k : Nat) : ItemQueue := if k ≤ q.taken then { q with items := q.items.drop k, taken := q.taken - k } else q

/-- The head set back to the mark. A producer that waits goes on waiting (Table 12-7). -/
def ItemQueue.rewind (q : ItemQueue) : ItemQueue := { q with taken := 0 }

/-- A probe and a write that reach the queue together: either may be first, as a free value says (Table 12-7); the item is never lost. -/
def ItemQueue.probeWith (q : ItemQueue) (x : QueueItem) (free : Nat) : QueueItem × Option ItemQueue :=
  if bit (Config.freeWord free).toNat 0 then
    match q.offer x with
    | some d => let r := d.probe; (r.1, some r.2)
    | none => (q.probe.1, none)
  else let r := q.probe; (r.1, r.2.offer x)

/-! Edge FIFOs. -/

/-- A number in Gray code, and back, in w bits. -/
def gray (n : Nat) : Nat := n ^^^ (n >>> 1)
def ungray (w g : Nat) : Nat := (List.range w).foldl (fun n i => n ^^^ (g >>> i)) 0

/-- A pointer of w bits some steps on. -/
def grayOn (w g n : Nat) : Nat := gray ((ungray w g + n) % 2 ^ w)

/-- Clocked domains and their edge FIFOs (Table 12-5). -/
inductive EdgeDomain where
  | pcie (port : Nat) | farger (port : Nat) | management | reference
  deriving DecidableEq, Repr

/-- Bits of a domain's pointers: one more than the entry index takes. -/
def EdgeDomain.pointerBits : EdgeDomain → Nat
  | .pcie _ => 7 | .farger _ => 8 | .management => 5 | .reference => 3

/-- Entries of a domain's FIFOs, a power of two. -/
def EdgeDomain.entries (d : EdgeDomain) : Nat := 2 ^ (d.pointerBits - 1)

/-- FIFOs of one domain: one each way, but for the local reference, which is inbound only. -/
def EdgeDomain.fifos : EdgeDomain → Nat
  | .reference => 1 | _ => 2

/-- The other side's pointer as a side has it: the clocked side through its third flip-flop, the self-timed side as last sampled. -/
def EdgeFifo.seen (e : EdgeFifo) (clocked : Bool) : Nat := if clocked then (e.flops[2]?).getD 0 else e.sampled

/-- The full flag as the writer has it, and the empty flag as the reader has it (R366). Inbound the clocked side writes, outbound it reads. -/
def EdgeFifo.full (e : EdgeFifo) (w : Nat) (inbound : Bool) : Bool :=
  (ungray w e.write + 2 ^ w - ungray w (e.seen inbound)) % 2 ^ w == 2 ^ (w - 1)
def EdgeFifo.empty (e : EdgeFifo) (inbound : Bool) : Bool := e.read == e.seen (!inbound)

/-- The clocked side's clock: the self-timed pointer moves through its flip-flops. -/
def EdgeFifo.clock (e : EdgeFifo) (inbound : Bool) : EdgeFifo := { e with flops := (if inbound then e.read else e.write) :: e.flops.take 2 }

/-- The self-timed side samples the clocked pointer, whole: its mutual-exclusion element resolves the sample before it is used. -/
def EdgeFifo.sample (e : EdgeFifo) (inbound : Bool) : EdgeFifo := { e with sampled := if inbound then e.write else e.read }

/-- An item written; none while the writer has the FIFO full. -/
def EdgeFifo.offer (e : EdgeFifo) (w : Nat) (inbound : Bool) (x : QueueItem) : Option EdgeFifo :=
  if e.full w inbound || !x.holdable then none else some { e with items := e.items ++ [x], write := grayOn w e.write 1 }

/-- An item taken; with the reader's empty flag set a clocked reader receives the idle item, a self-timed one none: it waits. -/
def EdgeFifo.take (e : EdgeFifo) (w : Nat) (inbound : Bool) : Option (QueueItem × EdgeFifo) :=
  if e.empty inbound then if inbound then none else some (idleItem, e)
  else match e.items with
    | x :: l => some (x, { e with items := l, read := grayOn w e.read 1 })
    | [] => none

/-- n items across an empty FIFO: each written, taken, and both pointers synchronised before the next command. A domain whose clock has stopped leaves the
flags as they are (Table 12-7). -/
def EdgeFifo.pass (e : EdgeFifo) (w n : Nat) : EdgeFifo :=
  let g := grayOn w e.write n
  { e with write := g, read := g, flops := [g, g, g], sampled := g }

/-- 64-byte units that come in from a port's host, and that go out to it. -/
def HostPort.heard (p : HostPort) (n : Nat) : HostPort := { p with inEdge := p.inEdge.pass (EdgeDomain.pcie 0).pointerBits n }
def HostPort.says (p : HostPort) (n : Nat) : HostPort := { p with outEdge := p.outEdge.pass (EdgeDomain.pcie 0).pointerBits n }

/-- Units of a transfer of some bytes: at least the one that its header takes (entry 119). -/
def crossings (size n : Nat) : Nat := max 1 ((n + size - 1) / size)

/-- Ticks and refresh requests of the local reference. -/
def Dram.ticked (d : Dram) (n : Nat) : Dram := { d with refEdge := d.refEdge.pass EdgeDomain.reference.pointerBits n }

end Sys2Proof.Machine
end

