-- ==== Sys2Proof/Machine/Flags.lean ====
section
/-!
DEFINITION. Sys2Proof/Machine/Flags.lean: status codes (Table 0-5), fault classes (Table 16-3), transaction ops (Table 14-3),
unit paths (Table 1-3) and the BAR0 offsets of counters and settings (Tables 18-1 to 18-11).
-/

namespace Sys2Proof.Machine

/-! Status codes (R11). -/

def stOk : Nat := 0x00
def stUnitAbsent : Nat := 0x01
def stSlotBusy : Nat := 0x02
def stFormat : Nat := 0x03
def stIndexRange : Nat := 0x04
def stKeyMismatch : Nat := 0x05
def stTimeout : Nat := 0x06
def stIndeterminate : Nat := 0x07
def stCancelled : Nat := 0x08
def stRoleStale : Nat := 0x09
def stQuota : Nat := 0x0A
def stPointer : Nat := 0x0B
def stRollOverrun : Nat := 0x0C
def stRollDuplicate : Nat := 0x0D
def stBudget : Nat := 0x0E
def stQuenched : Nat := 0x0F
def stReplicaDiverged : Nat := 0x10
def stTallyOver : Nat := 0x11
def stTallyUnder : Nat := 0x12
def stUncorrectable : Nat := 0x13

/-- A status that the device may write: a value that Table 0-5 reserves stands for ST_FORMAT (R12, R401). -/
def knownStatus (status : Nat) : Nat := if status ≤ 0x13 then status else stFormat

/-! Fault classes (R450). -/

def clsLesson : Nat := 0x01
def clsStorage : Nat := 0x02
def clsLink : Nat := 0x03
def clsFabric : Nat := 0x04
def clsSync : Nat := 0x05
def clsDispatch : Nat := 0x06
def clsOptimiser : Nat := 0x07
def clsThermal : Nat := 0x08
def clsWave : Nat := 0x09
def clsTeardown : Nat := 0x0A
def clsSnapshot : Nat := 0x0B

/-! Transaction ops (Table 14-3). -/

def opLoad : Nat := 0x01
def opStore : Nat := 0x02
def opAtomic : Nat := 0x03
def opSignalTx : Nat := 0x04
def opData : Nat := 0x08
def opDone : Nat := 0x09
def opResult : Nat := 0x0A
def opProgress : Nat := 0x0B
def opPull : Nat := 0x10
def opGranule : Nat := 0x11
def opToken : Nat := 0x12
def opAnswer : Nat := 0x13
def opContrib : Nat := 0x14
def opGather : Nat := 0x15
def opRollTx : Nat := 0x16

/-! Virtual channels (Table 13-3). -/

def vcReq : Nat := 0
def vcRsp : Nat := 1
def vcSync : Nat := 2
def vcBulk : Nat := 3

/-- The unit path of a physical Hearth, physical bit set (Tables 1-3 and 16-3). -/
def hearthPath (h : Nat) : Nat := 0x2000 + h

/-! BAR0 offsets (Table 18-1). -/

def mgtB : Nat := 0x000000
def hubB : Nat := 0x100000
def frgB : Nat := 0x200000
def hthB : Nat := 0x300000
def smyB : Nat := 0x400000
def blwB : Nat := 0x500000
def cruB : Nat := 0x600000
def synB : Nat := 0x700000
def poolB : Nat := 0x800000
def memB : Nat := 0x900000
def farB : Nat := 0xA00000
def pciB : Nat := 0xB00000
/-- The PCI_ instance of port q. -/
def pciQ (q : Nat) : Nat := pciB + 0x10000 * (q + 1)

/-! Settings. -/

def rHearthDisable0 : Nat := mgtB + 0x28
def rHearthDisable1 : Nat := mgtB + 0x30
def rDeviceId : Nat := mgtB + 0x100
def rJobCtrl : Nat := mgtB + 0x110
def rRestartLimit : Nat := mgtB + 0x128
def rFaultClear : Nat := mgtB + 0x148
def rPowerCap : Nat := mgtB + 0x200
def rPowerMode : Nat := mgtB + 0x208
def rCoreSet : Nat := mgtB + 0x210
def rSvnCommit : Nat := mgtB + 0x238
def rTenantMode : Nat := hubB + 0x00
def rTenantSmithy : Nat := hubB + 0x08
def rLendEnable0 : Nat := hubB + 0x10
def rLendEnable1 : Nat := hubB + 0x18
def rFabTimeout : Nat := hubB + 0x20
def rFabTeardown : Nat := hubB + 0x28
def rReplayBase : Nat := hubB + 0x30
def rHashBase : Nat := hubB + 0x38
def rSpillBase : Nat := hubB + 0x40
def rSpillLog2 : Nat := hubB + 0x48
def rHashTbl (n : Nat) : Nat := hubB + 0x1000 + 8 * n
def rRgnLo (n : Nat) : Nat := hubB + 0x8000 + 16 * n
def rRgnHi (n : Nat) : Nat := hubB + 0x8008 + 16 * n
def rPick (n : Nat) : Nat := hubB + 0x10000 + 8 * n
def rPullRatio : Nat := blwB + 0x00
def rConcFrac : Nat := blwB + 0x08
def rIntakeTimeout : Nat := blwB + 0x10
def rMergeWindow : Nat := blwB + 0x18
def rLayerBase : Nat := blwB + 0x20
def rPlanBase : Nat := blwB + 0x28
def rPlanBankBytes : Nat := blwB + 0x30
def rMatrixBase : Nat := cruB + 0x00
def rShardBase : Nat := cruB + 0x08
def rRuleBase : Nat := cruB + 0x10
def rJobmapBase : Nat := cruB + 0x18
def rJobNodes : Nat := cruB + 0x20
def rNoVisit : Nat := cruB + 0x28
def rStageBytes : Nat := cruB + 0x30
def rRollBase : Nat := synB + 0x00
def rRollTimeout : Nat := synB + 0x08
def rPickerCtx : Nat := synB + 0x10
def rPoolSetBase : Nat := poolB + 0x00
def rPoolSetEnable : Nat := poolB + 0x08
def rPoolQuota (q : Nat) : Nat := poolB + 0x400 + 8 * q
def rLocalSize : Nat := memB + 0x00
def rScrubHours : Nat := memB + 0x08
def rPortEnable : Nat := farB + 0x00
def rPortPlane : Nat := farB + 0x08
def rGen1Allow : Nat := farB + 0x10
def rTrainTimeout : Nat := farB + 0x18
def rPortRetrain : Nat := farB + 0x20
def rHopLimit : Nat := farB + 0x28
def rRouteBase : Nat := farB + 0x30
def rPeerExpect (p : Nat) : Nat := farB + 0x1000 + 0x100 * p
def rWatchMs : Nat := pciB + 0x00
def rHeartbeat (q : Nat) : Nat := pciQ q + 0x00
def rRing (q r k : Nat) : Nat := pciQ q + 0x1000 + 0x40 * r + 8 * k

/-! Counters (Table 18-11). -/

def kCapLimited : Nat := mgtB + 0x300
def kTempLimited : Nat := mgtB + 0x308
def kCurrentLimited : Nat := mgtB + 0x310
def kKeyRefused : Nat := hubB + 0x100
def kKeyRefusedSrc : Nat := hubB + 0x108
def kStoreDup : Nat := hubB + 0x110
def kAtomicReplay : Nat := hubB + 0x118
def kAtomicIndet : Nat := hubB + 0x120
def kHotlineWait : Nat := hubB + 0x128
def kFabResend : Nat := hubB + 0x130
def kFabTimeouts : Nat := hubB + 0x138
def kFabLate : Nat := hubB + 0x140
def kHashSpill : Nat := hubB + 0x148
def kHashFill : Nat := hubB + 0x150
def kHashMerge : Nat := hubB + 0x158
def kAbsentUnit : Nat := hubB + 0x160
def kTtPosted (d r : Nat) : Nat := frgB + 0x80000 * d + 0x100 + 8 * r
/-- Counter k of physical Hearth h: 0 CORR, 1 REREAD, 2 ABANDONED, 3 REFUSED_CARD, 4 LONG_SUM, 5 EMPTY_RED, 6 FORMAT_VIOL,
7 PRUNED, 8 INDEX_RANGE, 9 DENSE_FALLBACK, 10 UNGUARDED, 11 STALE_PRED, 12 STALE_RECORD, 13 TALLY_UNDER. -/
def kHth (h k : Nat) : Nat := hthB + 0x1000 * h + 0x100 + 8 * k
def kOffload (h : Nat) : Nat := hthB + 0x1000 * h + 0x180
def kRecompute (h : Nat) : Nat := hthB + 0x1000 * h + 0x188
/-- Counter k of Smithy s: 0 COMBINE_DUP, 1 COMBINE_QFULL, 2 COMBINE_FRAMES, 3 TALLY_UNDER. -/
def kSmy (s k : Nat) : Nat := smyB + 0x1000 * s + 0x100 + 8 * k
/-- Counter k of the Bellows: 0 SLAG, 1 PREFETCH_CANCEL, 2 PAIRS_DROPPED, 3 LODGE_FULL, 4 ROLE_STALE, 5 INTAKE_DISCARD,
6 RING_FULL, 7 PULL_MERGED. -/
def kBlw (k : Nat) : Nat := blwB + 0x100 + 8 * k
/-- Counter k of the Crucible: 0 COMMITS, 1 QUENCHED, 2 CLIPPED, 3 NO_VISIT_COUNT, 4 STAGE_WAIT. -/
def kCru (k : Nat) : Nat := cruB + 0x100 + 8 * k
/-- Counter k of the sync engine: 0 ROLL_COMPLETE, 1 ROLL_HELD, 2 ROLL_DUPLICATE, 3 TALLY_UNDER, 4 SIGNAL_REMOTE. -/
def kSyn (k : Nat) : Nat := synB + 0x100 + 8 * k
/-- Counter k of the pools: 0 GRANTS, 1 REFUSE_QUOTA, 2 REFUSE_EMPTY. -/
def kPool (k : Nat) : Nat := poolB + 0x100 + 8 * k
/-- Counter k of the memory controllers: 0 SCRUB_PASS, 1 WATCH_OVERFLOW, 2 RMW, 3 THROTTLE, 4 HOT_REFRESH. -/
def kMem (k : Nat) : Nat := memB + 0x100 + 8 * k
def kMemCorr (c : Nat) : Nat := memB + 0x1000 + 16 * c
def kRowRetired (c : Nat) : Nat := memB + 0x1008 + 16 * c
/-- Counter k of the links: 0 HOP_EXPIRED, 1 GEN1_MISROUTE, 2 ROUTE_PRUNED. -/
def kFar (k : Nat) : Nat := farB + 0x100 + 8 * k
/-- Counter k of port p: 0 RETRY, 1 LANE_RETIRED, 2 CREDIT_WAIT. -/
def kFarPort (p k : Nat) : Nat := farB + 0x1010 + 0x100 * p + 8 * k
def kFecCorr (p l : Nat) : Nat := farB + 0x1040 + 0x100 * p + 16 * l
def kFecUncorr (p l : Nat) : Nat := farB + 0x1048 + 0x100 * p + 16 * l
/-- Counter k of PCI Express port q: 0 RING_ERR, 1 FAILOVER, 2 REG_REFUSED, 3 LEND_ABORTED, 4 LEND_DONE. -/
def kPci (q k : Nat) : Nat := pciQ q + 0x100 + 8 * k

end Sys2Proof.Machine
end

