-- ==== Sys2Proof/Machine/Regs.lean ====
section
/-!
DEFINITION. Sys2Proof/Machine/Regs.lean: the set-up registers that a write stores (Tables 18-4 to 18-10): fields, ranges,
multiples, resets and effects (R495, R496).
-/

namespace Sys2Proof.Machine

/-- The Effect column (Table 18-2). -/
inductive Effect where
  | now | job | train | idle | enable | merge
  deriving DecidableEq, Repr

/-- A stored field: its lowest bit and width, its limits and required multiple (R495), its reset value. -/
structure RegField where
  lo : Nat
  w : Nat
  min : Nat := 0
  max : Nat := 2 ^ w - 1
  mult : Nat := 1
  reset : Nat := 0
  deriving DecidableEq, Repr

/-- A stored register. -/
structure RegSpec where
  fields : List RegField
  eff : Effect
  deriving DecidableEq, Repr

/-- A register of one field. -/
def reg1 (lo w : Nat) (eff : Effect) (reset : Nat := 0) (min : Nat := 0) (max : Nat := 2 ^ w - 1) (mult : Nat := 1) : RegSpec :=
  ⟨[{ lo, w, min, max, mult, reset }], eff⟩

/-- Whether an offset lies in an array of `n` registers of stride `st` at `b`. -/
def inArray (off b st n : Nat) : Bool := decide (b ≤ off) && decide (off < b + st * n) && (off - b) % st == 0

/-- MGT_ registers (Table 18-4). -/
def mgtSpec (o : Nat) : Option RegSpec :=
  if o = 0x28 then some (reg1 0 64 .job)
  else if o = 0x30 then some (reg1 0 24 .job)
  else if o = 0x128 then some (reg1 0 8 .now 3 1 255)
  else if o = 0x200 then some (reg1 0 12 .now 2400 1200 2800)
  else if o = 0x208 then some (reg1 0 1 .now)
  else if o = 0x210 then some (reg1 0 10 .now 750 600 900 5)
  else none

/-- HUB_ registers (Tables 18-6 and 18-7, 14-4 and 14-5). -/
def hubSpec (o : Nat) : Option RegSpec :=
  if o = 0x00 then some (reg1 0 1 .job)
  else if o = 0x08 then some (reg1 0 22 .job)
  else if o = 0x10 then some (reg1 0 64 .job)
  else if o = 0x18 then some (reg1 0 16 .job)
  else if o = 0x20 then some (reg1 0 8 .now 20 2 200)
  else if o = 0x30 then some ⟨[{ lo := 12, w := 36 }, { lo := 0, w := 1 }], .job⟩
  else if o = 0x38 then some (reg1 24 24 .job)
  else if o = 0x40 then some (reg1 12 36 .job)
  else if o = 0x48 then some (reg1 0 5 .job 10 10 24)
  else if inArray o 0x1000 8 256 then some ⟨[{ lo := 32, w := 32 }, { lo := 8, w := 8 }, { lo := 0, w := 1 }], .merge⟩
  else if inArray o 0x8000 16 256 then some ⟨[{ lo := 12, w := 36 }, { lo := 1, w := 7 }], .now⟩
  else if inArray o 0x8008 16 256 then some (reg1 0 64 .now)
  else if inArray o 0x10000 8 4096 then
    some ⟨[{ lo := 16, w := 4, reset := 1 }, { lo := 11, w := 5, reset := 8 }, { lo := 8, w := 3, reset := 1 },
           { lo := 1, w := 7, reset := 3 }, { lo := 0, w := 1 }], .job⟩
  else none

/-- BLW_, CRU_, SYN_ and POOL_ registers (Table 18-9), by block number. -/
def engineSpec (b o : Nat) : Option RegSpec :=
  if b = 5 then
    if o = 0x00 then some (reg1 0 16 .now 0x100)
    else if o = 0x08 then some (reg1 0 16 .now 8192)
    else if o = 0x10 then some (reg1 0 14 .now 1000 10 10000)
    else if o = 0x18 then some (reg1 0 5 .now 2 0 20)
    else if o = 0x20 then some (reg1 7 41 .job)
    else if o = 0x28 then some (reg1 6 42 .job)
    else if o = 0x30 then some (reg1 0 32 .job 0 0 (2 ^ 32 - 1) 64)
    else none
  else if b = 6 then
    if o = 0x00 then some (reg1 7 41 .job)
    else if o = 0x08 then some (reg1 6 42 .job)
    else if o = 0x10 then some (reg1 6 42 .job)
    else if o = 0x18 then some (reg1 2 46 .job)
    else if o = 0x20 then some (reg1 0 13 .job 1 1 4096)
    else if o = 0x28 then some (reg1 0 1 .job)
    else if o = 0x30 then some (reg1 0 32 .job 134217728 (16 * 2 ^ 20) (192 * 2 ^ 20) (2 ^ 20))
    else none
  else if b = 7 then
    if o = 0x00 then some (reg1 6 42 .job)
    else if o = 0x08 then some (reg1 0 14 .now 100 1 10000)
    else if o = 0x10 then some (reg1 0 8 .job 255)
    else none
  else
    if o = 0x00 then some (reg1 6 42 .enable)
    else if inArray o 0x400 8 64 then some (reg1 0 32 .now 0xFFFFFFFF)
    else none

/-- MEM_ and FAR_ registers (Table 18-10), by block number. -/
def linkSpec (b o : Nat) : Option RegSpec :=
  if b = 9 then
    if o = 0x00 then some (reg1 0 7 .job 0 0 96)
    else if o = 0x08 then some (reg1 0 8 .now 24 1 168)
    else none
  else
    if o = 0x00 then some (reg1 0 32 .train 0xFFFFFFFF)
    else if o = 0x08 then some (reg1 0 24 .train)
    else if o = 0x10 then some (reg1 0 8 .train)
    else if o = 0x18 then some (reg1 0 10 .train 500 50 1000)
    else if o = 0x28 then some (reg1 0 4 .now 8 1 15)
    else if o = 0x30 then some (reg1 3 45 .job)
    else if inArray o 0x1000 0x100 32 then some (reg1 0 32 .train)
    else none

/-- PCI_ registers (Table 18-10): PCI_WATCH_MS and the ring settings. -/
def pciSpec (o : Nat) : Option RegSpec :=
  if o = 0x00 then some (reg1 0 10 .now 0 0 1000)
  else
    let i := o % 0x10000
    if 0x10000 ≤ o && o < 0x30000 && 0x1000 ≤ i && i < 0x2000 then
      let r := (i - 0x1000) / 0x40
      match (i - 0x1000) % 0x40 with
      | 0x00 => some (reg1 12 52 .idle)
      | 0x08 => some (reg1 12 52 .idle)
      | 0x10 => some (reg1 0 5 .idle 6 6 16)
      | 0x18 => some (reg1 0 7 .idle r 0 65)
      | _ => none
    else none

/-- The stored register at a BAR0 offset, if there is one (R491). -/
def regSpec (off : Nat) : Option RegSpec :=
  let b := off / 0x100000
  let o := off % 0x100000
  if b = 0 then mgtSpec o
  else if b = 1 then hubSpec o
  else if b = 5 || b = 6 || b = 7 || b = 8 then engineSpec b o
  else if b = 9 || b = 10 then linkSpec b o
  else if b = 11 then pciSpec o
  else none

/-- The value a write leaves in a field (R495): the nearer limit, or the next lower multiple. -/
def RegField.judge (f : RegField) (v : Nat) : Nat :=
  let x := (v >>> f.lo) % 2 ^ f.w
  let y := if x < f.min then f.min else if f.max < x then f.max else x
  (y - y % f.mult) <<< f.lo

/-- The stored value of a write (R495, R10): bits outside the fields are dropped. -/
def RegSpec.judge (s : RegSpec) (v : Nat) : Nat := s.fields.foldl (fun a f => a + f.judge v) 0

/-- The value a register has after reset (R9). -/
def RegSpec.resetValue (s : RegSpec) : Nat := s.fields.foldl (fun a f => a + f.reset <<< f.lo) 0

/-- The Reset column of an offset; an unlisted offset reads 0 (R491). -/
def regReset (off : Nat) : Nat :=
  match regSpec off with
  | some s => s.resetValue
  | none => 0

/-- The value a register reads back (R496). -/
def Core.reg (c : Core) (off : Nat) : Nat := (kvGet c.cfg off).getD (regReset off)

/-- The value in force of a register whose effect waits for a job start, a merge or a training (R496). -/
def Core.inForce (c : Core) (off : Nat) : Nat := (kvGet c.latched off).getD (regReset off)

/-- A register given a value. -/
def Core.setReg (c : Core) (off v : Nat) : Core := { c with cfg := kvPut c.cfg off v }

/-- A counter's value. -/
def Core.counter (c : Core) (off : Nat) : Nat := spGet 0 c.counters off

/-- A 32-bit counter advanced by `n`, saturating (R498). -/
def Core.bumpBy (c : Core) (off n : Nat) : Core :=
  { c with counters := if n = 0 then c.counters else spPut 0 c.counters off (satAdd 32 (c.counter off) n) }

/-- A 32-bit counter advanced by one (R498). -/
def Core.bump (c : Core) (off : Nat) : Core := c.bumpBy off 1

/-- A 64-bit counter advanced by `n`, saturating (R498, R270). -/
def Core.bump64 (c : Core) (off n : Nat) : Core :=
  { c with counters := if n = 0 then c.counters else spPut 0 c.counters off (satAdd 64 (c.counter off) n) }

/-- Two-tenant mode (R439), as in force. -/
def Core.twoTenant (c : Core) : Bool := bit (c.inForce rTenantMode) 0

/-- The tenant of a Smithy (R439). -/
def Core.smithyTenant (c : Core) (s : Nat) : Nat := if c.twoTenant && bit (c.inForce rTenantSmithy) s then 1 else 0

/-- The tenant of a physical Hearth (R439). -/
def Core.hearthTenant (c : Core) (h : Nat) : Nat := c.smithyTenant (h / 4)

end Sys2Proof.Machine
end

