-- ==== Sys2Proof/Machine/Store.lean ====
section
/-!
DEFINITION. Sys2Proof/Machine/Store.lean: byte stores as canonical cell lists. `z` is what an unlisted address reads as:
a byte that is then never listed, or none (scratch, whose unwritten bytes are undefined, R454).
-/

namespace Sys2Proof.Machine

/-- The byte of an address, if it has one. -/
def memGet (z : Option Byte) (m : Mem) (a : Nat) : Option Byte :=
  match kvGet m a with
  | some b => some b
  | none => z

/-- One byte written. -/
def memPut (z : Option Byte) (m : Mem) (a : Nat) (b : Byte) : Mem :=
  if z = some b then kvDel m a else kvPut m a b

/-- Bytes written from an address upward. -/
def memPutAll (z : Option Byte) (m : Mem) (a : Nat) : List Byte → Mem
  | [] => m
  | b :: r => memPutAll z (memPut z m a b) (a + 1) r

/-- The bytes of a range; an unlisted byte reads as `d` gives. -/
def memRange (d : Nat → Byte) (m : Mem) (a n : Nat) : List Byte :=
  (List.range n).map (fun i => (kvGet m (a + i)).getD (d (a + i)))

/-- Whether keys rise strictly from `lo` upward and no entry equals the unlisted byte. -/
def cellsWf (z : Option Byte) : Nat → Mem → Bool
  | _, [] => true
  | lo, (a, b) :: r => decide (lo ≤ a) && !decide (z = some b) && cellsWf z (a + 1) r

/-- The canonical form of a byte store. -/
def Memory.wf (z : Option Byte) (m : Mem) : Bool := cellsWf z 0 m

/-- Cells of a range taken out. -/
def memClear (m : Mem) (a n : Nat) : Mem := m.filter (fun p => p.1 < a || a + n ≤ p.1)

/-- What an unlisted byte of stacked memory, hub SRAM and lesson memory reads as (R477; entry 3). -/
def zeroByte : Option Byte := some 0#8

end Sys2Proof.Machine
end

