-- ==== Sys2Proof/Machine/Symbol.lean ====
section
/-!
DEFINITION. Sys2Proof/Machine/Symbol.lean: operations that may fault, and the symbol code of every store, queue and path (R342 to R346, R361):
what a word's read and its overwriting do.
-/

namespace Sys2Proof.Machine

/-! Operations that may fault. -/

/-- An operation over the job side that may end in a fault; what it did before the fault stays. -/
abbrev OpM := EStateM FaultReq Core

/-- Fails with a status; the class, unit and detail are filled in by whoever raises it (R128, R447). -/
def failWith {α : Type} (status : Nat) (addr : Nat := 0) : OpM α := throw { cls := 0, status := status, addr := addr }

/-- A total update as an operation. -/
def update (f : Core → Core) : OpM Unit := modify f

/-- Fails unless a condition holds. -/
def require (b : Bool) (status : Nat) (addr : Nat := 0) : OpM Unit := if b then pure () else failWith status addr

/-! Places of stores. -/

/-- First address of hub SRAM and its size (Table 1-8). -/
def hubStart : Nat := 0x500000000000
def hubSize : Nat := 0x10000000

/-- Whether a range lies inside the hub SRAM row. -/
def inHub (a n : Nat) : Bool := decide (hubStart ≤ a) && decide (a + n ≤ hubStart + hubSize)

/-- Bytes of one channel (R336). -/
def channelBytes : Nat := 6 * 2 ^ 30
/-- First address of the scratch windows. -/
def scratchStart : Nat := 0x400000000000

/-! The symbol code. -/

/-- The watch list of a stacked channel meets a corrected word (R345); in a row already marked it is counted and nothing more (Table 12-7). -/
def Core.watchWord (c : Core) (key : Nat) : Core :=
  let ch := key / channelBytes
  let w := key % channelBytes / 16 * 16
  let row := w / 2048
  let l := (kvGet c.dram.watch ch).getD []
  let c := c.bump (kMemCorr ch)
  if c.dram.marked.contains (ch, row) then c
  else if l.contains w then
    { c with dram := { c.dram with watch := kvPut c.dram.watch ch (l.filter (· != w)), marked := c.dram.marked ++ [(ch, row)] } }
  else
    let c := if l.length < 16 then c else c.bump (kMem 1)
    { c with dram := { c.dram with watch := kvPut c.dram.watch ch ((l ++ [w]).drop (l.length - 15)) } }

/-- What carries the symbol code (R342, Table 16-3): the memories; a Hearth's accumulator store; a Smithy's scatter buffer; the word at the output of a
queue (R361); the on-chip path of a unit; the bridge of a forge die (R33). -/
inductive StoreId where
  | stacked | hub | scratch (h : Nat) | lesson (h : Nat) | accum (h : Nat) | scatter (s : Nat) | queue (q : Nat) | path (u : Nat) | bridge (d : Nat)
  deriving DecidableEq, Repr

/-- The queues, whose outputs are checked (R361): of the hub the line unit's, the intake, a Timetable ring, a lendable ring, a port's, a bank's conflict
queue, a pool set's, the atomics held back; of a Hearth its Y queue, its units' queues (T, S, A, V), its writebacks. -/
def qLine : Nat := 0
def qIntake : Nat := 1
def qAtomics : Nat := 2
def qRing (key : Nat) : Nat := 16 + key
def qPort (p : Nat) : Nat := 32 + p
def qBank (s b : Nat) : Nat := 64 + 16 * s + b
def qPool (p : Nat) : Nat := 416 + p
def qLend (r : Nat) : Nat := 432 + r
def qHearth (h : Nat) : Nat := 512 + h
def qUnit (h slot : Nat) : Nat := 1024 + 8 * h + slot
def qWrite (h : Nat) : Nat := 1024 + 8 * h + 7

/-- The Hearth that holds a queue. -/
def queueHearth (q : Nat) : Option Nat := if 1024 ≤ q then some ((q - 1024) / 8) else if 512 ≤ q then some (q - 512) else none

/-- The paths of the hub's own agents and of a Smithy's Tongs; below these, of a Hearth's Tongs. -/
def hubWay : Nat := 88
def smithyWay (s : Nat) : Nat := 89 + s

/-- The number under which the error map holds a word of a store. -/
def StoreId.word (s : StoreId) (b : Nat) : Nat :=
  match s with
  | .stacked => b / 16
  | .hub => (hubStart + b) / 16
  | .scratch h => (scratchStart + h * 0x1000000 + b) / 16
  | .lesson h => (0x480000000000 + h * 0x10000 + b) / 16
  | .accum h => 2 ^ 45 + h * 2 ^ 18 + b / 16
  | .scatter s => 2 ^ 46 + s * 2 ^ 17 + b / 16
  | .path h => 2 ^ 47 + h
  | .bridge d => 2 ^ 47 + 128 + d
  | .queue q => 2 ^ 48 + q

/-- The unit and store detail of a STORAGE record (Table 16-3). For what belongs to a Smithy, a Timetable or a port the table names no unit: the
model writes the hub's 0xFFFF (entry 113). -/
def StoreId.detail (s : StoreId) (b : Nat) : Nat × Nat :=
  match s with
  | .stacked => (b / channelBytes, 0)
  | .hub => (0xFFFF, 1)
  | .scratch h => (hearthPath h, 2)
  | .lesson h => (hearthPath h, 3)
  | .accum h => (hearthPath h, 4)
  | .scatter _ => (0xFFFF, 5)
  | .queue q => (((queueHearth q).map hearthPath).getD 0xFFFF, 6)
  | .path u => (if u < hubWay then hearthPath u else 0xFFFF, 6)
  | .bridge _ => (0xFFFF, 7)

/-- The correction counter of a block for which Table 18-11 has no register: it is counted, and nothing reads it (R343; entry 113). -/
def kCode (u : Nat) : Nat := 2 ^ 40 + u

/-- A corrected word counted by the block that holds it (R343, R361): a channel, a Hearth, hub SRAM, a Smithy, a queue's block, a path, a bridge. -/
def Core.countCorrected (c : Core) (s : StoreId) (b : Nat) : Core :=
  match s with
  | .stacked => c.watchWord b
  | .scratch h | .lesson h | .accum h => c.bump (kHth h 0)
  | .path u => if u < hubWay then c.bump (kHth u 0) else c.bump (kCode (64 + u))
  | .queue q => match queueHearth q with
    | some h => c.bump (kHth h 0)
    | none => c.bump (kCode (1024 + q))
  | .hub => c.bump (kCode 0)
  | .scatter s => c.bump (kCode (1 + s))
  | .bridge d => c.bump (kCode (32 + d))

/-- One byte's word is sensed: a correctable word is counted and scrubbed, an uncorrectable one is a fault (R343). -/
def senseWord (s : StoreId) (b : Nat) : OpM Unit := do
  let c ← get
  match kvGet c.dram.errors (s.word b) with
  | none => pure ()
  | some 1 =>
    set (({ c with dram := { c.dram with errors := kvDel c.dram.errors (s.word b) } }).countCorrected s b)
  | some _ =>
    let (u, d) := s.detail b
    throw { cls := clsStorage, status := stUncorrectable, unit := u, detail := d, addr := (if s == .stacked then b % channelBytes else b) / 16 * 16 }

/-- The words of a range of a store other than stacked memory are sensed, in order. -/
def senseSpan (s : StoreId) (b n : Nat) : OpM Unit := do
  let c ← get
  if c.dram.errors.isEmpty || n == 0 then pure ()
  else
    let l : List (Nat × Nat) := c.dram.errors.filter (fun e => decide (s.word b ≤ e.1) && decide (e.1 ≤ s.word (b + n - 1)))
    l.forM (fun e => senseWord s (b / 16 * 16 + 16 * (e.1 - s.word b)))

/-- The words of a structure in hub SRAM that a setting names are read; what `hubNat` then reads of it is corrected (R343, R349). -/
def senseHub (a n : Nat) : OpM Unit := if inHub a n then senseSpan .hub (a - hubStart) n else pure ()

/-- The words of a range are written anew: they hold no error. -/
def Core.freshSpan (c : Core) (s : StoreId) (b n : Nat) : Core :=
  if c.dram.errors.isEmpty || n == 0 then c
  else { c with dram := { c.dram with errors := c.dram.errors.filter (fun e => decide (e.1 < s.word b) || decide (s.word (b + n - 1) < e.1)) } }

end Sys2Proof.Machine
end

