-- ==== Sys2Proof/Machine/Ops.lean ====
section
/-!
DEFINITION. Sys2Proof/Machine/Ops.lean: the named operations over the state that every family shares: units and their
numbering, interrupts and completion records, the job's tree, frames to other devices, faults and the restart wave.
-/

namespace Sys2Proof.Machine

/-! Units. -/

def Core.hearth (c : Core) (h : Nat) : Hearth := (kvGet c.hearths h).getD {}
def Core.setHearth (c : Core) (h : Nat) (x : Hearth) : Core := { c with hearths := kvPut c.hearths h x }
def Core.modHearth (c : Core) (h : Nat) (f : Hearth → Hearth) : Core := c.setHearth h (f (c.hearth h))
def Core.smithy (c : Core) (s : Nat) : Smithy := (kvGet c.smithies s).getD {}
def Core.setSmithy (c : Core) (s : Nat) (x : Smithy) : Core := { c with smithies := kvPut c.smithies s x }
def Core.modSmithy (c : Core) (s : Nat) (f : Smithy → Smithy) : Core := c.setSmithy s (f (c.smithy s))
def Core.port (c : Core) (q : Nat) : HostPort := (kvGet c.ports q).getD {}
def Core.setPort (c : Core) (q : Nat) (x : HostPort) : Core := { c with ports := kvPut c.ports q x }
def Core.modPort (c : Core) (q : Nat) (f : HostPort → HostPort) : Core := c.setPort q (f (c.port q))
def HostPort.ring (p : HostPort) (r : Nat) : Ring := (kvGet p.rings r).getD {}
def Core.ring (c : Core) (q r : Nat) : Ring := (c.port q).ring r
def Core.modRing (c : Core) (q r : Nat) (f : Ring → Ring) : Core :=
  c.modPort q (fun p => { p with rings := kvPut p.rings r (f (p.ring r)) })

/-- Number of enabled Hearths (R1, R18). -/
def Core.hearthCount (c : Core) : Nat := c.mgt.logical.length

/-- Physical number of a logical Hearth. -/
def Core.physOf (c : Core) (l : Nat) : Option Nat := c.mgt.logical[l]?

/-- Logical number of a physical Hearth (R18). -/
def Core.logicalOf (c : Core) (h : Nat) : Option Nat := c.mgt.logical.findIdx? (· == h)

/-- Whether a physical Hearth is enabled. -/
def Core.present (c : Core) (h : Nat) : Bool := c.mgt.logical.contains h

/-- The enabled Hearths that a unit path reaches for a tenant, in logical order; none if it names no present unit (R20 to
R24). -/
def Core.targets (c : Core) (tenant path : Nat) : Option (List Nat) :=
  let idx := path % 128
  let own := c.mgt.logical.filter (fun h => !c.twoTenant || c.hearthTenant h == tenant)
  let l := match bits path 15 14 with
    | 0 => if bit path 13 then own.filter (· == idx) else own.filter (fun h => c.logicalOf h == some idx)
    | 1 => own.filter (fun h => h / 4 == idx)
    | 2 => own.filter (fun h => h / 44 == idx)
    | _ => if idx == 0 then own else []
  if l.isEmpty then none else some l

/-- The Smithies that a unit path reaches: of the Hearths it reaches, in ascending order. -/
def smithiesOf (hs : List Nat) : List Nat := (hs.map (· / 4)).eraseDups

/-- Whether issue, fetching and every engine stand still: a job is active and its restart wave runs (R452 step 1). -/
def Core.halted (c : Core) : Bool := c.mgt.active && (c.mgt.jobState == .quiesced || c.mgt.jobState == .resetting)

/-- A 64-byte unit that comes in over a port whose link is active: a register write, a doorbell (R365). -/
def Core.hostIn (c : Core) (q : Nat) : Core := if (c.port q).trained then c.modPort q (fun p => p.heard 1) else c

/-! Interrupts (R435). -/

/-- An MSI-X message of a port, or its pending bit if the vector is masked. -/
def Core.msix (c : Core) (q v : Nat) : Core :=
  c.modPort q (fun p =>
    if p.masked.contains v then { p with pendingBits := insertBy (· < ·) v (p.pendingBits.filter (· != v)) }
    else { p.says 1 with sent := p.sent ++ [v] })

/-- A vector raised on every port that is not lost. -/
def Core.vectorAll (c : Core) (v : Nat) : Core :=
  [0, 1].foldl (fun c q => if (c.port q).lost then c else c.msix q v) c

/-- Entries of a ring pair (Table 15-2). -/
def Core.ringEntries (c : Core) (q r : Nat) : Nat := 2 ^ c.reg (rRing q r 2)

/-- A posted write to the memory of a port's host; dropped when the host is lost (R437). -/
def Core.hostWrite (c : Core) (q a : Nat) (d : List Byte) : Core :=
  if (c.port q).lost then c else c.modPort q (fun p => { p.says (crossings 64 d.length) with writes := p.writes ++ [(a, d)] })

/-- The 16 bytes of a completion record (Table 15-7). -/
def completionRecord (tag data slot opcode status : Nat) (phase : Bool) : List Byte :=
  leBytes 16 (place (b2n phase) 1 0 + place status 8 32 + place opcode 8 40 + place slot 16 48 + place data 32 64 + place tag 32 96)

/-- A record that carries irq at a completion slot: the ring's interrupt is sent, or held while one is in flight (R435). `irqHeld` lists the
slots of the unconsumed records that carry irq. -/
def Core.ringIrq (c : Core) (q r pos : Nat) : Core :=
  let x := c.ring q r
  let c := c.modRing q r (fun x => { x with irqHeld := x.irqHeld ++ [pos], irqOut := true })
  if x.irqOut then c else c.msix q (c.reg (rRing q r 3))

/-- A started descriptor completes: its record is written and it leaves the ring (R432, R434, R435). A lost port drops the
record (R437). A descriptor that the restart wave has taken away writes none (R447). -/
def Core.complete (c : Core) (o : Origin) (status data : Nat) : Core :=
  let x := c.ring o.port o.ring
  match x.started.find? (fun t => t.slot == o.slot) with
  | none => c
  | some t =>
    let c := c.modRing o.port o.ring (fun x => { x with started := dropFirst (fun t => t.slot == o.slot) x.started })
    if (c.port o.port).lost || x.lost then c
    else
      let n := c.ringEntries o.port o.ring
      let c := c.hostWrite o.port (c.reg (rRing o.port o.ring 1) + 16 * x.cqTail)
        (completionRecord t.tag data o.slot t.opcode status x.phase)
      let c := c.modRing o.port o.ring (fun x =>
        { x with cqTail := (x.cqTail + 1) % n, phase := if x.cqTail + 1 == n then !x.phase else x.phase })
      if t.irq then c.ringIrq o.port o.ring x.cqTail else c

/-- A started descriptor changed. -/
def Core.modStarted (c : Core) (o : Origin) (f : Started → Started) : Core :=
  c.modRing o.port o.ring (fun x => { x with started := modFirst (fun t => t.slot == o.slot) f x.started })

/-! Hub structures of the device's own settings. -/

/-- The little-endian number of `n` bytes of a structure in hub SRAM; outside the row it is 0 (R26 forbids such a setting). -/
def Core.hubNat (c : Core) (a n : Nat) : Nat :=
  if inHub a n then leNat (memRange (fun _ => 0#8) c.hub (a - hubStart) n) else 0

/-! Device names and the job's tree (R201, R277, R324). -/

/-- This device's 14-bit id. -/
def Core.selfId (c : Core) : Nat := c.mgt.deviceId % 2 ^ 14

/-- Whether a device name names this device, in either plane (R392). -/
def Core.isSelf (c : Core) (name : Nat) : Bool := name % 2 ^ 14 == c.selfId

/-- Job-map entry i (R277). -/
def Core.jobEntry (c : Core) (i : Nat) : Nat := c.hubNat (c.inForce rJobmapBase + 4 * i) 4

/-- Device names of one node's job devices, in ascending position (R277, R324). -/
def nodeNames (e : Nat) : List Nat := ((List.range 8).filter (fun p => bit e (16 + p))).map (fun p => e % 2 ^ 16 + p)

/-- Every device of the job, in rank order within each plane (R324). -/
def Core.jobNames (c : Core) : List Nat := (List.range (c.inForce rJobNodes)).flatMap (fun i => nodeNames (c.jobEntry i))

/-- The job map's words are read from hub SRAM (R343). -/
def senseJob : OpM Unit := do
  let c ← get
  senseHub (c.inForce rJobmapBase) (4 * c.inForce rJobNodes)

/-- Plane A's and plane B's participants of a list. -/
def planeA (l : List Nat) : List Nat := l.filter (fun n => !bit n 14)
def planeB (l : List Nat) : List Nat := l.filter (fun n => bit n 14)

/-- The name under which this device takes part in a list, if it does. -/
def Core.selfIn (c : Core) (l : List Nat) : Option Nat := l.find? c.isSelf

/-- This device's name in its job, or its bare id (entry 20). -/
def Core.selfName (c : Core) : Nat := (c.selfIn c.jobNames).getD c.selfId

/-- The parent rank of a rank: its lowest nonzero hexadecimal digit set to 0 (rc_parent at the level of rc_sends, R324). -/
def parentRankFuel : Nat → Nat → Nat → Nat
  | 0, _, q => q
  | f + 1, j, q => if (q >>> (4 * j)) % 16 ≠ 0 then q - ((q >>> (4 * j)) % 16) <<< (4 * j) else parentRankFuel f (j + 1) q

/-- rc_parent of a nonzero rank (R324). -/
def parentRank (q : Nat) : Nat := parentRankFuel 8 0 q

/-- The parent of a participant in the tree over a list of names; none at the root (R324). -/
def treeParent (l : List Nat) (me : Nat) : Option Nat :=
  let pl := if bit me 14 then planeB l else planeA l
  match pl.findIdx? (· == me) with
  | none => none
  | some 0 => if bit me 14 then (planeA l)[0]? else none
  | some q => pl[parentRank q]?

/-- The children of a participant, in the order of the list (R324). -/
def treeChildren (l : List Nat) (me : Nat) : List Nat := l.filter (fun n => n != me && treeParent l n == some me)

/-- The vertex from which a recipient of a broadcast has its bytes (R332): the tree of R324 over a list whose first member is the source, which is
the root of its own plane's members and the parent of the other plane's first. -/
def bcastParent (l : List Nat) (me : Nat) : Option Nat :=
  let pl := l.filter (fun n => bit n 14 == bit me 14)
  match pl.findIdx? (· == me) with
  | none => none
  | some 0 => if l.head? == some me then none else l.head?
  | some q => pl[parentRank q]?

/-- The vertices that a vertex of a broadcast forwards to. -/
def bcastChildren (l : List Nat) (me : Nat) : List Nat := l.filter (fun n => n != me && bcastParent l n == some me)

/-! The switch (R392 to R394) and frames to send. -/

/-- Bit k of those set in a 32-bit mask, from the lowest (R392). -/
def kthSetBit (m k : Nat) : Option Nat := ((List.range 32).filter (fun i => bit m i))[k]?

/-- Number of set bits of a 32-bit mask. -/
def popcount32 (m : Nat) : Nat := ((List.range 32).filter (fun i => bit m i)).length

/-- The output port of a frame; none for NO_ROUTE (R392, R393). -/
def Core.outPort (c : Core) (src dst : Nat) : Option Nat :=
  let m := (kvGet c.route.masks ((dst >>> 14) % 2 * 16384 + dst % 2 ^ 14)).getD 0
  if m == 0 then none else kthSetBit m (mix ((src <<< 16) + dst) % popcount32 m)

/-- The name this device bears as the source of a frame: its id in the plane of the destination (entry 20). -/
def Core.srcName (c : Core) (dst : Nat) : Nat := place (dst >>> 14) 1 14 + c.selfId

/-- The global address of a local address on a named device (R25). -/
def globalAddr (name a : Nat) : Nat := place (name >>> 14) 1 63 + place name 14 49 + a % 2 ^ 48

/-- The device name in a global address. -/
def addrName (a : Nat) : Nat := place (a >>> 63) 1 14 + (a >>> 49) % 2 ^ 14

/-- Channel of a transaction op (Table 14-3); a copy's STORE and DONE keep the channel they are given. -/
def channelOf (op : Nat) : Nat :=
  if op == opSignalTx || op == opRollTx then vcSync
  else if op == opData || op == opDone || op == opResult || op == opProgress || op == opAnswer then vcRsp
  else if op == opGranule || op == opContrib || op == opGather then vcBulk
  else vcReq

/-- Block protocol fields packed from bit 320 upward (Table 14-2). -/
def packTxn (t : Txn) (n : Nat) : Txn :=
  { t with seq := n % 2 ^ 32, ackSeq := (n >>> 32) % 2 ^ 32, opndA := (n >>> 64) % 2 ^ 64, opndB := (n >>> 128) % 2 ^ 64 }

/-- The packed fields of a block protocol transaction. -/
def unpackTxn (t : Txn) : Nat := t.seq + t.ackSeq <<< 32 + t.opndA <<< 64 + t.opndB <<< 128

/-- The frames of a transaction: at most 64 payload units each, 32 on a generation-1 port (R372, R383). -/
def Core.framesOf (c : Core) (port : Nat) (f : Frame) : List Frame :=
  let n := if c.route.gen1.contains port then 2048 else 4096
  if f.data.length ≤ n then [f] else (chunks n f.data).map (fun d => { f with data := d })

/-- The inputs of the hub switch that this device's own frames come from: the bridges of the forge dies (R369). What the hub's own blocks send comes in with
the first (entry 43). -/
def dieInput (die : Option Nat) : Nat := 32 + die.getD 0

/-- A transaction handed to the switch at an output port by one of its inputs, to wait for the link's credits (R376). -/
def Core.enqueue (c : Core) (input port : Nat) (f : Frame) : Core :=
  { c with fabric := { c.fabric with tx := c.fabric.tx ++ (c.framesOf port f).map (fun x => (port, input, x)) } }

/-- Whether a generation-1 port may carry an op (Table 13-6). -/
def gen1Carries (op : Nat) : Bool := decide (op < opProgress)

/-- A frame of this device sent to another; none if the route or a generation-1 port forbids it (R383, R393). -/
def Core.trySend (c : Core) (t : Txn) (vc : Nat) (data : List Byte) (die : Option Nat := none) : Option Core :=
  let t := { t with src := c.srcName t.dst }
  match c.outPort t.src t.dst with
  | none => none
  | some p =>
    if c.route.gen1.contains p && !gen1Carries t.op then none
    else some (c.enqueue (dieInput die) p { txn := t, data := data, hops := c.reg rHopLimit, vc := vc })

/-! Faults (R446 to R453, R507). -/

/-- The wave's protocol fields (R452). -/
def waveFields (number origin status : Nat) : Nat :=
  0xFF + place number 16 8 + place origin 16 24 + place status 8 40

/-- One fault record written to the log, in its slot (R449). -/
def Core.logFault (c : Core) (f : FaultReq) (origin wave : Nat) : Core :=
  let m := c.mgt
  let r : FaultRec := { req := { f with who := [] }, timeUs := m.timeUs % 2 ^ 32, seq := m.faultHead, origin := origin, wave := wave }
  { c with mgt := { m with faultLog := m.faultLog.filter (fun x => x.seq % 64 != r.seq % 64) ++ [r], faultHead := satAdd 32 m.faultHead 1 } }

/-- Every untaken item of a batch removed (R222). -/
def Core.dropItems (c : Core) (epoch : Nat) : Core :=
  let drop (w : Nat × List Item) : Nat × List Item := (w.1, w.2.filter (fun i => i.epoch != epoch))
  { c with tt := { c.tt with waiting := c.tt.waiting.map drop, rings := c.tt.rings.map drop } }

/-- The pulls of a cancelled batch are waited for no longer: their granules are Slag (R224). -/
def Core.dropPulls (c : Core) (epoch : Nat) : Core := { c with fabric := { c.fabric with out := c.fabric.out.filter (fun q => q.use != .pull epoch) } }

/-- The descriptors that a batch serves: its FORWARD, its BACKWARD, what ends it. -/
def Batch.origins (b : Batch) : List Origin := b.origin :: (b.bwd.toList.map (·.origin) ++ b.enders.map (·.1))

/-- What an accelerator block had in hand for a descriptor is given up: a batch with its items and pulls, or the Crucible's step (R507; entry 131). -/
def Core.abandon (c : Core) (o : Origin) : Core :=
  let c := (c.bellows.batches.filter (fun b => b.origins.contains o)).foldl (fun c b => (c.dropItems b.epoch).dropPulls b.epoch) c
  let c := { c with bellows := { c.bellows with batches := c.bellows.batches.filter (fun b => !b.origins.contains o) } }
  if c.crucible.origin == some o then { c with crucible := c.crucible.idled } else c

/-- The descriptors whose work raised a fault that no wave follows complete with its status (R507). -/
def Core.endBlamed (c : Core) (f : FaultReq) : Core := f.who.foldl (fun c o => (c.abandon o).complete o f.status 0) c

/-- A STORAGE fault of a Hearth counted; the second one in a job marks the Hearth for retirement (Table 16-1, R448). -/
def Core.countStorage (c : Core) (f : FaultReq) : Core :=
  if c.mgt.active && f.cls == clsStorage && decide (0x2000 ≤ f.unit) && decide (f.unit < 0x2000 + 88) then
    let h := f.unit - 0x2000
    let n := (c.hearth h).storageFaults + 1
    let c := c.modHearth h (fun x => { x with storageFaults := n })
    if n == 2 then { c with mgt := { c.mgt with pendingRetire := c.mgt.pendingRetire ++ [h] } } else c
  else c

/-- A fault that starts no wave. While the device is quiesced its record joins the wave under way; during the warm reset the record names the wave to come and the
fault is held for after it (Table 16-8); with no job active it leaves the record and vector 64, and ends the descriptors behind it (R507). -/
def Core.noteFault (c : Core) (f : FaultReq) : Core :=
  let c := c.countStorage f
  let m := c.mgt
  if !m.active || m.jobState == .stopped then ((c.logFault f c.selfName m.waveNum).vectorAll 64).endBlamed f
  else if m.jobState == .resetting then
    let c := c.logFault f c.selfName ((m.waveNum + 1) % 65536)
    { c with mgt := { c.mgt with faultHeld := true } }
  else c.logFault f (if m.jobState == .quiesced then m.waveOrigin else c.selfName) m.waveNum

/-- The wave sent to one neighbour of the tree. A neighbour with no route is passed over (R452); one behind a generation-1 port is refused the frame, a fault
with ST_FORMAT (R383). -/
def Core.sendWave (c : Core) (number origin status dst : Nat) : Core :=
  match c.trySend (packTxn { op := opRollTx, dst := dst } (waveFields number origin status)) vcSync [] with
  | some d => d
  | none =>
    if (c.outPort (c.srcName dst) dst).isSome then c.noteFault { cls := clsFabric, status := stFormat, unit := dst, detail := opRollTx } else c

/-- The down-going wave of a number reaches this device: its warm reset begins (R451, R452 step 5). -/
def Core.beginReset (c : Core) (number : Nat) : Core :=
  if c.mgt.active && c.mgt.jobState == .quiesced && decide (c.mgt.waveNum ≤ number) then { c with mgt := { c.mgt with jobState := .resetting } } else c

/-- A wave number forwarded once up and once down (R453): `sender` is the device it came from, none for this device's own. The job map is read from hub SRAM: an
uncorrectable word of it is a fault (R343), and the wave goes no further. -/
def Core.forwardWave (c : Core) (number origin status : Nat) (sender : Option Nat) : Core :=
  match senseJob.run c with
  | .error f c => c.noteFault f
  | .ok _ c =>
  let l := c.jobNames
  let me := (c.selfIn l).getD c.selfName
  let par := treeParent l me
  let fromParent := par.isSome && sender.map (· % 2 ^ 14) == par.map (· % 2 ^ 14)
  let m := c.mgt
  if fromParent || par.isNone then
    let c := { c with mgt := { m with waveFromParent := if fromParent then number :: m.waveFromParent else m.waveFromParent } }
    let c := if m.waveDown.contains number then c
      else (treeChildren l me).foldl (fun c k => c.sendWave number origin status k)
        { c with mgt := { c.mgt with waveDown := number :: c.mgt.waveDown } }
    c.beginReset number
  else if m.waveUp.contains number || m.waveFromParent.contains number then c
  else
    let c := { c with mgt := { m with waveUp := number :: m.waveUp } }
    match par with
    | some p => c.sendWave number origin status p
    | none => c

/-- The device quiesces for a fault of its own or a wave, with vector 64, and sends the wave on (R452, R453). -/
def Core.quiesce (c : Core) (number origin status : Nat) (sender : Option Nat) : Core :=
  let c := ({ c with mgt := { c.mgt with jobState := .quiesced, waveNum := number, waveOrigin := origin } }).vectorAll 64
  c.forwardWave number origin status sender

/-- A fault of this device. With a job active and not already quiesced it quiesces the device and starts the wave (R447, R452). -/
def Core.raise (c : Core) (f : FaultReq) : Core :=
  let d := c.noteFault f
  if c.mgt.active && (c.mgt.jobState == .running || c.mgt.jobState == .restarted) then d.quiesce d.mgt.waveNum d.selfName f.status none else d

/-- A device block's fault for which no descriptor waits. -/
def Core.blockFault (c : Core) (cls status unit detail addr : Nat) : Core := c.raise { cls, status, unit, detail, addr }

/-- A descriptor whose work raised a fault completes with its status only where no job is active (R447, R507). -/
def Core.raiseFor (c : Core) (o : Origin) (f : FaultReq) : Core := c.raise { f with who := if f.who.isEmpty then [o] else f.who }

/-- A request of a descriptor timed out: the fault, and whether a job is active or not the end of a copy, fill or load (Table 14-9; entry 132). -/
def Core.raiseTimeout (c : Core) (o : Origin) (f : FaultReq) : Core :=
  let c := c.raiseFor o f
  match (c.ring o.port o.ring).started.find? (fun t => t.slot == o.slot) with
  | some t => if t.opcode == 1 || t.opcode == 4 || t.opcode == 5 then c.complete o f.status 0 else c
  | none => c

/-- A frame of this device's own choosing sent; where no route or no port carries it, a fault of this device with ST_FORMAT (R383, R393). -/
def Core.sendOrFault (c : Core) (t : Txn) (vc : Nat) (data : List Byte) : Core :=
  (c.trySend t vc data).getD (c.raise { cls := clsFabric, status := stFormat, unit := t.dst, detail := t.op, addr := t.addr })

/-! Links (R369, R376, R385). -/

def State.link (s : State) (p : Nat) : Link := (kvGet s.links p).getD {}
def State.setLink (s : State) (p : Nat) (l : Link) : State := { s with links := kvPut s.links p l }
def State.modLink (s : State) (p : Nat) (f : Link → Link) : State := s.setLink p (f (s.link p))

/-- Payload units of a transaction's bytes, 64 each. -/
def unitCount (bytes : Nat) : Nat := ceilDiv bytes 64

/-- A command that changes nothing on the job side while the restart wave holds the device (R452 step 1, R454). -/
def Core.gated (c : Core) (f : Core → Core) : Core := if c.halted then c else f c

/-! Free values. -/

/-- The next free value (Config.freeWord; entry 17). -/
def freshWord : OpM Word64 := do
  let c ← get
  set { c with free := c.free + 1 }
  pure (Config.freeWord c.free)

end Sys2Proof.Machine
end

