-- ==== Sys2Proof/Machine/Operands.lean ====
section
/-!
DEFINITION. Sys2Proof/Machine/Operands.lean: what an operand names. The local address map (R26), stacked memory's decode
(R338), region keys (R404), layer cards and tensor descriptors (R139), the two-dimensional view (R99), staged tiles (R111) and
packed elements (R40).
-/

namespace Sys2Proof.Machine

/-! The local address map. -/

/-- Where a range of local addresses lies: one row of Table 1-8, with the offset in it. -/
inductive Place where
  | stacked (a : Nat)
  | scratch (h off : Nat)
  | hub (off : Nat)
  | intake (off : Nat)
  | combine (s off : Nat)
  | hashCtl (off : Nat)
  | announce (off : Nat)
  | tally (off : Nat)
  | hashTbl (t off : Nat)
  | pool (off : Nat)
  | atomic (off : Nat)
  deriving DecidableEq, Repr

/-- Bytes of a Hearth's scratch. -/
def scratchSize : Nat := 0x800000
/-- End of the stacked-memory row. -/
def stackedEnd : Nat := 0x6000000000

/-- The place of a range judged as a whole, or the status of its refusal (R26). -/
def Core.place (c : Core) (a n : Nat) : Except Nat Place :=
  let row (b sz : Nat) := decide (b ≤ a) && decide (a + n ≤ b + sz)
  if row 0 stackedEnd then .ok (.stacked a)
  else if decide (scratchStart ≤ a) && decide (a < hubStart) then
    let l := (a - scratchStart) / 0x1000000
    let o := (a - scratchStart) % 0x1000000
    if scratchSize < o + n then .error stFormat
    else match c.physOf l with
      | some h => .ok (.scratch h o)
      | none => .error stUnitAbsent
  else if inHub a n then .ok (.hub (a - hubStart))
  else if row 0x500010000000 0x100000 then .ok (.intake (a - 0x500010000000))
  else if decide (0x500020000000 ≤ a) && decide (a < 0x500020000000 + 22 * 0x400000) then
    let o := (a - 0x500020000000) % 0x400000
    if o + n ≤ 0x400000 then .ok (.combine ((a - 0x500020000000) / 0x400000) o) else .error stFormat
  else if row 0x500030000000 0x1000 then .ok (.hashCtl (a - 0x500030000000))
  else if row 0x500050000000 0x10000 then .ok (.announce (a - 0x500050000000))
  else if row 0x500060000000 0x80000 then .ok (.tally (a - 0x500060000000))
  else if decide (0x500100000000 ≤ a) && decide (a < 0x500200000000) then
    let o := (a - 0x500100000000) % 0x1000000
    if o + n ≤ 0x1000000 then .ok (.hashTbl ((a - 0x500100000000) / 0x1000000) o) else .error stFormat
  else if row 0x500200000000 0x1000 then .ok (.pool (a - 0x500200000000))
  else if row 0x500300000000 0x1000 then .ok (.atomic (a - 0x500300000000))
  else .error stFormat

/-- The channel byte of a stacked address, channel by channel; none where it is UNBACKED (R338, R339). -/
def Dram.key (d : Dram) (a : Nat) : Option Nat :=
  let l := d.localSize * 0x4000000
  let i := channelBytes - l
  let lb := 64 * i
  let ca := d.active.length
  if a < ca * i then
    let g := a / 4096
    let b := g / ca
    (d.active[(g % ca + b) % ca]?).map (fun ch => ch * channelBytes + b * 4096 + a % 4096)
  else if lb ≤ a && a < 64 * channelBytes && l != 0 then
    let ch := (a - lb) / l
    if d.active.contains ch then some (ch * channelBytes + i + (a - lb) % l) else none
  else none

/-- The channel bytes of a range, or none if any is UNBACKED. -/
def Dram.keys (d : Dram) (a n : Nat) : Option (List Nat) := (List.range n).mapM (fun i => d.key (a + i))

/-- Whether the whole range is backed: its first byte of each granule and its last are. -/
def Dram.backed (d : Dram) (a n : Nat) : Bool :=
  n == 0 || ((List.range ((a + n - 1) / 4096 - a / 4096 + 1)).all (fun i => (d.key (max a ((a / 4096 + i) * 4096))).isSome)
    && (d.key (a + n - 1)).isSome)

/-- Whether an address is local: bits [63:48] are 0, or it names this device's id in either plane (R25, R399; entry 21). -/
def Core.isLocal (c : Core) (a : Nat) : Bool := a / 2 ^ 48 == 0 || c.isSelf (addrName a)

/-- A global form whose reserved bit [48] is set (R399). -/
def badGlobal (a : Nat) : Bool := bit a 48

/-! Region keys. -/

/-- The kinds of keyed access (R404). -/
inductive Kind where
  | read | write | atomic
  deriving DecidableEq, Repr

/-- key_check of R404: regions in ascending number, the first that holds the address decides. Regions that no write has
enabled hold nothing, so only the written ones are looked at. -/
def Core.keyCheck (c : Core) (a n key : Nat) (kind : Kind) (tenant : Nat) (remote : Bool) : Nat :=
  if key == 0 then stKeyMismatch
  else
    let hit := c.cfg.find? (fun p =>
      let k := (p.1 - rRgnLo 0) / 16
      inArray p.1 (rRgnLo 0) 16 256 && bit p.2 7 && decide ((p.2 / 4096) * 4096 % 2 ^ 48 ≤ a) &&
        decide (a < (p.2 / 4096) * 4096 % 2 ^ 48 + c.reg (rRgnHi k) % 2 ^ 32 * 4096))
    match hit with
    | none => stKeyMismatch
    | some p =>
      let hi := c.reg (rRgnHi ((p.1 - rRgnLo 0) / 16))
      let lim := (p.2 / 4096) * 4096 % 2 ^ 48 + hi % 2 ^ 32 * 4096
      if lim < a + n then stKeyMismatch
      else if hi / 2 ^ 32 ≠ key then stKeyMismatch
      else if c.twoTenant && b2n (bit p.2 6) != tenant then stKeyMismatch
      else if !(if remote then bit p.2 5 else bit p.2 4) then stKeyMismatch
      else if !(match kind with | .read => bit p.2 1 | .write => bit p.2 2 | .atomic => bit p.2 3) then stKeyMismatch
      else stOk

/-! Packed elements (R40). -/

/-- `count` codes of `w` bits each from bit `start` of a little-endian byte string. -/
def unpackCodes (w count start : Nat) (b : List Byte) : List Nat :=
  let n := leNat b
  (List.range count).map (fun i => (n >>> (start + w * i)) % 2 ^ w)

/-- Codes of `w` bits each as one number, the first lowest. -/
def packNat (w : Nat) : List Nat → Nat
  | [] => 0
  | x :: r => x % 2 ^ w + packNat w r <<< w

/-- Codes of `w` bits each packed into whole bytes. -/
def packCodes (w : Nat) (l : List Nat) : List Byte := leBytes (ceilDiv (w * l.length) 8) (packNat w l)

/-- FP32 words of a byte string. -/
def wordsOf (b : List Byte) : List Word32 := (unpackCodes 32 (b.length / 4) 0 b).map (BitVec.ofNat 32)

/-- FP32 words as bytes. -/
def bytesOfWords (l : List Word32) : List Byte := l.flatMap (fun w => leBytes 4 w.toNat)

/-! Layer cards and tensor descriptors. -/

/-- A tensor descriptor (Table 4-13), with its format and scale exponent as resolved (R69). -/
structure TDesc where
  base : Nat := 0
  ext0 : Nat := 0
  ext1 : Nat := 0
  ext2 : Nat := 0
  ext3 : Nat := 0
  stride1 : Nat := 0
  stride2 : Nat := 0
  stride3 : Nat := 0
  code : Nat := 0
  rounding : Nat := 0
  nonSat : Bool := false
  present : Bool := false
  keep : Nat := 0
  blockDim : Nat := 0
  altDim : Nat := 0
  altCopy : Bool := false
  shadow : Bool := false
  compress : Bool := false
  rsv : Nat := 0
  auxOffset : Nat := 0
  scale : Nat := 0
  tensorId : Nat := 0
  key : Nat := 0
  k : Int := 0
  picked : Bool := false
  stale : Bool := false
  deriving DecidableEq, Repr

/-- A descriptor read from its 512 bits (Table 4-13). -/
def tdescOf (n : Nat) : TDesc :=
  { base := bits n 63 0, ext0 := bits n 95 64, ext1 := bits n 127 96, ext2 := bits n 159 128, ext3 := bits n 191 160,
    stride1 := bits n 239 192, stride2 := bits n 287 240, stride3 := bits n 335 288, code := bits n 339 336,
    rounding := bits n 341 340, nonSat := bit n 342, present := bit n 343, keep := bits n 345 344, blockDim := bits n 347 346,
    altDim := bits n 349 348, altCopy := bit n 350, shadow := bit n 351, compress := bit n 352, rsv := bits n 383 353,
    auxOffset := bits n 415 384, scale := bits n 447 416, tensorId := bits n 479 448, key := bits n 511 480,
    k := toSigned (bits n 447 416) 8 }

/-- The format of a descriptor; a reserved or picked code that nothing resolved counts as FP32. -/
def TDesc.fmt (d : TDesc) : Fmt := (fmtOfCode d.code).getD .fp32

/-- Rows of the two-dimensional view: all dimensions but the innermost flattened (R99). -/
def TDesc.rows (d : TDesc) : Nat := d.ext1 * d.ext2 * d.ext3

/-- Byte address of the start of row m of the element plane. -/
def TDesc.rowAddr (d : TDesc) (m : Nat) : Nat :=
  (d.base + m % d.ext1 * d.stride1 + m / d.ext1 % d.ext2 * d.stride2 + m / (d.ext1 * d.ext2) * d.stride3) % 2 ^ 64

/-- The scale-plane offset: the scale field, or its bits [31:12] for a picked tensor (R40, R63). -/
def TDesc.scalePlane (d : TDesc) : Nat :=
  if d.picked then d.base + (d.scale >>> 12) * 256 else d.base + d.scale * 256

/-- The coordinates of element (m, n) of the view. -/
def TDesc.coord (d : TDesc) (m n : Nat) : Nat × Nat × Nat × Nat :=
  (n, m % d.ext1, m / d.ext1 % d.ext2, m / (d.ext1 * d.ext2))

/-- The number of the MX block that holds element (m, n): row-major over the blocked shape (R40). -/
def TDesc.blockOf (d : TDesc) (dim m n : Nat) : Nat :=
  let (i0, i1, i2, i3) := d.coord m n
  let e (j x : Nat) := if dim == j then ceilDiv x 32 else x
  let i (j x : Nat) := if dim == j then x / 32 else x
  ((i 3 i3 * e 2 d.ext2 + i 2 i2) * e 1 d.ext1 + i 1 i1) * e 0 d.ext0 + i 0 i0

/-- The position of row m along block dimension `dim` (1 to 3), and that dimension's extent. -/
def TDesc.alongRow (d : TDesc) (dim m : Nat) : Nat × Nat :=
  let (_, i1, i2, i3) := d.coord m 0
  match dim with
  | 1 => (i1, d.ext1) | 2 => (i2, d.ext2) | _ => (i3, d.ext3)

/-- Rows of the view from one position to the next along dimension `dim`. -/
def TDesc.rowStep (d : TDesc) (dim : Nat) : Nat :=
  match dim with
  | 1 => 1 | 2 => d.ext1 | _ => d.ext1 * d.ext2

/-- Bytes of the element plane of one row, contiguous from its start. -/
def TDesc.rowBytes (d : TDesc) : Nat := ceilDiv (d.ext0 * d.fmt.elemBits) 8

/-- The card in use on a Hearth: bank 1 for a lent run, else bank 0 (R140). -/
def Hearth.card (x : Hearth) : Nat := leNat (if x.lentRun.isSome then x.card1 else x.card0)

/-- A field of the card header (Table 4-12). -/
def Hearth.cardField (x : Hearth) (hi lo : Nat) : Nat := bits x.card hi lo

/-- Descriptor d of a card, as the card holds it. -/
def cardDesc (card d : Nat) : TDesc := tdescOf (bits card (512 * (d + 2) - 1) (512 * (d + 1)))

/-- Descriptor d of the running card, resolved by what the picker gave it at the run's start (R69). -/
def Hearth.desc (x : Hearth) (d : Nat) : TDesc :=
  let t := cardDesc x.card d
  match x.picked.find? (fun p => p.1 == d) with
  | some (_, code, k) => { t with code := code, k := toSigned k 8, picked := true, stale := x.stale.contains d }
  | none => t

/-- The card's seed and step (R49). -/
def Hearth.seed (x : Hearth) : Nat := x.cardField 63 0
def Hearth.step (x : Hearth) : Nat := x.cardField 95 64
/-- The card's accumulator format (R51). -/
def Hearth.accFormat (x : Hearth) : Nat := x.cardField 105 104
/-- strict, observe and pattern of the card (R162). -/
def Hearth.strict (x : Hearth) : Bool := bit x.card 115
def Hearth.observe (x : Hearth) : Bool := bit x.card 114
def Hearth.pattern (x : Hearth) : Nat := x.cardField 113 112
/-- N of the pattern: the most non-zeros in a group of 8; 0 with no pattern (R162). -/
def Hearth.patternN (x : Hearth) : Nat := match x.pattern with | 1 => 4 | 2 => 2 | 3 => 1 | _ => 0
/-- Mode and span of the card's skip field (R163). -/
def Hearth.skipMode (x : Hearth) : Nat := x.cardField 117 116
def Hearth.skipSpan (x : Hearth) : Nat := 2 ^ x.cardField 119 118
/-- The stationary and streaming descriptors of a pair; 7 means none. -/
def Hearth.pairDescs (x : Hearth) (p : Nat) : Nat × Nat :=
  if p == 0 then (x.cardField 122 120, x.cardField 125 123) else (x.cardField 402 400, x.cardField 405 403)
/-- The tile height t of R99. -/
def Hearth.tileHeight (x : Hearth) : Nat := x.cardField 298 288

/-- The tile index of (m0, n0) in an output tensor (R99). -/
def Hearth.tileIndex (x : Hearth) (d : TDesc) (m0 n0 : Nat) : Nat :=
  m0 / x.tileHeight * ceilDiv d.ext0 128 + n0 / 128

/-- Slots of one accumulator row, and the alignment of its base (Table 3-4); a skip row takes 32 (R184). -/
def rowSlots (acc : Nat) (fold : Bool) : Nat × Nat :=
  match acc with
  | 0 => (4, 4) | 1 => (2, 2) | _ => if fold then (3, 1) else (1, 1)

/-! Scalar registers. -/

/-- The value of a scalar register; x0 reads 0 (R103). -/
def Hearth.reg (x : Hearth) (r : Nat) : Word32 := if r == 0 then 0#32 else (kvGet x.regs r).getD 0#32

/-- A scalar register written; a write to x0 is ignored (R103). -/
def Hearth.setReg (x : Hearth) (r : Nat) (v : Word32) : Hearth := if r == 0 then x else { x with regs := kvPut x.regs r v }

/-- An indexed scratch offset in bytes: the field plus the low 13 bits of the index register, in KiB (R105). -/
def Hearth.scratchOff (x : Hearth) (field : Nat) (idx : Bool) (r : Nat) : Nat :=
  1024 * (field + if idx then (x.reg r).toNat % 2 ^ 13 else 0)

/-! Staged tiles (R111). -/

/-- Bytes of one staged row of `cols` elements; `along` tells that MX blocks run along the row, whose scales then follow it. -/
def stagedRowBytes (f : Fmt) (along : Bool) (cols : Nat) : Nat :=
  ceilDiv (cols * f.elemBits) 8 + if f.isMx && along then ceilDiv cols 32 else 0

/-- The group of 32 that each row of a tile belongs to. -/
def rows32 (rows : Nat) : List Nat := (List.range rows).map (· / 32)

/-- The row group of each row of a tile that starts at row `row0` of a tensor: the rows whose elements of one column share an MX block. Where the
tile holds one run of rows along the block dimension these are the groups of 32; else they are numbered as they first appear (R111, R505; entry
97). -/
def TDesc.rowGroups (d : TDesc) (row0 rows : Nat) : List Nat :=
  if !d.fmt.isMx || d.blockDim == 0 then rows32 rows
  else
    let keys := (List.range (min rows (d.rows - row0))).map (fun i => d.blockOf d.blockDim (row0 + i) 0)
    let own := keys.map (fun k => keys.eraseDups.findIdx (· == k))
    if own == rows32 own.length then rows32 rows
    else own ++ (rows32 (rows - own.length)).map (keys.eraseDups.length + ·)

/-- How many groups a list of row groups names. -/
def groupCount (gs : List Nat) : Nat := (gs.map (· + 1)).foldl max 0

/-- Bytes of a staged tile whose rows lie in these groups. -/
def stagedBytes (f : Fmt) (along : Bool) (gs : List Nat) (cols : Nat) : Nat :=
  gs.length * stagedRowBytes f along cols + if f.isMx && !along then groupCount gs * cols else 0

/-- The codes and scales of a staged tile: by row, each element with its scale byte (127 for a plain format). -/
def stagedCodes (f : Fmt) (along : Bool) (gs : List Nat) (cols : Nat) (b : List Byte) : List (List (Nat × Nat)) :=
  let rb := stagedRowBytes f along cols
  let eb := ceilDiv (cols * f.elemBits) 8
  gs.mapIdx (fun r g =>
    let row := (b.drop (r * rb)).take rb
    let sc (j : Nat) : Nat :=
      if !f.isMx then 127
      else if along then (row.getD (eb + j / 32) 0#8).toNat
      else (b.getD (gs.length * rb + g * cols + j) 0#8).toNat
    (unpackCodes f.elemBits cols 0 (row.take eb)).mapIdx (fun j x => (x, sc j)))

/-- The real value of a stored element under a descriptor: its block scale, or the tensor scale (R39, R41). -/
def TDesc.value (d : TDesc) (e : Nat × Nat) : FV := decodeElem d.fmt (if d.fmt.isMx then (e.2 : Int) else d.k) e.1

/-- A tile of codes with rows and columns exchanged. -/
def transposeTile {α : Type} (cols : Nat) (t : List (List α)) : List (List α) :=
  (List.range cols).map (fun j => t.filterMap (fun r => r[j]?))

end Sys2Proof.Machine
end

