-- ==== Sys2Proof/Machine/Access.lean ====
section
/-!
DEFINITION. Sys2Proof/Machine/Access.lean: reads and writes of memory by an operation, here, on another device (R399, R418) or in a
host's memory (R434): the symbol code (R342 to R346), places and keys (R26, R403 to R405), requests and transfers.
-/

namespace Sys2Proof.Machine

/-- A class that stands for "a fault whoever made the access" until the raiser gives it the unit's class (R339). -/
def clsAlways : Nat := 0x100

/-- A class that stands for a lent item's breach of R137 until the item is ended. -/
def clsBreach : Nat := 0x101

/-- A class that stands for "held back": the operation waits and is tried again (R198). -/
def clsHold : Nat := 0x102

/-- A class that stands for a refusal by key: a notice for a host descriptor, a FABRIC fault for any other source (R405). -/
def clsKey : Nat := 0x103

/-- Who makes an access: its actor, tenant, the key it presents if it is keyed (R403), and the slot of a Lesson's operation (R126). -/
structure Who where
  actor : Actor
  tenant : Nat := 0
  key : Nat := 0
  keyed : Bool := true
  slot : Nat := 9
  deriving DecidableEq, Repr

/-- A device block's own access to a structure its settings name: not keyed (R403). -/
def blockWho : Who := { actor := .block, keyed := false }

/-! The symbol code on paths. -/

/-- A response comes over the path to a Hearth's Tongs (R364): a correctable word is counted; one that fails the code is read once more, which the
re-read counter counts where it comes clean, and fails again only where the error stands for more than one failure. -/
def sensePath (h : Nat) : OpM Unit := do
  let c ← get
  match kvGet c.dram.errors ((StoreId.path h).word 0) with
  | some 2 => set (({ c with dram := { c.dram with errors := kvDel c.dram.errors ((StoreId.path h).word 0) } }).bump (kHth h 1))
  | _ => senseWord (.path h) 0

/-- The words of a list of bytes are sensed, in order. -/
def senseAll (s : StoreId) (keys : List Nat) : OpM Unit := do
  let c ← get
  if c.dram.errors.isEmpty then pure () else (keys.filter (fun k => (kvGet c.dram.errors (s.word k)).isSome)).forM (senseWord s)

/-- The bytes of a run's first word: those up to the first byte of another word. -/
def leadWord : List Nat → List Nat
  | [] => []
  | k :: l => k :: l.takeWhile (fun x => x / 16 == k / 16)

/-- The bytes of a write in its partly covered words (R340): of the words of a range only the first and the last can be such. -/
def partialWords (keys : List Nat) : List Nat :=
  let a := leadWord keys
  let b := leadWord ((keys.drop a.length).reverse)
  (if a.length == 16 then [] else a) ++ (if b.length == 16 then [] else b.reverse)

/-- Before a write: partly covered words are read and corrected, and fully covered ones lose their errors. -/
def senseWrite (s : StoreId) (keys : List Nat) : OpM Unit := do
  let edge := partialWords keys
  let inner := keys.filter (fun k => !edge.contains k)
  senseAll s edge
  modify (fun c =>
    let c := if s == .stacked then c.bumpBy (kMem 2) ((edge.map (· / 16)).eraseDups).length else c
    if c.dram.errors.isEmpty then c
    else { c with dram := { c.dram with errors := c.dram.errors.filter (fun p => !(inner.map s.word).contains p.1) } })

/-! Local memory. -/

/-- The byte of undefined scratch (R454; entry 4). -/
def Core.scratchByte (c : Core) (h off : Nat) : Byte := (memGet none (c.hearth h).scratch off).getD (Config.freeScratch c.scratchEpoch h off)

/-- Bytes of a Hearth's scratch. -/
def readScratch (h off n : Nat) : OpM (List Byte) := do
  senseAll (.scratch h) ((List.range n).map (off + ·))
  let c ← get
  let m := (c.hearth h).scratch
  pure ((List.range n).map (fun i => (memGet none m (off + i)).getD (Config.freeScratch c.scratchEpoch h (off + i))))

/-- Bytes written to a Hearth's scratch. -/
def writeScratch (h off : Nat) (d : List Byte) : OpM Unit := do
  senseWrite (.scratch h) ((List.range d.length).map (off + ·))
  modify (fun c => c.modHearth h (fun x => { x with scratch := memPutAll none x.scratch off d }))

/-- The channel bytes of a stacked range; an UNBACKED address is a fault whoever made the access (R339). -/
def stackedKeys (a n : Nat) : OpM (List Nat) := do
  let c ← get
  match c.dram.keys a n with
  | some k => pure k
  | none => throw { cls := clsAlways, status := stFormat, addr := a }

/-- Bytes of a memory place; windows that take only stores refuse a read with ST_FORMAT (R315; entry 22), which is a fault at a combine window,
the pool page and the atomic page (R229, R355, R415). -/
def readPlace (p : Place) (n : Nat) : OpM (List Byte) :=
  match p with
  | .stacked a => do
    let ks ← stackedKeys a n
    senseAll .stacked ks
    let c ← get
    pure (ks.map (fun k => (memGet zeroByte c.stacked k).getD 0#8))
  | .scratch h off => readScratch h off n
  | .hub off => do
    senseAll .hub ((List.range n).map (off + ·))
    let c ← get
    pure (memRange (fun _ => 0#8) c.hub off n)
  | .tally off => do
    if n == 8 && off % 8 == 0 then
      let c ← get
      let t := spGet {} c.sync.tallies (off / 8)
      pure (leBytes 8 (t.value + b2n t.overSet <<< 32 + b2n t.underSet <<< 33))
    else failWith stFormat
  | .pool _ => throw { cls := clsAlways, status := stFormat }
  | .combine _ _ => throw { cls := clsAlways, status := stFormat }
  | .atomic _ => throw { cls := clsAlways, status := stFormat }
  | _ => failWith stFormat

/-- Bytes written to a memory place. -/
def writePlace (p : Place) (d : List Byte) : OpM Unit :=
  match p with
  | .stacked a => do
    let ks ← stackedKeys a d.length
    senseWrite .stacked ks
    modify (fun c => { c with stacked := (ks.zip d).foldl (fun m kb => memPut zeroByte m kb.1 kb.2) c.stacked })
  | .scratch h off => writeScratch h off d
  | .hub off => do
    senseWrite .hub ((List.range d.length).map (off + ·))
    modify (fun c => { c with hub := memPutAll zeroByte c.hub off d })
  | _ => failWith stFormat

/-- Whether a local range touches an address between stacked memory and the next region, all of which are UNBACKED (R339). -/
def pastStacked (a n : Nat) : Bool := decide (a < scratchStart) && decide (stackedEnd < a + n)

/-- The place of a local range, or its refusal (R26); one that touches an UNBACKED address is a fault whoever made the access (R339). -/
def placeOf (a n : Nat) : OpM Place := do
  let c ← get
  match c.place a n with
  | .ok p => pure p
  | .error st =>
    if st == stFormat && pastStacked a n then throw { cls := clsAlways, status := st, addr := a }
    else failWith st a

/-- A key check of an access by this device, per request of at most 4,096 bytes (R399, R404, R405). -/
def cutsFuel (size : Nat) : Nat → Nat → Nat → List (Nat × Nat)
  | 0, _, _ => []
  | f + 1, a, n => if n == 0 then [] else
      let k := min n (size - a % size)
      (a, k) :: cutsFuel size f (a + k) (n - k)

/-- The requests that a range is cut into (R399, R421). -/
def cuts (size a n : Nat) : List (Nat × Nat) := cutsFuel size (n / size + 2) a n

/-- The transaction op that an access of a kind is named by (Table 16-3). -/
def Kind.op : Kind → Nat
  | .read => opLoad
  | .write => opStore
  | .atomic => opAtomic

/-- Whether a fabric Tally belongs to a tenant (R314). -/
def Core.tallyOwned (c : Core) (tenant i : Nat) : Bool := !c.twoTenant || (if tenant == 0 then i < 32768 else 32768 ≤ i)

/-- A refusal with ST_KEY_MISMATCH of an access of this device to itself: counted at both ends (R405). Its fault would carry the global
form of the address (Table 16-3); a Roll-call has none. -/
def refuseKey {α : Type} (a : Nat) (op : Nat := opStore) : OpM α := do
  update (fun c => (c.bump kKeyRefused).bump kKeyRefusedSrc)
  let c ← get
  throw { cls := clsKey, status := stKeyMismatch, unit := c.selfId, detail := op, addr := if op == opRollTx then 0 else globalAddr c.selfId a }

/-- One key check by the source or the home itself; a refusal counts at both ends (R405). -/
def checkKey (w : Who) (a n : Nat) (kind : Kind) : OpM Unit := do
  if !w.keyed then pure ()
  else
    let c ← get
    let st := c.keyCheck a n w.key kind w.tenant false
    if st == stOk then pure () else refuseKey a kind.op

/-- The forge die of an actor; none for the hub's own agents. -/
def Actor.die : Actor → Option Nat
  | .hearth h => some (h / 44)
  | .smithy s => some (s / 11)
  | _ => none

/-- The forge dies that hold a place; none where it lies in the hub. -/
def Core.placeDies (c : Core) (p : Place) (n : Nat) : List Nat :=
  match p with
  | .stacked a => (((c.dram.keys a n).getD []).map (fun k => k / channelBytes / 32)).eraseDups
  | .scratch h _ => [h / 44]
  | .combine s _ => [s / 11]
  | _ => []

/-- The bridges that an access of a place crosses (R33): from a forge die its own for the hub, both for the other die; from the hub that of the die. -/
def Core.bridges (c : Core) (w : Who) (p : Place) (n : Nat) : List Nat :=
  let ds := c.placeDies p n
  match w.actor.die with
  | none => ds
  | some d => if ds.isEmpty then [d] else if ds.any (· != d) then [0, 1] else []

/-- The path of an actor's traffic. -/
def Actor.way : Actor → Nat
  | .hearth h => h
  | .smithy s => smithyWay s
  | _ => hubWay

/-- The words of an access that cross bridges and its actor's path are checked (R342). What a Hearth's Tongs read is checked where its responses come
(`sensePath`). -/
def senseWays (w : Who) (p : Place) (n : Nat) (write : Bool) : OpM Unit := do
  let c ← get
  if c.dram.errors.isEmpty then pure ()
  else do
    (c.bridges w p n).forM (fun d => senseWord (.bridge d) 0)
    match w.actor with
    | .hearth h => if write then senseWord (.path h) 0 else pure ()
    | a => senseWord (.path a.way) 0

/-- What leaves a unit for another device crosses its own bridge and path (R33, R342). -/
def senseOut (w : Who) : OpM Unit := do
  let c ← get
  if c.dram.errors.isEmpty then pure ()
  else do
    w.actor.die.toList.forM (fun d => senseWord (.bridge d) 0)
    senseWord (.path w.actor.way) 0

/-- A local read (R26, R404): the place of the whole range first, then the keys request by request. -/
def readLocal (w : Who) (a n : Nat) : OpM (List Byte) := do
  if n == 0 then pure []
  else
    let a := a % 2 ^ 48
    let p ← placeOf a n
    (cuts 4096 a n).forM (fun (x, k) => checkKey w x k .read)
    senseWays w p n false
    let c ← get
    match p with
    | .tally off => if w.keyed && !c.tallyOwned w.tenant (off / 8) then refuseKey a opLoad else readPlace p n
    | p => readPlace p n

/-- A local write to memory, request by request: the bytes of every request admitted before a refusal stay (R405, R408). -/
def writeLocal (w : Who) (a : Nat) (d : List Byte) : OpM Unit := do
  if d.isEmpty then pure ()
  else
    let a := a % 2 ^ 48
    let _ ← placeOf a d.length
    (cuts 4096 a d.length).forM (fun (x, k) => do
      checkKey w x k .write
      let p ← placeOf x k
      senseWays w p k true
      writePlace p ((d.drop (x - a)).take k))

/-- Little-endian number of a device block's local structure. -/
def blockNat (a n : Nat) : OpM Nat := do
  let b ← readLocal blockWho a n
  pure (leNat b)

/-- A device block's write to a local structure. -/
def blockPut (a : Nat) (d : List Byte) : OpM Unit := writeLocal blockWho a d

/-! Requests to other devices. -/

/-- The next sequence number of a space towards a device (R410): it starts at 1. -/
def nextSeq (l : List (Nat × Nat)) (dst : Nat) : Nat := (kvGet l dst).getD 1

/-- The highest sequence below which every response to a destination has come (Table 14-2): one below the oldest that lacks
it, or one below the next number. -/
def Core.ackSeqOf (c : Core) (dst : Nat) (sig : Bool) (next : Nat) : Nat :=
  let l := c.fabric.out.filter (fun r => r.dst == dst && (r.frame.txn.op == opSignalTx) == sig && r.frame.txn.seq != 0)
  match l with
  | [] => next - 1
  | r :: _ => r.frame.txn.seq - 1

/-- Whether an output port towards a device is a generation-1 port (R383, R421). -/
def Core.gen1To (c : Core) (dst : Nat) : Bool :=
  match c.outPort (c.srcName dst) dst with
  | some p => c.route.gen1.contains p
  | none => false

/-- The largest request to a device (R399, R421). -/
def Core.cutSize (c : Core) (dst : Nat) : Nat := if c.gen1To dst then 2048 else 4096

/-- A request sent to another device under a tag, recorded until its response comes (R410, R418). A key or tenant that generation 1
cannot carry is refused here (R421); a route that is missing is a fault of the device that chose it (R393). -/
def sendTagged (w : Who) (use : ReqUse) (tag : Nat) (t : Txn) (vc : Nat) (data : List Byte) : OpM Unit := do
  senseOut w
  let c ← get
  if c.gen1To t.dst && (decide (0xFFFF < t.key) || (c.twoTenant && w.tenant == 1)) then do
    set (c.bump kKeyRefusedSrc)
    throw { cls := clsKey, status := stKeyMismatch, unit := t.dst, detail := t.op, addr := t.addr }
  else
    let sig := t.op == opSignalTx
    let numbered := sig || t.op == opStore || t.op == opAtomic
    let sp := if sig then c.fabric.sigOut else c.fabric.seqOut
    let q := nextSeq sp t.dst
    let t := { t with src := c.srcName t.dst, tag := tag, tenant := if c.twoTenant then w.tenant else 0,
                      seq := if numbered then q else 0, ackSeq := c.ackSeqOf t.dst sig q }
    match c.trySend t vc data w.actor.die with
    | none => throw { cls := clsFabric, status := stFormat, unit := t.dst, detail := t.op, addr := t.addr }
    | some c' =>
      let f := c'.fabric
      let fr : Frame := { txn := t, data := data, hops := c.reg rHopLimit, vc := vc }
      let f := { f with out := f.out ++ [{ tag := tag, dst := t.dst, frame := fr, actor := w.actor, use := use, slot := w.slot }] }
      let f := if !numbered then f
        else if sig then { f with sigOut := kvPut f.sigOut t.dst ((q + 1) % 2 ^ 32) }
        else { f with seqOut := kvPut f.seqOut t.dst ((q + 1) % 2 ^ 32) }
      set { c' with fabric := f }

/-- The next request tag (Table 14-2). -/
def nextTag : OpM Nat := do
  let c ← get
  set { c with fabric := { c.fabric with nextTag := (c.fabric.nextTag + 1) % 2 ^ 16 } }
  pure c.fabric.nextTag

/-- Atomics to a destination that lack their RESULT. -/
def Core.atomicsTo (c : Core) (dst : Nat) : Nat := (c.fabric.out.filter (fun r => r.dst == dst && r.frame.txn.op == opAtomic)).length

/-- Whether two actors issue on one stream: a unit of a Hearth, a device block, or a submission ring (R407). -/
def sameStream (a b : Actor × Nat) : Bool :=
  match a.1, b.1 with
  | .desc o, .desc p => o.port == p.port && o.ring == p.ring
  | x, y => x == y && a.2 == b.2

/-- A request held at the source until it may go (R407, R412). -/
def holdRequest (w : Who) (use : ReqUse) (tag : Nat) (t : Txn) (vc : Nat) (data : List Byte) : OpM Unit :=
  modify (fun c =>
    let r : OutReq := { tag := tag, dst := t.dst, frame := { txn := { t with tenant := w.tenant }, data := data, vc := vc }, actor := w.actor, use := use,
                        slot := w.slot }
    { c with fabric := { c.fabric with atomHeld := c.fabric.atomHeld ++ [r] } })

/-- A request sent to another device; on REQ it stays behind the held atomics of its stream (R407). -/
def sendRequest (w : Who) (use : ReqUse) (t : Txn) (vc : Nat) (data : List Byte) : OpM Unit := do
  let tag ← nextTag
  let c ← get
  if vc == vcReq && c.fabric.atomHeld.any (fun r => r.dst == t.dst && sameStream (r.actor, r.slot) (w.actor, w.slot)) then
    holdRequest w use tag t vc data
  else sendTagged w use tag t vc data

/-- An atomic to another device: held while 256 to that destination lack their RESULT (R412). -/
def sendAtomic (w : Who) (use : ReqUse) (t : Txn) : OpM Unit := do
  let tag ← nextTag
  let c ← get
  if c.atomicsTo t.dst < 256 && !c.fabric.atomHeld.any (fun r => r.dst == t.dst) then sendTagged w use tag t vcReq []
  else holdRequest w use tag t vcReq []

/-- Which of the requests held for a destination may go while `n` more atomics may lack their RESULT: in order, none past a held one of its stream. -/
def releasable : Nat → List OutReq → List OutReq → List OutReq
  | _, _, [] => []
  | n, kept, r :: rest =>
    if r.frame.txn.op == opAtomic then
      if n == 0 then releasable n (r :: kept) rest else r :: releasable (n - 1) kept rest
    else if kept.any (fun k => sameStream (k.actor, k.slot) (r.actor, r.slot)) then releasable n (r :: kept) rest
    else r :: releasable n kept rest

/-- Held requests to a destination sent as far as R412 allows. -/
def releaseAtomics (dst : Nat) : OpM Unit := do
  let c ← get
  let mine := releasable (256 - c.atomicsTo dst) [] (c.fabric.atomHeld.filter (fun r => r.dst == dst))
  set { c with fabric := { c.fabric with atomHeld := c.fabric.atomHeld.filter (fun r => !mine.contains r) } }
  mine.forM (fun r => do
    senseWord (.queue qAtomics) 0
    sendTagged { actor := r.actor, tenant := r.frame.txn.tenant, key := r.frame.txn.key, slot := r.slot } r.use r.tag r.frame.txn r.frame.vc r.frame.data)

/-- Fails on a global address whose reserved bit is set (R399). -/
def checkGlobal (a : Nat) : OpM Unit := require (!badGlobal a) stFormat

/-- Whether a local part lies in the Tally window. -/
def inTallyWindow (a : Nat) : Bool := decide (0x500060000000 ≤ a % 2 ^ 48) && decide (a % 2 ^ 48 < 0x500060080000)

/-- A store to another device: STORE requests, or a SIGNAL transaction for a whole Tally window word (R315, Table 14-3). -/
def storeRemote (w : Who) (vc : Nat) (use : ReqUse) (a : Nat) (d : List Byte) : OpM Unit := do
  let dst := addrName a
  if inTallyWindow a && d.length == 8 && a % 8 == 0 then
    sendRequest w use { op := opSignalTx, dst := dst, addr := a, key := w.key, len := 8, window := true, opndA := leNat (d.take 5) } vcSync []
  else
    let c ← get
    (cuts (c.cutSize dst) a d.length).forM (fun (x, k) =>
      sendRequest w use { op := opStore, dst := dst, addr := x, key := w.key, len := k, copy := vc == vcBulk } vc ((d.drop (x - a)).take k))

/-! Transfers: reads whose bytes come later. -/

/-- The pieces of a list of ranges: local ranges whole, remote ones cut into requests. -/
def Core.pieces (c : Core) (ranges : List (Nat × Nat)) : List (Nat × Nat) :=
  (ranges.filter (fun r => r.2 != 0)).flatMap (fun r => if c.isLocal r.1 then [r] else cuts (c.cutSize (addrName r.1)) r.1 r.2)

/-- Ranges read in order. If all are local their bytes are the answer; else the local ones are read now, LOAD requests go out for
the others, and the continuation waits (R399, R401). -/
def readRanges (w : Who) (cont : Cont) (ranges : List (Nat × Nat)) : OpM (Option (List Byte)) := do
  ranges.forM (fun r => checkGlobal r.1)
  let c ← get
  let ps := c.pieces ranges
  if ps.all (fun p => c.isLocal p.1) then
    let bs ← ps.mapM (fun p => readLocal w p.1 p.2)
    pure (some bs.flatten)
  else
    let id := c.fabric.nextXfer
    let got ← (ps.mapIdx (fun i p => (i, p))).filterMapM (fun (i, p) => do
      if c.isLocal p.1 then
        let b ← readLocal w p.1 p.2
        pure (some (i, b))
      else pure none)
    let x : Transfer := { id := id, actor := w.actor, cont := cont, pieces := ps, got := got }
    modify (fun c => { c with fabric := { c.fabric with nextXfer := id + 1, xfers := c.fabric.xfers ++ [x] } })
    (ps.mapIdx (fun i p => (i, p))).forM (fun (i, p) =>
      if c.isLocal p.1 then pure ()
      else sendRequest w (.piece id i) { op := opLoad, dst := addrName p.1, addr := p.1, key := w.key, len := p.2 } vcReq [])
    pure none

/-- A read of a host's memory, answered by HOST_READ_COMPLETION (entry 8). -/
def readHost (actor : Actor) (q : Nat) (cont : Cont) (a n : Nat) : OpM Unit :=
  modify (fun c =>
    let id := c.fabric.nextXfer
    let x : Transfer := { id := id, actor := actor, cont := cont, host := some q, pieces := [(a, n)] }
    ({ c with fabric := { c.fabric with nextXfer := id + 1, xfers := c.fabric.xfers ++ [x] } } : Core).modPort q (fun p => p.says 1))

/-- A read for a descriptor, from its host or from the fabric. -/
def readFor (o : Origin) (host keyed : Bool) (tenant key : Nat) (cont : Cont) (a n : Nat) : OpM (Option (List Byte)) :=
  if host then do
    readHost (.desc o) o.port cont a n
    pure none
  else readRanges { actor := .desc o, tenant := tenant, key := key, keyed := keyed } cont [(a, n)]

/-- Whether anything an actor started is still under way elsewhere: a request without its response, or a transfer. -/
def Core.waits (c : Core) (a : Actor) : Bool :=
  c.fabric.out.any (fun r => r.actor == a) || c.fabric.xfers.any (fun t => t.actor == a) || c.fabric.atomHeld.any (fun r => r.actor == a)

end Sys2Proof.Machine
end

