-- ==== Sys2Proof/Machine/Tally.lean ====
section
/-!
DEFINITION. Sys2Proof/Machine/Tally.lean: Tallies and their waiters (R309 to R314), the Tally window's stores (R315) and the
checks of lent and borrowed resources (R137).
-/

namespace Sys2Proof.Machine

/-- A Tally by scope code and unit: local of a Hearth, of a Smithy, or fabric (Table 11-1). -/
def Core.tally (c : Core) (scope unit i : Nat) : Tally :=
  match scope with
  | 0 => spGet {} (c.hearth unit).tallies i
  | 1 => spGet {} (c.smithy unit).tallies i
  | _ => spGet {} c.sync.tallies i

/-- A Tally given a state. -/
def Core.setTally (c : Core) (scope unit i : Nat) (t : Tally) : Core :=
  match scope with
  | 0 => c.modHearth unit (fun x => { x with tallies := spPut {} x.tallies i t })
  | 1 => c.modSmithy unit (fun x => { x with tallies := spPut {} x.tallies i t })
  | _ => { c with sync := { c.sync with tallies := spPut {} c.sync.tallies i t } }

/-- The Tally after a signal of n (R311). -/
def Tally.signal (t : Tally) (n : Nat) : Tally :=
  if t.overSet then t
  else if max32 < t.value + n then { t with value := max32, overSet := true }
  else { t with value := t.value + n }

/-- The Tally after an explicit subtract of n (R313). -/
def Tally.sub (t : Tally) (n : Nat) : Tally :=
  if t.overSet then t
  else if t.value < n then { t with value := 0, underSet := true }
  else { t with value := t.value - n }

/-- Whether a wait of n may complete, and the Tally after it (R312, R311; entry 23). -/
def Tally.take (t : Tally) (n : Nat) : Option Tally :=
  if t.overSet || n == 0 then some t
  else if n ≤ t.value then some { t with value := t.value - n }
  else none

/-- A signal applied; reaching OVER is a SYNC fault with ST_TALLY_OVER (R311, Table 16-3). -/
def signalTally (scope unit i n : Nat) : OpM Unit := do
  let c ← get
  let t := c.tally scope unit i
  set (c.setTally scope unit i (t.signal n))
  if !t.overSet && (t.signal n).overSet then throw { cls := clsSync, status := stTallyOver, unit := i, detail := scope } else pure ()

/-- The counter of clamped subtracts of a Tally's block (R313). -/
def underCounter (scope unit : Nat) : Nat :=
  match scope with
  | 0 => kHth unit 13
  | 1 => kSmy unit 3
  | _ => kSyn 3

/-- An explicit subtract applied (R313). -/
def Core.subTally (c : Core) (scope unit i n : Nat) : Core :=
  let t := c.tally scope unit i
  let c := c.setTally scope unit i (t.sub n)
  if !t.overSet && decide (t.value < n) then c.bump (underCounter scope unit) else c

/-- A device block's signal of a fabric Tally of this device (R317); 0xFFFF names none where a chapter says so. -/
def signalFabric (i n : Nat) : OpM Unit := signalTally 2 0 i n

/-- A signal of a fabric Tally that a tenant's record names: the other tenant's is refused (R314). -/
def signalAs (tenant i n : Nat) : OpM Unit := do
  let c ← get
  if c.tallyOwned tenant i then signalFabric i n else refuseKey (0x500060000000 + 8 * i) opSignalTx

/-- Whether another waiter of the same Tally came earlier than a Hearth's (R312). -/
def Core.firstWaiter (c : Core) (scope unit i h : Nat) : Bool :=
  match c.sync.waiters.find? (fun w => w.scope == scope && w.unit == unit && w.index == i) with
  | some w => w.hearth == h
  | none => true

/-- A Hearth's waiter taken out. -/
def Core.dropWaiter (c : Core) (h : Nat) : Core :=
  { c with sync := { c.sync with waiters := c.sync.waiters.filter (fun w => w.hearth != h) } }

/-! Lent and reserved resources (R137). -/

/-- Whether lending is enabled on a physical Hearth (R441). -/
def Core.lending (c : Core) (h : Nat) : Bool :=
  c.twoTenant && match c.logicalOf h with
    | some l => if l < 64 then bit (c.inForce rLendEnable0) l else bit (c.inForce rLendEnable1) (l - 64)
    | none => false

/-- Fails as a breach of R137 unless a condition holds. -/
def requireLent (b : Bool) : OpM Unit := if b then pure () else throw { cls := clsBreach, status := stFormat }

/-- Whether two scratch ranges meet in a granule of 1 KiB (R127). -/
def granulesMeet (a n b m : Nat) : Bool := n != 0 && m != 0 && decide (a / 1024 ≤ (b + m - 1) / 1024) && decide (b / 1024 ≤ (a + n - 1) / 1024)

/-- A scratch range of an operation of a Lesson: it starts and ends inside 8 MiB (R105, R152) and, with lending, lies on the right side of the reserve
(R137). -/
def checkScratch (h off n : Nat) : OpM Unit := do
  let c ← get
  if (c.hearth h).lentRun.isSome then requireLent (decide (off < scratchSize) && (n == 0 || (decide (0x700000 ≤ off) && decide (off + n ≤ scratchSize))))
  else do
    require (decide (off < scratchSize) && decide (off + n ≤ scratchSize)) stFormat off
    require (!c.lending h || n == 0 || decide (off + n ≤ 0x700000)) stFormat off

/-- Checks a local Tally of an operation of a Lesson against the reserve (R137). -/
def checkLocalTally (h i : Nat) : OpM Unit := do
  let c ← get
  if (c.hearth h).lentRun.isSome then requireLent (decide (56 ≤ i))
  else require (!c.lending h || decide (i < 56)) stFormat

/-- Fails as a breach where a lent item uses a resource that R137 does not give it. -/
def refuseLent (h : Nat) : OpM Unit := do
  let c ← get
  requireLent (c.hearth h).lentRun.isNone

/-- The same for an access by whoever it is. -/
def lentOff (w : Who) : OpM Unit := match w.actor with | .hearth h => refuseLent h | _ => pure ()

/-- The tenant under which a Hearth's requests go: the borrower's for a lent item (R441). -/
def Core.runTenant (c : Core) (h : Nat) : Nat :=
  match (c.hearth h).lentRun with
  | some l => l.origin.port
  | none => c.hearthTenant h

/-- A Hearth's access through a tensor descriptor: keyed with its key (R403). -/
def Core.who (c : Core) (h : Nat) (d : TDesc) : Who := { actor := .hearth h, tenant := c.runTenant h, key := d.key }

/-- The tenant of a descriptor: the port's in two-tenant mode (R439). -/
def Core.originTenant (c : Core) (o : Origin) : Nat := if c.twoTenant then o.port else 0

/-- A store of a whole Tally window word by an agent of this device or another (R315, Table 11-2). -/
def tallyStore (tenant off : Nat) (d : List Byte) : OpM Unit := do
  let c ← get
  let w := leNat d
  let op := bits w 39 32
  if d.length == 8 && off % 8 == 0 && (op == 1 || op == 3) then
    if !c.tallyOwned tenant (off / 8) then refuseKey (0x500060000000 + off)
    else if op == 1 then signalTally 2 0 (off / 8) (w % 2 ^ 32)
    else update (fun c => c.subTally 2 0 (off / 8) (w % 2 ^ 32))
  else failWith stFormat

/-- A write by an operation or a block to memory or the Tally window of this device, or to another device. -/
def putAny (w : Who) (vc a : Nat) (d : List Byte) : OpM Unit := do
  checkGlobal a
  let c ← get
  if !c.isLocal a then storeRemote w vc .store a d
  else if inTallyWindow a then do
    lentOff w
    checkKey w (a % 2 ^ 48) d.length .write
    tallyStore w.tenant (a % 2 ^ 48 - 0x500060000000) d
  else writeLocal w a d

/-! Work of device blocks. -/

/-- A fault request given the class, unit and detail of its raiser where it has none of its own. -/
def FaultReq.filled (f : FaultReq) (cls unit detail : Nat) : FaultReq :=
  if f.cls == 0 || f.cls == clsAlways || f.cls == clsHold then { f with cls := cls, unit := unit, detail := detail }
  else if f.cls == clsKey then { f with cls := clsFabric }
  else f

/-- A failure of an operation names the descriptors it serves (R507), unless it names some already. -/
def blame {α : Type} (l : List Origin) (op : OpM α) : OpM α :=
  tryCatch op (fun f => throw { f with who := if f.who.isEmpty then l else f.who })

/-- A device block's work done; what it fails on becomes the device's fault (R447). -/
def Core.runBlock (c : Core) (cls unit detail : Nat) (op : OpM Unit) : Core :=
  match op.run c with
  | .ok _ c => c
  | .error f c => c.raise (f.filled cls unit detail)

/-- A descriptor's work done; a fault that is a device fault even for a descriptor is raised, any other failure completes the
descriptor as a notice (R24, R26, R339, R400, R405). -/
def Core.runDesc (c : Core) (o : Origin) (op : OpM Unit) : Core :=
  match op.run c with
  | .ok _ c => c
  | .error f c => if f.cls == 0 || f.cls == clsKey then c.complete o f.status 0 else c.raiseFor o (f.filled clsLesson 0 0)

end Sys2Proof.Machine
end

