-- ==== Sys2Proof/Machine/Output.lean ====
section
/-!
DEFINITION. Sys2Proof/Machine/Output.lean: conversion of a tile into a tensor (R44 to R49, R160, R505), the gauge statistics and
record (R60 to R62), the picker's summaries (R64) and the step's non-finite count (R289).
-/

namespace Sys2Proof.Machine

/-- One element as written: its code, its block's scale byte (127 for a plain format) and the outcome of its conversion. -/
structure OutElem where
  code : Nat
  scale : Nat
  outc : Outc
  deriving DecidableEq, Repr

/-- The scale of an element's MX block, from the values of the block that the write holds (R46, R505). -/
def blockScale (d : TDesc) (dim : Nat) (f : Fmt) (elems : List (Nat × Nat × Word32)) (m n : Nat) : Nat :=
  let b := d.blockOf dim m n
  mxScale f ((elems.filter (fun e => d.blockOf dim e.1 e.2.1 == b)).map (fun e => f32V e.2.2))

/-- One value converted at position (m, n) of a tensor (R44, R160); a NaN goes into FP32 unchanged (R45). -/
def convElem (d : TDesc) (f : Fmt) (seed step scale m n : Nat) (w : Word32) : OutElem :=
  let r := rndOf d.rounding (srBits seed d.tensorId (m * d.ext0 + n) step)
  let (code, o) := if f.isMx then convMx f scale r (f32V w) else if f == .fp32 && (f32V w).isNan then (w.toNat, {}) else convPlain f d.k r d.nonSat (f32V w)
  { code := code, scale := scale, outc := o }

/-- A list of placed values converted into a tensor of format `f` whose blocks run along `dim`. -/
def convList (d : TDesc) (f : Fmt) (dim seed step : Nat) (elems : List (Nat × Nat × Word32)) : List (Nat × Nat × OutElem) :=
  elems.map (fun e =>
    let s := if f.isMx then blockScale d dim f elems e.1 e.2.1 else 127
    (e.1, e.2.1, convElem d f seed step s e.1 e.2.1 e.2.2))

/-- The elements of a tile at (m0, n0) that lie inside the tensor, row by row. -/
def placeTile {α : Type} (d : TDesc) (m0 n0 lanes : Nat) (rows : List (List α)) : List (Nat × Nat × α) :=
  (rows.mapIdx (fun i r => (r.take lanes).mapIdx (fun j x => (m0 + i, n0 + j, x)))).flatten.filter
    (fun e => decide (e.1 < d.rows) && decide (e.2.1 < d.ext0))

/-- Whether a write of rows m0.. and columns n0.. moves whole MX blocks (R505). -/
def TDesc.wholeBlocks (d : TDesc) (dim m0 rows n0 cols : Nat) : Bool :=
  if dim == 0 then n0 % 32 == 0 && ((n0 + cols) % 32 == 0 || decide (d.ext0 ≤ n0 + cols))
  else (List.range rows).all (fun i =>
    let m := m0 + i
    let (p, e) := d.alongRow dim m
    let st := d.rowStep dim
    decide (d.rows ≤ m) ||
      (decide (m0 + (p - p / 32 * 32) * st ≤ m) && decide (m + (min (p / 32 * 32 + 31) (e - 1) - p) * st < m0 + rows)))

/-- Whether a read of a tile starts at a multiple of 32 along the block dimension (R505). -/
def TDesc.readAligned (d : TDesc) (row0 col0 : Nat) : Bool :=
  !d.fmt.isMx || (if d.blockDim == 0 then col0 % 32 == 0 else (d.alongRow d.blockDim row0).1 % 32 == 0)

/-! Gauges. -/

/-- The statistics of a tile (R62). -/
structure Gauge where
  count : Nat := 0
  amax : Word32 := 0#32
  amin : Word32 := 0#32
  sumsq : Word32 × Word32 := (0#32, 0#32)
  nonfinite : Nat := 0
  sat : Nat := 0
  under : Nat := 0
  zero : Nat := 0
  nanBlock : Bool := false
  deriving DecidableEq, Repr

/-- The magnitude of FP32 bits. -/
def f32Mag (w : Word32) : Nat := w.toNat % 2 ^ 31

/-- One counted value and its outcome added to the statistics; one that is not written counts in the value statistics only (Table 2-6). -/
def Gauge.add (g : Gauge) (w : Word32) (mx written : Bool) (o : OutElem) : Gauge :=
  let fin := f32Finite w
  let a := BitVec.ofNat 32 (f32Mag w)
  { count := satAdd 32 g.count (b2n written)
    amax := if fin && decide (f32Mag g.amax < f32Mag w) then a else g.amax
    amin := if fin && f32Mag w != 0 && (f32Mag g.amin == 0 || decide (f32Mag w < f32Mag g.amin)) then a else g.amin
    sumsq := if fin then compAdd g.sumsq (fmul w w) else g.sumsq
    nonfinite := if fin then g.nonfinite else satAdd 32 g.nonfinite 1
    sat := satAdd 32 g.sat (b2n (written && o.outc.sat))
    under := satAdd 32 g.under (b2n (written && o.outc.under))
    zero := satAdd 32 g.zero (b2n (written && o.outc.zero))
    nanBlock := g.nanBlock || (mx && written && o.scale == 0xFF) }

/-- The statistics of converted values in element order; `written` tells which of them are written. -/
def gaugeWith (mx : Bool) (written : Nat → Nat → Bool) (vals : List (Nat × Nat × Word32)) (outs : List (Nat × Nat × OutElem)) : Gauge :=
  (vals.zip outs).foldl (fun g p => g.add p.1.2.2 mx (written p.1.1 p.1.2.1) p.2.2.2) {}

/-- The statistics of converted values that are all written. -/
def gaugeOf (mx : Bool) (vals : List (Nat × Nat × Word32)) (outs : List (Nat × Nat × OutElem)) : Gauge := gaugeWith mx (fun _ _ => true) vals outs

/-- Gauge flag bits (Table 2-7). -/
def gfLongSum : Nat := 0
def gfSegmented : Nat := 1
def gfFolded : Nat := 2
def gfForced : Nat := 3
def gfEmpty : Nat := 4
def gfStale : Nat := 5
def gfNanBlock : Nat := 6
def gfSr : Nat := 7

/-- A flag word with a bit set if a condition holds. -/
def flagIf (b : Bool) (i f : Nat) : Nat := if b then Nat.lor f (1 <<< i) else f

/-- The 64 bytes of a gauge record (Table 2-6). -/
def gaugeRecord (g : Gauge) (d : TDesc) (segments flags status tile step : Nat) : List Byte :=
  let n := place d.tensorId 32 0 + place step 32 32 + place tile 32 64 + place g.count 32 96 + place g.amax.toNat 32 128
    + place g.amin.toNat 32 160 + place g.sat 32 192 + place g.nonfinite 32 224 + place g.under 32 256 + place g.zero 32 288
    + place g.sumsq.1.toNat 32 320 + place g.sumsq.2.toNat 32 352 + place flags 16 384 + place status 8 400
    + place d.fmt.code 4 408 + place d.rounding 2 412 + place (if d.picked then d.scale % 4096 else 0xFFF) 12 416
    + place (min segments max32) 32 432
  leBytes 64 n

/-- floor_log2 of a nonzero finite FP32 magnitude (R64). -/
def f32Log2 (w : Word32) : Int :=
  match f32V w with
  | .fin _ m e => floorLog2 m e
  | _ => 0

/-- A picker entry's settings: enable, candidates, margin, window, fallback (Table 2-8). -/
def Core.pickSet (c : Core) (n : Nat) : Bool × Nat × Nat × Nat × Nat :=
  let v := c.inForce (rPick n)
  let w := bits v 15 11
  (bit v 0, bits v 7 1, bits v 10 8, if w == 0 || 16 < w then 16 else w, bits v 19 16)

/-- A picker entry; one that nothing has changed since the job's start holds its fallback for both picks (R68). -/
def Core.pickEntry (c : Core) (n : Nat) : PickEntry :=
  (kvGet c.picker.entries n).getD { pickNow := ((c.pickSet n).2.2.2.2, 0), pickPrev := ((c.pickSet n).2.2.2.2, 0) }

/-- The picker's summary of a step updated by a tile's statistics (R64): a tile with no non-zero finite value leaves it. -/
def Core.pickSummary (c : Core) (d : TDesc) (step : Nat) (g : Gauge) : Core :=
  if !d.picked || f32Mag g.amax == 0 then c
  else
    let i := d.scale % 4096
    let e := c.pickEntry i
    let hi := f32Log2 g.amax
    let lo := f32Log2 g.amin
    let (a, b) := match e.summary.find? (fun x => x.1 == step) with
      | some (_, a, b) => (max a hi, min b lo)
      | none => (hi, lo)
    let e := { e with summary := e.summary.filter (fun x => x.1 != step) ++ [(step, a, b)] }
    { c with picker := { c.picker with entries := kvPut c.picker.entries i e } }

/-- The non-finite count of a step, by the step's parity (R289). -/
def Core.countNonFinite (c : Core) (step n : Nat) : Core :=
  if n == 0 then c
  else { c with crucible := { c.crucible with nonFinite := spPut 0 c.crucible.nonFinite (step % 2) (spGet 0 c.crucible.nonFinite (step % 2) + n) } }

/-- The step statistics of counted values, fed to the picker and the Quench (R64, R113, R289). -/
def Core.feedStats (c : Core) (d : TDesc) (step : Nat) (g : Gauge) : Core := (c.pickSummary d step g).countNonFinite step g.nonfinite

/-- The offload and recompute byte counters of a tensor written by a Hearth (R270). -/
def Core.keepBytes (c : Core) (h keep n : Nat) : Core :=
  match keep with
  | 1 => c.bump64 (kOffload h) n
  | 2 => c.bump64 (kRecompute h) n
  | _ => c

/-! Byte ranges of converted elements. -/

/-- Runs of elements in one row at consecutive columns: row, first column, elements. -/
def elemRuns {α : Type} (l : List (Nat × Nat × α)) : List (Nat × Nat × List α) :=
  (l.foldl (fun (acc : List (Nat × Nat × List α)) e =>
    match acc with
    | (m, n, xs) :: r => if e.1 == m && e.2.1 == n + xs.length then (m, n, xs ++ [e.2.2]) :: r else (e.1, e.2.1, [e.2.2]) :: acc
    | [] => [(e.1, e.2.1, [e.2.2])]) []).reverse

/-- Whether a present descriptor keeps Table 4-13 and R141. -/
def Core.descOk (c : Core) (t : TDesc) : Bool :=
  t.rsv == 0 && (decide (5 ≤ t.code) || decide (t.scale < 256)) && (t.code == 14 && (c.pickSet (t.scale % 4096)).1 || (fmtOfCode t.code).isSome && t.code != 14) && t.rounding != 3 && t.keep != 3 &&
    t.ext0 != 0 && t.ext1 != 0 && t.ext2 != 0 && t.ext3 != 0

end Sys2Proof.Machine
end

