-- ==== Sys2Proof/Machine/Combine.lean ====
section
/-!
DEFINITION. Sys2Proof/Machine/Combine.lean: the scatter buffer of a Smithy (R229 to R238) and the hash accumulator (R239 to R245).
-/

namespace Sys2Proof.Machine

/-! Frames. -/

/-- A frame record's fields (Table 8-1). -/
structure FrameRec where
  seed : Nat
  step : Nat
  tensorId : Nat
  gauge : Nat
  outBase : Nat
  outStride : Nat
  rowLen : Nat
  token0 : Nat
  tokens : Nat
  col0 : Nat
  cols : Nat
  key : Nat
  doneTally : Nat
  parts : Nat
  code : Nat
  rounding : Nat
  sat : Bool
  ordered : Bool
  slots : Nat
  index : Nat
  deriving DecidableEq, Repr

/-- A frame record read from its 512 bits. -/
def frameRecOf (n : Nat) : FrameRec :=
  { seed := bits n 511 448, step := bits n 447 416, tensorId := bits n 415 384, gauge := bits n 383 320, outBase := bits n 319 256,
    outStride := bits n 255 224, rowLen := bits n 223 192, token0 := bits n 191 160, tokens := bits n 159 128, col0 := bits n 127 112,
    cols := bits n 111 96, key := bits n 95 64, doneTally := bits n 63 48, parts := bits n 47 40, code := bits n 39 36,
    rounding := bits n 35 34, sat := bit n 33, ordered := bit n 32, slots := bits n 31 28, index := bits n 27 0 }

/-- Cells per token: one row of columns, or one per slot in ordered mode. -/
def FrameRec.perToken (r : FrameRec) : Nat := (if r.ordered then r.slots else 1) * r.cols

/-- The checks of R231. -/
def FrameRec.ok (r : FrameRec) : Bool :=
  decide (1 ≤ r.tokens) && decide (r.tokens ≤ 65536) && r.col0 % 16 == 0 && r.cols % 16 == 0 && decide (16 ≤ r.cols) &&
    decide (1 ≤ r.parts) && decide (r.code ≤ 4) && decide (r.rounding < 3) && decide (r.doneTally < 256) &&
    (if r.ordered then decide (1 ≤ r.slots) && decide (r.slots ≤ 8) else r.slots == 0) &&
    decide (r.tokens * r.perToken * 4 ≤ 0x200000)

/-- The output tensor of a frame as a descriptor. -/
def FrameRec.desc (r : FrameRec) : TDesc :=
  { code := r.code, rounding := r.rounding, nonSat := r.sat, tensorId := r.tensorId, ext0 := r.rowLen, ext1 := r.token0 + r.tokens,
    ext2 := 1, ext3 := 1, key := r.key }

/-- A frame record stored by a Hearth of the Smithy (R231): the frame opens, or the record holds its Tongs. -/
def frameStore (h record : Nat) : OpM Unit := do
  require (frameRecOf record).ok stFormat
  update (fun c => c.modSmithy (h / 4) (fun s =>
    if s.frame.isSome then { s with held := s.held ++ [(h, record)] } else { s with frame := some { record := record } }))
  update (fun c => if (c.smithy (h / 4)).held.isEmpty then c.freshSpan (.scatter (h / 4)) 0 0x200000 else c)

/-- A frame that still accepts contributions and close records. -/
def Smithy.openFrame (s : Smithy) : Option CFrame :=
  match s.frame with
  | some f => if f.closes < (frameRecOf f.record).parts then some f else none
  | none => none

/-- A close record stored by a Hearth of the Smithy (R236). -/
def closeStore (h : Nat) : OpM Unit := do
  let c ← get
  match (c.smithy (h / 4)).openFrame with
  | none => failWith stFormat
  | some f => set (c.modSmithy (h / 4) (fun s => { s with frame := some { f with closes := f.closes + 1 } }))

/-- One product put into a cell (R234, R235): added in arrival mode; in ordered mode written, and added where the cell has been
written before. The second result tells of that second contribution. -/
def CFrame.putCell (f : CFrame) (ordered : Bool) (cell : Nat) (v : Word32) : CFrame × Bool :=
  let old := spGet 0#32 f.cells cell
  if !ordered then ({ f with cells := spPut 0#32 f.cells cell (fadd old v) }, false)
  else if f.written.contains cell then ({ f with cells := spPut 0#32 f.cells cell (fadd old v) }, true)
  else ({ f with cells := spPut 0#32 f.cells cell v, written := cell :: f.written }, false)

/-- Whether a product is added to its cell and does not just replace what it held (R234, R235). -/
def CFrame.readsCell (f : CFrame) (ordered : Bool) (cell : Nat) : Bool := !ordered || f.written.contains cell

/-- The words of cells that are read (R247). -/
def senseCells (s cell n : Nat) : OpM Unit := senseSpan (.scatter s) (4 * cell) (4 * n)

/-- A bank completes its oldest chunk (R237). -/
def bankStep (s b : Nat) : OpM Unit := do
  let c ← get
  let x := c.smithy s
  match (kvGet x.banks b).getD [], x.frame with
  | k :: rest, some f => do
    let ord := (frameRecOf f.record).ordered
    senseWord (.queue (qBank s b)) 0
    (if (List.range k.vals.length).any (fun i => f.readsCell ord (k.cell + i)) then senseCells s k.cell k.vals.length else pure ())
    let (f, dup) := (k.vals.mapIdx (fun i v => (k.cell + i, v))).foldl
      (fun (acc : CFrame × Nat) p => let (g, d) := acc.1.putCell ord p.1 p.2; (g, acc.2 + b2n d)) (f, 0)
    update (fun c => (c.modSmithy s (fun x => { x with banks := if rest.isEmpty then kvDel x.banks b else kvPut x.banks b rest,
                                                       frame := some f })).bumpBy (kSmy s 0) dup)
  | _, _ => pure ()

/-- A chunk enters its bank's queue of 32; at a full queue it waits while the bank completes a chunk, one beat in arrival mode and two in ordered
mode, each counted (R237, R248, Table 8-2). -/
def bankPush (s : Nat) (ordered : Bool) (k : Chunk) : OpM Unit := do
  let b := k.cell / 16 % 16
  let c ← get
  (if ((kvGet (c.smithy s).banks b).getD []).length < 32 then pure ()
   else do
    update (fun c => c.bumpBy (kSmy s 1) (if ordered then 2 else 1))
    bankStep s b)
  update (fun c => c.modSmithy s (fun x => { x with banks := kvPut x.banks b ((kvGet x.banks b).getD [] ++ [k]) }))

/-- The chunks of one contribution (R232, R237): source row i with its list entry, from its first column on. -/
def FrameRec.chunksOf (r : FrameRec) (col0 : Nat) (entry : Nat) (row : List Word32) : List Chunk :=
  let t := bits entry 31 0 - r.token0
  let w := BitVec.ofNat 32 (bits entry 95 64)
  let base := (if r.ordered then (t * r.slots + bits entry 39 32) * r.cols else t * r.cols) + (col0 - r.col0)
  (chunks 16 (row.map (fmul w))).mapIdx (fun i v => { cell := base + 16 * i, vals := v })

/-- One contribution (R232). -/
def contribute (s : Nat) (r : FrameRec) (col0 : Nat) (entry : Nat) (row : List Word32) : OpM Unit := do
  let t := bits entry 31 0 - r.token0
  update (fun c => c.modSmithy s (fun x => { x with frame := x.frame.map (fun f => { f with touched := if f.touched.contains t then f.touched else t :: f.touched }) }))
  (r.chunksOf col0 entry row).forM (bankPush s r.ordered)

/-- Whether an entry names a cell outside the frame (R233). -/
def FrameRec.outside (r : FrameRec) (entry : Nat) : Bool :=
  let t := bits entry 31 0
  decide (t < r.token0) || decide (r.token0 + r.tokens ≤ t) || (r.ordered && decide (r.slots ≤ bits entry 39 32))

/-- Scratch rows of a scatter as FP32 values: the elements of a staged tile, each converted exactly (R232, R240). -/
def rowsAsF32 (f : Fmt) (count cols : Nat) (b : List Byte) : List (List Word32) :=
  (stagedCodes f true (rows32 count) cols b).map (fun r => r.map (fun e => toF32 (decodeElem f 0 e.1)))

/-- The operands of a scatter by index: descriptor, first column, index bytes and source rows in FP32. -/
def scatterOperands (h : Nat) (f : TindexF) (entryBytes : Nat) (fmts : List Fmt) : OpM (TDesc × Nat × List Nat × List (List Word32)) := do
  let c ← get
  let x := c.hearth h
  let d := x.desc f.desc
  let count := (x.reg f.count).toNat
  let cols := 32 * (f.cols32 + 1)
  require (fmts.contains d.fmt) stFormat
  checkScratch h (1024 * f.index) (entryBytes * count)
  checkScratch h (1024 * f.scratch) (count * stagedRowBytes d.fmt true cols)
  let ib ← readScratch h (1024 * f.index) (entryBytes * count)
  let rb ← readScratch h (1024 * f.scratch) (count * stagedRowBytes d.fmt true cols)
  pure (d, (x.reg f.col0).toNat, unpackCodes (8 * entryBytes) count 0 ib, rowsAsF32 d.fmt count cols rb)

/-- A combine scatter (R232, R233). -/
def combineOp (h : Nat) (f : TindexF) : OpM Unit := do
  refuseLent h
  let s := h / 4
  let (_, col0, entries, rows) ← scatterOperands h f 16 [.fp32, .bf16, .fp16]
  let c ← get
  match (c.smithy s).openFrame with
  | none => failWith stFormat
  | some fr =>
    let r := frameRecOf fr.record
    require (col0 % 16 == 0 && decide (r.col0 ≤ col0) && decide (col0 + 32 * (f.cols32 + 1) ≤ r.col0 + r.cols)) stFormat
    let bad := (entries.filter r.outside).length
    if (c.hearth h).strict && bad != 0 then do
      set (c.bump (kHth h 8))
      failWith stIndexRange
    else do
      let c := c.bumpBy (kHth h 8) bad
      let c := if bad == 0 then c else c.modSmithy s (fun x =>
        { x with frame := x.frame.map (fun f => if f.pendingStatus == 0 then { f with pendingStatus := stIndexRange } else f) })
      set c
      (entries.zip rows).forM (fun (p : Nat × List Word32) => if r.outside p.1 then pure () else contribute s r col0 p.1 p.2)

/-- The closed value of a frame's element at the drain (R234, R235). -/
def CFrame.value (f : CFrame) (r : FrameRec) (t j : Nat) : Word32 :=
  if r.ordered then (List.range r.slots).foldl (fun a s => fadd a (spGet 0#32 f.cells ((t * r.slots + s) * r.cols + j))) 0#32
  else spGet 0#32 f.cells (t * r.cols + j)

/-- The frame's end: done_tally, then the next held frame record (R236, R231). -/
def frameEnd (s : Nat) (r : FrameRec) : OpM Unit := do
  update (fun c => c.modSmithy s (fun x =>
    match x.held with
    | [] => { x with frame := none }
    | (_, rec0) :: rest => { x with frame := some { record := rec0 }, held := rest }))
  update (fun c => c.freshSpan (.scatter s) 0 0x200000)
  signalTally 1 s r.doneTally 1

/-- The drain of a frame (R236). Its writes are keyed (R403); done_tally waits for their delivery (R317). -/
def frameDrain (s : Nat) : OpM Unit := do
  let c ← get
  match (c.smithy s).frame with
  | none => pure ()
  | some f => do
    let r := frameRecOf f.record
    let d := r.desc
    senseCells s 0 (r.tokens * r.perToken)
    let w : Who := { actor := .smithy s, tenant := c.smithyTenant s, key := r.key }
    let rows := (List.range r.tokens).map (fun t => (List.range r.cols).map (fun j => (r.token0 + t, r.col0 + j, f.value r t j)))
    let outs := rows.map (convList d d.fmt 0 r.seed r.step)
    (rows.zip outs).forM (fun (ro : List (Nat × Nat × Word32) × List (Nat × Nat × OutElem)) => do
      let t := (ro.1.map (·.1)).headD 0
      putAny w vcReq ((r.outBase + t * r.outStride + r.col0 * (d.fmt.elemBits / 8)) % 2 ^ 64)
        (packCodes d.fmt.elemBits (ro.2.map (fun e => e.2.2.code))))
    let g := gaugeOf false rows.flatten outs.flatten
    update (fun c => c.feedStats d r.step g)
    if r.gauge != 0 then
      let empty := decide (f.touched.length < r.tokens)
      let flags := flagIf (r.rounding == 2) gfSr (flagIf empty gfEmpty 0)
      putAny w vcReq r.gauge (gaugeRecord g d 0 flags f.pendingStatus r.index r.step)
    else pure ()
    update (fun c => (c.bump (kSmy s 2)).modSmithy s (fun x => { x with frame := x.frame.map (fun f => { f with draining := true }) }))
    let c ← get
    if c.waits (.smithy s) then pure () else frameEnd s r

/-- Whether a frame can drain: all close records received and every contribution applied (R236). -/
def Core.drainReady (c : Core) (s : Nat) : Bool :=
  let x := c.smithy s
  match x.frame with
  | some f => !f.draining && decide ((frameRecOf f.record).parts ≤ f.closes) && x.banks.isEmpty
  | none => false

/-- A fault of a frame drain is of class FABRIC, as a key refusal or timeout at the source (Table 16-3). -/
def Core.runDrain (c : Core) (op : OpM Unit) : Core := c.runBlock clsFabric c.selfName opStore op

/-- FRAME_DRAIN; not enabled before its condition holds (entry 6). -/
def execFrameDrain (smithy : Nat) (s : State) : Host.Outcome State Fault Refusal :=
  .next { s with core := s.core.gated (fun c => if c.drainReady smithy then c.runDrain (frameDrain smithy) else c) }

/-- SCATTER_CHUNK: one bank completes one queued chunk (R237). -/
def execScatterChunk (smithy bank : Nat) (s : State) : Host.Outcome State Fault Refusal :=
  .next { s with core := s.core.gated (fun c => c.runDrain (bankStep smithy bank)) }

/-! The hash accumulator. -/

/-- First address of the hash table windows. -/
def hashWindow : Nat := 0x500100000000

/-- The table whose window holds a local part, if one does (R239). -/
def hashTable (a : Nat) : Option Nat :=
  let l := a % 2 ^ 48
  if hashWindow ≤ l && l < hashWindow + 0x100000000 then some ((l - hashWindow) / 0x1000000) else none

/-- The rows and width of an enabled table (Table 18-7). -/
def Core.hashSetting (c : Core) (t : Nat) : Option (Nat × Nat) :=
  let v := c.inForce (rHashTbl t)
  if bit v 0 && bits v 63 32 != 0 then some (bits v 63 32, 128 * (bits v 15 8 + 1)) else none

/-- hkey (R242). -/
def hkey (table row chunk part : Nat) : Nat := table <<< 56 + chunk <<< 48 + part <<< 32 + row

/-- The set of a key (R242). -/
def hashSet (k : Nat) : Nat := mix k % 2048

/-- Entries of the spill table, and the entry at which a key's probes start (R242, R243). -/
def Core.spillEnts (c : Core) : Nat := 2 ^ c.inForce rSpillLog2
def Core.spillProbes (c : Core) (k : Nat) : List Nat :=
  (List.range (min 64 c.spillEnts)).map (fun i => ((mix k >>> 11) + i) % c.spillEnts)

/-- Addresses of an entry's tag and data (R243). -/
def Core.spillTagAt (c : Core) (i : Nat) : Nat := c.inForce rSpillBase + 16 * i
def Core.spillDataAt (c : Core) (i : Nat) : Nat := c.inForce rSpillBase + 16 * c.spillEnts + 1024 * i

/-- The tag of a key, and the key of a tag (R243). -/
def spillTag (k : Nat) : List Byte :=
  leBytes 16 (bits k 31 0 + place (bits k 55 48) 8 32 + place (bits k 63 56) 8 40 + place (bits k 47 32) 16 48 + 1 <<< 64)
def tagKey (t : Nat) : Nat := hkey (bits t 47 40) (bits t 31 0) (bits t 39 32) (bits t 63 48)

/-- The bytes of a line and the line of its bytes. -/
def lineBytes (l : List (Word32 × Word32)) : List Byte := l.flatMap (fun p => leBytes 4 p.1.toNat ++ leBytes 4 p.2.toNat)
def lineOf (b : List Byte) : List (Word32 × Word32) :=
  (unpackCodes 64 128 0 b).map (fun n => (BitVec.ofNat 32 n, BitVec.ofNat 32 (n >>> 32)))

/-- The entry that holds a key, along its probes: it stops at an entry that is not live (R243). -/
def findSpill (k : Nat) : List Nat → OpM (Option Nat)
  | [] => pure none
  | i :: rest => do
    let c ← get
    let t ← blockNat (c.spillTagAt i) 16
    if !bit t 64 then pure none
    else if tagKey t == k then pure (some i)
    else findSpill k rest

/-- The first entry that is not live, along the probes; with none the accumulator raises a fault, whoever sent the row (R243). -/
def freeSpill : List Nat → OpM Nat
  | [] => throw { cls := clsAlways, status := stQuota }
  | i :: rest => do
    let c ← get
    let t ← blockNat (c.spillTagAt i) 16
    if !bit t 64 then pure i else freeSpill rest

/-- The byte of hub SRAM at which a line starts: the ways of a set lie side by side, the sets one after another, in the unit of 16 MiB that
HUB_HASH_BASE names (R239; entry 112). -/
def Core.lineAt (c : Core) (l : HashLine) : Nat := c.inForce rHashBase % hubSize + 1024 * (8 * hashSet l.key + l.way)

/-- Hub SRAM with the lines of the hash accumulator cleared (R244, R454). -/
def Core.clearedLines (c : Core) : Mem := c.hash.lines.foldl (fun m l => memClear m (c.lineAt l) 1024) c.hub

/-- A line's pairs read, and written. -/
def readLine (l : HashLine) : OpM (List (Word32 × Word32)) := do
  let c ← get
  let b ← readPlace (.hub (c.lineAt l)) 1024
  pure (lineOf b)
def writeLine (l : HashLine) (v : List (Word32 × Word32)) : OpM Unit := do
  let c ← get
  writePlace (.hub (c.lineAt l)) (lineBytes v)

/-- A line written to the spill table, to its own entry if it came from one (R242): the entry. -/
def writeSpill (l : HashLine) : OpM Nat := do
  let c ← get
  let v ← readLine l
  let i ← match l.spill with
    | some i => pure i
    | none => freeSpill (c.spillProbes l.key)
  blockPut (c.spillTagAt i) (spillTag l.key)
  blockPut (c.spillDataAt i) (lineBytes v)
  pure i

/-- The line written least recently of a set. -/
def oldestLine (l : List HashLine) : Option HashLine :=
  l.foldl (fun m x => match m with | none => some x | some y => if x.age < y.age then some x else m) none

/-- A way of a key's set taken for it: a free one, or that of the line written least recently, which is evicted (R242). -/
def takeWay (k : Nat) : OpM Nat := do
  let c ← get
  let s := hashSet k
  let mine := c.hash.lines.filter (fun l => hashSet l.key == s)
  match (List.range 8).find? (fun w => !mine.any (fun l => l.way == w)), oldestLine mine with
  | some w, _ => pure w
  | none, some v => do
    let _ ← writeSpill v
    update (fun c => ({ c with hash := { c.hash with lines := c.hash.lines.filter (fun l => l.key != v.key),
                                                     spilled := if c.hash.spilled.contains s then c.hash.spilled else s :: c.hash.spilled } }).bump kHashSpill)
    pure v.way
  | none, none => pure 0

/-- A key made resident (R242). -/
def hashResident (k : Nat) : OpM HashLine := do
  let c ← get
  match c.hash.lines.find? (fun l => l.key == k) with
  | some l => pure l
  | none => do
    let e ← if c.hash.spilled.contains (hashSet k) then findSpill k (c.spillProbes k) else pure none
    let v ← match e with
      | some i => do
        update (fun c => c.bump kHashFill)
        let b ← readLocal blockWho (c.spillDataAt i) 1024
        pure (lineOf b)
      | none => pure (List.replicate 128 (0#32, 0#32))
    let w ← takeWay k
    let l : HashLine := { key := k, way := w, age := 0, spill := e }
    writeLine l v
    update (fun c => { c with hash := { c.hash with lines := c.hash.lines ++ [l] } })
    pure l

/-- Values added into a line from one of its columns on, by comp_add (R240). -/
def hashAddLine (k off : Nat) (vals : List Word32) : OpM Unit := do
  let l ← hashResident k
  let v ← readLine l
  writeLine l (v.mapIdx (fun i p => if off ≤ i && i < off + vals.length then compAdd p (vals.getD (i - off) 0#32) else p))
  update (fun c => { c with hash := { c.hash with clock := c.hash.clock + 1,
                                                  lines := modFirst (fun x => x.key == k) (fun x => { x with age := c.hash.clock + 1 }) c.hash.lines } })

/-- The pieces of a row's columns by line: chunk, first column in it, values. -/
def linePieces (col0 : Nat) (row : List Word32) : List (Nat × Nat × List Word32) :=
  (cuts 128 col0 row.length).map (fun p => (p.1 / 128, p.1 % 128, (row.drop (p.1 - col0)).take p.2))

/-- One row added to a table (R240). -/
def hashAddRow (t entry col0 : Nat) (row : List Word32) : OpM Unit :=
  (linePieces col0 row).forM (fun p => hashAddLine (hkey t (bits entry 31 0) p.1 (bits entry 47 32)) p.2.1 p.2.2)

/-- The store that carries one line's piece of a row between devices: the 8-byte entry with the column after the row's last in bits [63:48], then the values in
FP32 (entry 25). -/
def hashPayload (entry fin : Nat) (vals : List Word32) : List Byte := leBytes 8 (entry % 2 ^ 48 + place fin 16 48) ++ bytesOfWords vals

/-- The place of a line's piece in a table's window: 1 KiB per line, so that no piece crosses a boundary of 4 KiB (R399; entry 25). -/
def hashSpot (win : Nat) (p : Nat × Nat × List Word32) : Nat := win + 1024 * p.1 + 4 * p.2.1

/-- One row of a hash scatter sent to another device, whose accumulator judges it (R240, R175). -/
def hashSend (w : Who) (base key : Nat) (strict : Bool) (entry col0 : Nat) (row : List Word32) : OpM Unit :=
  ((linePieces col0 row).mapIdx (fun i p => (i, p))).forM (fun (ip : Nat × Nat × Nat × List Word32) =>
    sendRequest w (.hashRow (ip.1 == 0) strict)
      { op := opStore, dst := addrName base, addr := hashSpot (base - base % 0x1000000) ip.2, key := key, len := 8 + 4 * ip.2.2.2.length } vcReq
      (hashPayload entry (col0 + row.length) ip.2.2.2))

/-- An out-of-range row of a hash scatter noted at its Hearth (R175, R177). -/
def Core.noteRange (c : Core) (h n : Nat) : Core :=
  if n == 0 then c
  else (c.bumpBy (kHth h 8) n).modHearth h (fun x => if x.pendingStatus == 0 then { x with pendingStatus := stIndexRange } else x)

/-- A hash scatter (R240). A table of another device is judged there: its settings are that device's (entry 25). -/
def hashOp (h : Nat) (f : TindexF) : OpM Unit := do
  refuseLent h
  let (d, col0, entries, rows) ← scatterOperands h f 8 [.fp32, .bf16]
  let c ← get
  checkGlobal d.base
  require (entries.all (fun e => bits e 63 48 == 0) && decide (col0 + 32 * (f.cols32 + 1) ≤ 32768)) stFormat
  match hashTable d.base with
  | none => failWith stFormat
  | some t =>
    let w : Who := { c.who h d with slot := 1 }
    let strict := (c.hearth h).strict
    if c.isLocal d.base then
      match c.hashSetting t with
      | none => failWith stFormat
      | some (nrows, width) => do
        require (decide (col0 + 32 * (f.cols32 + 1) ≤ width)) stFormat
        let bad := (entries.filter (fun e => decide (nrows ≤ bits e 31 0))).length
        if strict && bad != 0 then do
          set (c.bump (kHth h 8))
          failWith stIndexRange
        else do
          update (fun c => c.noteRange h bad)
          (entries.zip rows).forM (fun (er : Nat × List Word32) =>
            if nrows ≤ bits er.1 31 0 then pure ()
            else do
              (linePieces col0 er.2).forM (fun p => checkKey w (hashSpot (d.base - d.base % 0x1000000) p % 2 ^ 48) (8 + 4 * p.2.2.length) .write)
              hashAddRow t er.1 col0 er.2)
    else (entries.zip rows).forM (fun (er : Nat × List Word32) => hashSend w d.base d.key strict er.1 col0 er.2)

/-- A store from another device to a table window, as its home applies it (R240, Table 14-1; entry 25): the status of its answer. No piece of a row that
reaches past the width is added; a row out of range is dropped, and its source told (R175). -/
def hashStoreRemote (t off : Nat) (d : List Byte) : OpM Nat := do
  let c ← get
  let e := leNat (d.take 8)
  let vals := wordsOf (d.drop 8)
  let col := 128 * (off / 1024) + off % 1024 / 4
  match c.hashSetting t with
  | none => pure stFormat
  | some (nrows, width) =>
    if bits e 63 48 < col + vals.length || d.length < 12 || d.length % 4 != 0 || off % 4 != 0 || decide (512 ≤ off % 1024) || width < bits e 63 48 then pure stFormat
    else if nrows ≤ bits e 31 0 then pure stIndexRange
    else do
      hashAddRow t e col vals
      pure stOk

/-- The order in which the merge sorts keys: table, row, chunk, part (R244). -/
def mergeKey (k : Nat) : Nat := ((bits k 63 56 * 2 ^ 32 + bits k 31 0) * 256 + bits k 55 48) * 65536 + bits k 47 32

/-- The live entries of the spill table: key and entry, in merge order. -/
def liveSpill : OpM (List (Nat × Nat)) := do
  let c ← get
  let l ← (List.range c.spillEnts).filterMapM (fun i => do
    let t ← blockNat (c.spillTagAt i) 16
    pure (if bit t 64 then some (tagKey t, i) else none))
  pure (sortBy (fun a b => mergeKey a.1 < mergeKey b.1) l)

/-- The distinct (table, row) of a sorted list of keys, in order. -/
def mergeRows (l : List (Nat × Nat)) : List (Nat × Nat) := (l.map (fun p => (bits p.1 63 56, bits p.1 31 0))).eraseDups

/-- One 128-column line of a merged row: its parts combined by close_group, or +0 where nothing came (R244). -/
def mergeLine (l : List (Nat × Nat)) (table row chunk : Nat) : OpM (List Word32) := do
  let c ← get
  let parts ← (l.filter (fun p => bits p.1 63 56 == table && bits p.1 31 0 == row && bits p.1 55 48 == chunk)).mapM (fun p => do
    let b ← readLocal blockWho (c.spillDataAt p.2) 1024
    pure (lineOf b))
  if parts.isEmpty then pure (List.replicate 128 0#32)
  else pure ((List.range 128).map (fun i => closeGroup (parts.map (fun l => l.getD i (0#32, 0#32)))))

/-- The header of a sparse row set (Table 8-4). -/
def sparseHeader (step rows need status : Nat) : List Byte :=
  leBytes 64 (place status 8 0 + place need 64 64 + place rows 32 128 + place step 32 160)

/-- The merge (R244). -/
def mergeOp (tenant record : Nat) : OpM Unit := do
  let base := bits record 63 0
  let done := bits record 111 96
  require (bits record 511 160 == 0 && bits record 127 112 == 0) stFormat
  let c ← get
  if c.tallyOwned tenant done then pure () else refuseKey (0x500060000000 + 8 * done) opSignalTx
  let lines ← c.hash.lines.mapM (fun l => do
    let i ← writeSpill l
    pure { l with spill := some i })
  update (fun c => { c with hash := { c.hash with lines := lines } })
  let live ← liveSpill
  let rows := mergeRows live
  let width (t : Nat) : Nat := match c.hashSetting t with | some (_, w) => w | none => 0
  let need := 64 + (rows.map (fun r => roundUp (16 + 4 * width r.1) 64)).foldl (· + ·) 0
  if bits record 95 64 < need then blockPut base (sparseHeader (bits record 159 128) 0 need stQuota)
  else do
    let bodies ← rows.mapM (fun r => do
      let ls ← (List.range (width r.1 / 128)).mapM (mergeLine live r.1 r.2)
      let b := leBytes 16 (r.1 + place r.2 32 32 + place (width r.1) 32 64) ++ bytesOfWords ls.flatten
      pure (b ++ List.replicate (roundUp b.length 64 - b.length) 0#8))
    blockPut base (sparseHeader (bits record 159 128) rows.length need stOk ++ bodies.flatten)
    live.forM (fun p => blockPut (c.spillTagAt p.2) (List.replicate 16 0#8))
    update (fun c => { c with hash := {}, hub := c.clearedLines })
  update (fun c => (List.range 256).foldl (fun c t => { c with latched := kvPut c.latched (rHashTbl t) (c.reg (rHashTbl t)) }) (c.bump kHashMerge))
  signalFabric done 1

end Sys2Proof.Machine
end

