-- ==== Sys2Proof/Machine/Pools.lean ====
section
/-!
DEFINITION. Sys2Proof/Machine/Pools.lean: the buffer pool manager (R350 to R360): pool-set records, tags and free lists, requests,
frees and their page.
-/

namespace Sys2Proof.Machine

/-- A pool-set record (Table 12-2): classes as (offset, count). -/
structure PoolRec where
  base : Nat
  scratch : Bool
  owner : Nat
  classes : List (Nat × Nat)
  rsvOk : Bool
  deriving DecidableEq, Repr

/-- A pool-set record read from its 512 bits. -/
def poolRecOf (n : Nat) : PoolRec :=
  { base := bits n 63 0, scratch := bit n 64, owner := bits n 71 66,
    classes := (List.range 5).map (fun i => (bits n (128 + 64 * i + 31) (128 + 64 * i), bits n (128 + 64 * i + 63) (160 + 64 * i))),
    rsvOk := bits n 511 448 == 0 && bits n 127 72 == 0 && !bit n 65 }

/-- Bytes of a billet of a class (R350). -/
def classSize (scratch : Bool) (i : Nat) : Nat := if scratch then 2048 * 8 ^ i else 4096 * 16 ^ i

/-- Offset unit of a record (Table 12-2). -/
def PoolRec.unit (r : PoolRec) : Nat := if r.scratch then 2048 else 4096
/-- Address of class i's area, of its first billet, and the end of its last (R351). -/
def PoolRec.area (r : PoolRec) (i : Nat) : Nat := r.base + (r.classes.getD i (0, 0)).1 * r.unit
def PoolRec.count (r : PoolRec) (i : Nat) : Nat := (r.classes.getD i (0, 0)).2
def PoolRec.billet (r : PoolRec) (i j : Nat) : Nat :=
  r.area i + (if r.scratch then 0 else roundUp (r.count i * 16) 4096) + j * classSize r.scratch i
def PoolRec.areaEnd (r : PoolRec) (i : Nat) : Nat := r.billet i (r.count i)
/-- The classes that hold billets. -/
def PoolRec.live (r : PoolRec) : List Nat := (List.range 5).filter (fun i => r.count i != 0)
/-- End of the set's region (R351). -/
def PoolRec.finish (r : PoolRec) : Nat := r.live.foldl (fun m i => max m (r.areaEnd i)) r.base

/-- The record checked against R350 and R351, and for backing (R353, Table 12-7). -/
def Core.poolRecOk (c : Core) (r : PoolRec) : Bool :=
  let apart := r.live.all (fun i => r.live.all (fun j => i == j || decide (r.areaEnd i ≤ r.area j) || decide (r.areaEnd j ≤ r.area i)))
  let owner := if c.twoTenant then decide (r.owner ≤ 1) else r.owner == 0
  r.rsvOk && owner && apart &&
    if r.scratch then
      r.base % 2048 == 0 && r.count 3 == 0 && r.count 4 == 0 && r.live.all (fun i => decide (r.count i ≤ 4096)) &&
        match c.place r.base (max 1 (r.finish - r.base)) with
        | .ok (.scratch _ _) => decide (r.base < 2 ^ 48)
        | _ => false
    else
      r.base % 4096 == 0 && decide (r.finish ≤ stackedEnd) && decide (r.base < stackedEnd) &&
        decide (r.finish - r.base ≤ 16 * 2 ^ 30) && c.dram.backed r.base (r.finish - r.base)

/-- A pool set's state. -/
def Core.poolSet (c : Core) (p : Nat) : PoolSet := spGet {} c.pools.sets p
def Core.setPoolSet (c : Core) (p : Nat) (x : PoolSet) : Core := { c with pools := { c.pools with sets := spPut {} c.pools.sets p x } }

/-- Writing 1 to bit p of POOL_SET_ENABLE: the record is checked (R353). A set that is enabled already is not started again. -/
def Core.enableSet (c : Core) (p : Nat) : Core :=
  if (c.poolSet p).enabled then c
  else
    let a := c.reg rPoolSetBase + 64 * p
    let n := c.hubNat a 64
    let c := c.setPoolSet p { c.poolSet p with error := false }
    let x := c.poolSet p
    match (senseHub a 64).run c with
    | .error f c => c.raise f
    | .ok _ c =>
      if c.poolRecOk (poolRecOf n) then c.setPoolSet p { x with enabled := true, error := false, record := n }
      else c.setPoolSet p { x with error := true }

/-- Every bit set in a value written to POOL_SET_ENABLE (R353). -/
def Core.enableSets (c : Core) (v : Nat) : Core :=
  ((List.range 16).filter (fun p => bit v p)).foldl (fun c p => c.enableSet p) c

/-- A head tag (Table 12-3): grants, state, owner, class, set. -/
def headTag (grants state owner cls set : Nat) : List Byte :=
  leBytes 16 (place grants 32 32 + place state 2 16 + place owner 8 8 + place cls 4 4 + place set 4 0)

/-- The end mark of a free list (R352). -/
def listEnd : Nat := 0xFFFFFFFF

/-- The link bytes of a free billet (R352). -/
def linkBytes (next own : Nat) : List Byte := leBytes 8 (place next 32 0 + place own 32 32)

/-- One class of a stacked set initialised: tags FREE, billets threaded in ascending order (R353). -/
def initClass (p : Nat) (r : PoolRec) (i : Nat) : OpM Unit :=
  (List.range (r.count i)).forM (fun j => do
    blockPut (r.area i + 16 * j) (headTag 0 0 0xFF i p)
    blockPut (r.billet i j) (linkBytes (if j + 1 == r.count i then listEnd else j + 1) j))

/-- The tenant a requester belongs to (R354). -/
def requesterTenant (r : Nat) : Nat := if r == 1 || decide (33 ≤ r) then 1 else 0

/-- What a grant answers: status, empty, billet, class (Table 12-4). -/
structure Grant where
  status : Nat
  empty : Bool := false
  billet : Nat := 0
  cls : Nat := 0
  deriving DecidableEq, Repr

/-- Held units of a requester. -/
def Core.held (c : Core) (r : Nat) : Nat := spGet 0 c.pools.held r
def Core.setHeld (c : Core) (r v : Nat) : Core := { c with pools := { c.pools with held := spPut 0 c.pools.held r v } }

/-- A pool fault, whoever's store it was (R355, R357, R358). -/
def poolFault {α : Type} (status : Nat) (addr : Nat := 0) : OpM α := throw { cls := clsAlways, status := status, addr := addr }

/-- The billet that class i of a set hands out next, after the check of R358; none if the class is empty. -/
def takeBillet (p req : Nat) (r : PoolRec) (i : Nat) : OpM (Option Nat) := do
  let c ← get
  let x := c.poolSet p
  if r.scratch then
    match findBelow (r.count i) (fun j => (kvGet x.owners (4096 * i + j)).isNone) with
    | none => pure none
    | some j => do
      set (c.setPoolSet p { x with owners := kvPut x.owners (4096 * i + j) req })
      pure (some (r.billet i j))
  else
    let h := (kvGet x.heads i).getD listEnd
    if h == listEnd then pure none
    else do
      let tag ← blockNat (r.area i + 16 * h) 16
      let link ← blockNat (r.billet i h) 8
      let next := bits link 31 0
      if bits tag 17 16 != 0 || bits link 63 32 != h || !(next == listEnd || decide (next < r.count i)) then poolFault stPointer (r.billet i h)
      else do
        update (fun c => c.setPoolSet p { c.poolSet p with heads := kvPut (c.poolSet p).heads i next })
        blockPut (r.area i + 16 * h) (headTag (bits tag 63 32 + 1) 1 req i p)
        pure (some (r.billet i h))

/-- The classes tried in order, from the smallest that fits (R356). -/
def grantFrom (p req : Nat) (r : PoolRec) : List Nat → OpM Grant
  | [] => do
    update (fun c => c.bump (kPool 2))
    pure { status := stQuota, empty := true }
  | i :: rest => do
    let c ← get
    let units := classSize r.scratch i / 2048
    let quota := c.reg (rPoolQuota req)
    if quota != max32 && decide (quota < c.held req + units) then do
      set (c.bump (kPool 1))
      pure { status := stQuota }
    else do
      match ← takeBillet p req r i with
      | none => grantFrom p req r rest
      | some b => do
        update (fun c => (c.setHeld req (c.held req + units)).bump (kPool 0))
        pure { status := stOk, billet := b, cls := i }

/-- grant of R356. -/
def poolGrant (p req bytes : Nat) : OpM Grant := do
  let c ← get
  let x := c.poolSet p
  let r := poolRecOf x.record
  let fit := r.live.filter (fun i => decide (bytes ≤ classSize r.scratch i))
  if !x.enabled || bytes == 0 || fit.isEmpty then pure { status := stFormat } else grantFrom p req r fit

/-- The 16 bytes of a reply (Table 12-4). -/
def grantReply (g : Grant) : List Byte :=
  leBytes 16 (place g.billet 64 0 + place g.status 8 64 + place g.cls 3 72 + place (b2n g.empty) 1 75)

/-- Where a billet address lies: set, class, index (R357). -/
def Core.billetOf (c : Core) (a : Nat) : Option (Nat × Nat × Nat) :=
  (c.pools.sets.filter (fun s => s.2.enabled)).findSome? (fun s =>
    let r := poolRecOf s.2.record
    r.live.findSome? (fun i =>
      let b := r.billet i 0
      if b ≤ a && a < r.areaEnd i && (a - b) % classSize r.scratch i == 0 then some (s.1, i, (a - b) / classSize r.scratch i) else none))

/-- A billet returned to its class (R357); a set that is still initialising has granted none. -/
def poolReturn (req a : Nat) : OpM Unit := do
  let c ← get
  match c.billetOf a with
  | none => poolFault stPointer a
  | some (p, i, j) => do
    let x := c.poolSet p
    let r := poolRecOf x.record
    if !x.ready then poolFault stPointer a
    else if r.scratch then
      if kvGet x.owners (4096 * i + j) != some req then poolFault stPointer a
      else set (c.setPoolSet p { x with owners := kvDel x.owners (4096 * i + j) })
    else do
      let tag ← blockNat (r.area i + 16 * j) 16
      if bits tag 17 16 != 1 || bits tag 15 8 != req then poolFault stPointer a
      else do
        blockPut (r.area i + 16 * j) (headTag (bits tag 63 32) 0 0xFF i p)
        blockPut (r.billet i j) (linkBytes ((kvGet x.heads i).getD listEnd) j)
        update (fun c => c.setPoolSet p { c.poolSet p with heads := kvPut (c.poolSet p).heads i j })
    update (fun c => c.setHeld req (c.held req - classSize r.scratch i / 2048))

/-- Whether a requester or set belongs to another tenant than the sender (R354). -/
def Core.poolForeign (c : Core) (tenant req p : Nat) : Bool :=
  c.twoTenant && (requesterTenant req != tenant || (poolRecOf (c.poolSet p).record).owner != tenant)

/-- The request's reply is written (R356), not keyed (R403). -/
def poolReply (a : Nat) (g : Grant) : OpM Unit := putAny blockWho vcReq a (grantReply g)

/-- A request served (R354 to R356); to a set that is still initialising it waits (R353). -/
def poolServe (tenant record : Nat) : OpM Unit := do
  let c ← get
  let req := bits record 109 104
  let p := bits record 99 96
  let reply := bits record 63 0
  let x := c.poolSet p
  if bits record 127 110 == 0 && bits record 103 100 == 0 && reply % 16 == 0 then pure () else poolFault stFormat
  if x.enabled && c.poolForeign tenant req p || (c.twoTenant && requesterTenant req != tenant) then do
    set (c.bump kKeyRefused)
    poolReply reply { status := stKeyMismatch }
  else if x.enabled && !x.ready then set (c.setPoolSet p { x with waiting := x.waiting ++ [(tenant, record)] })
  else do
    let g ← poolGrant p req (bits record 95 64)
    poolReply reply g

/-- A free served (R354, R357). -/
def poolFreeServe (tenant record : Nat) : OpM Unit := do
  let c ← get
  let req := bits record 69 64
  let a := bits record 63 0
  if bits record 127 70 == 0 then pure () else poolFault stFormat
  let foreign := match c.billetOf a with
    | some (p, _, _) => c.poolForeign tenant req p
    | none => c.twoTenant && requesterTenant req != tenant
  if foreign then refuseKey a else poolReturn req a

/-- A store to the pool request page (R355). -/
def poolStore (tenant off : Nat) (d : List Byte) : OpM Unit :=
  if d.length == 16 && off == 0 then poolServe tenant (leNat d)
  else if d.length == 16 && off == 0x40 then poolFreeServe tenant (leNat d)
  else poolFault stFormat

/-- The end of a set's initialisation (R353): tags and lists written, the set ready, its waiting requests served in order. -/
def poolInit (p : Nat) : OpM Unit := do
  let c ← get
  let r := poolRecOf (c.poolSet p).record
  if r.scratch then pure () else r.live.forM (initClass p r)
  let w := (c.poolSet p).waiting
  let heads := if r.scratch then [] else r.live.map (fun i => (i, 0))
  update (fun c => c.setPoolSet p { c.poolSet p with ready := true, waiting := [], owners := [], heads := heads })
  w.forM (fun q => do
    senseWord (.queue (qPool p)) 0
    poolServe q.1 q.2)

/-- Pool faults of no operation of a Lesson: Table 16-3 names no class for them, so the class is a free value from 1 to 11
(entry 17). -/
def Core.runPool (c : Core) (op : OpM Unit) : Core :=
  let (w, c) := match freshWord.run c with
    | .ok w c => (w.toNat, c)
    | .error _ c => (0, c)
  c.runBlock (1 + w % 11) 0xFFFF 0 op

/-- Key refusals of a stored free are a notice to the sender outside this device (R405); other failures are faults (R357). -/
def Core.runPoolStore (c : Core) (op : OpM Unit) : Core :=
  c.runPool (tryCatch op (fun f => if f.status == stKeyMismatch then pure () else throw f))

/-- POOL_REQUEST. -/
def execPoolRequest (tenant record : Nat) (s : State) : Host.Outcome State Fault Refusal :=
  .next { s with core := s.core.gated (fun c => c.runPoolStore (poolServe tenant record)) }

/-- POOL_FREE. -/
def execPoolFree (tenant record : Nat) (s : State) : Host.Outcome State Fault Refusal :=
  .next { s with core := s.core.gated (fun c => c.runPoolStore (poolFreeServe tenant record)) }

/-- POOL_SET_INIT_DONE; only a set that is initialising can end its initialisation (entry 6). -/
def execPoolSetInitDone (p : Nat) (s : State) : Host.Outcome State Fault Refusal :=
  .next { s with core := s.core.gated (fun c =>
    if (c.poolSet p).enabled && !(c.poolSet p).ready then c.runPool (poolInit p) else c) }

end Sys2Proof.Machine
end

