-- ==== Sys2Proof/Machine/RollCalls.lean ====
section
/-!
DEFINITION. Sys2Proof/Machine/RollCalls.lean: Roll-call contexts (R322 to R330): records, participants, arrivals by generation,
the tree of R324, and the messages between devices.
-/

namespace Sys2Proof.Machine

/-- A context record (Table 11-4). -/
structure CtxRec where
  list : Nat
  listCount : Nat
  unitPath : Nat
  source : Nat
  reduction : Nat
  scope : Nat
  valid : Bool
  deriving DecidableEq, Repr

/-- The record of a context, and whether it keeps Table 11-4. -/
def Core.ctxRec (c : Core) (ctx : Nat) : CtxRec :=
  let n := c.hubNat (c.inForce rRollBase + 64 * ctx) 64
  let src := bits n 39 36
  let sc := bits n 33 32
  let lc := bits n 111 96
  let rsv := bits n 511 192 == 0 && bits n 127 112 == 0 && bits n 79 40 == 0 && bits n 31 0 == 0
  let lst := if sc == 2 then decide (1 ≤ lc) && decide (lc ≤ 32768) else lc == 0 && bits n 191 128 == 0
  { list := bits n 191 128, listCount := lc, unitPath := bits n 95 80, source := src, reduction := bits n 35 34, scope := sc,
    valid := rsv && lst && decide (src ≤ 5) && (src == 0 || bits n 95 80 == 0) && bits n 35 34 != 3 && sc != 3 }

/-- A context's record is read from hub SRAM (R343). -/
def senseCtx (ctx : Nat) : OpM Unit := do
  let c ← get
  senseHub (c.inForce rRollBase + 64 * ctx) 64

/-- A context's state. -/
def Core.rollCtx (c : Core) (ctx : Nat) : RollCtx := spGet {} c.sync.ctxs ctx
def Core.setRollCtx (c : Core) (ctx : Nat) (x : RollCtx) : Core := { c with sync := { c.sync with ctxs := spPut {} c.sync.ctxs ctx x } }

/-- The number under which a local participant's generation count is kept (R325): the host, the Bellows and the other blocks are
one participant each. -/
def Party.key : Party → Nat
  | .hearth h => h
  | .host _ => 128
  | .bellows _ _ => 129
  | .crucible => 130
  | .picker => 131
  | .snapshot => 132

/-- Whether a local participant is one of a context's source (R323). -/
def CtxRec.admits (r : CtxRec) (c : Core) (tenant : Nat) : Party → Bool
  | .hearth h => r.source == 0 && ((c.targets tenant r.unitPath).getD []).contains h
  | .host _ => r.source == 1
  | .bellows _ _ => r.source == 2
  | .crucible => r.source == 3
  | .picker => r.source == 4
  | .snapshot => r.source == 5

/-- The tenant of a context (R314). -/
def Core.ctxTenant (c : Core) (ctx : Nat) : Nat := if c.twoTenant && decide (128 ≤ ctx) then 1 else 0

/-- A SYNC fault of a context (Table 16-3). -/
def syncFault {α : Type} (ctx scope status : Nat) : OpM α := throw { cls := clsSync, status := status, unit := ctx, detail := scope }

/-- The device names that take part in a context, in list order (R324). -/
def ctxNames (r : CtxRec) : OpM (List Nat) := do
  let c ← get
  match r.scope with
  | 0 => pure [c.selfId]
  | 1 => do
    senseJob
    pure c.jobNames
  | _ => do
    let b ← readLocal blockWho r.list (2 * r.listCount)
    pure (unpackCodes 16 r.listCount 0 b)

/-- The names of a context's participants and this device's name among them; a list that does not name it is a fault (R328). -/
def ctxSelf (ctx : Nat) (r : CtxRec) : OpM (List Nat × Nat) := do
  let l ← ctxNames r
  let c ← get
  match c.selfIn l with
  | some me => pure (l, me)
  | none => syncFault ctx r.scope stFormat

/-- Two payloads combined (R326). -/
def rollCombine (red : Nat) (a b : List Byte) : List Byte :=
  match red with
  | 0 => List.zipWith (· ||| ·) a b
  | 1 => packCodes 32 (List.zipWith (fun x y => satAdd 32 x y) (unpackCodes 32 16 0 a) (unpackCodes 32 16 0 b))
  | _ => List.zipWith (fun x y => if x.toNat < y.toNat then y else x) a b

/-- The reduction of payloads; all three reductions have the zero payload as neutral element. -/
def rollReduce (red : Nat) (l : List (List Byte)) : List Byte := l.foldl (rollCombine red) (List.replicate 64 0#8)

/-- The protocol fields of a Roll-call message: form, context, generation, reduction (entry 24). -/
def rollFields (form ctx gen red : Nat) : Nat := form + place ctx 8 8 + place gen 8 16 + place red 2 24

/-- A Roll-call message sent; a missing route is a fault of this device (R393). -/
def sendRoll (form ctx gen red dst : Nat) (payload : List Byte) : OpM Unit := do
  let c ← get
  match c.trySend (packTxn { op := opRollTx, dst := dst, len := 64, tenant := c.ctxTenant ctx } (rollFields form ctx gen red)) vcSync payload with
  | some c => set c
  | none => throw { cls := clsFabric, status := stFormat, unit := dst, detail := opRollTx }

/-- Whether every local participant has arrived for the open generation (R323). -/
def Core.localArrived (c : Core) (ctx : Nat) (r : CtxRec) : Bool :=
  let x := c.rollCtx ctx
  if r.source == 0 then
    let l := (c.targets (c.ctxTenant ctx) r.unitPath).getD []
    !l.isEmpty && l.all (fun h => x.arrived.any (fun a => a.1 == .hearth h))
  else !x.arrived.isEmpty

/-- The device's arrival goes up, or at the root becomes the result and goes down, once its own participants and all its senders
are in (R324). -/
def rollAdvance (ctx : Nat) : OpM Unit := do
  let c ← get
  let r := c.ctxRec ctx
  let x := c.rollCtx ctx
  if x.sentUp || !c.localArrived ctx r then pure ()
  else do
    let (l, me) ← ctxSelf ctx r
    let kids := treeChildren l me
    if !kids.all (fun k => x.remote.any (fun m => m.1 == k)) then pure ()
    else do
      let pay := rollReduce r.reduction (x.arrived.map (fun a => a.2.1) ++ (x.remote.filter (fun m => kids.contains m.1)).map (·.2))
      match treeParent l me with
      | some p => do
        update (fun c => c.setRollCtx ctx { x with sentUp := true })
        sendRoll 0 ctx x.gen r.reduction p pay
      | none => do
        update (fun c => c.setRollCtx ctx { x with sentUp := true, result := some pay })
        kids.forM (fun k => sendRoll 1 ctx x.gen r.reduction k pay)

/-- How an arrival for generation `a` stands at one for `g` open (Table 11-5): counted, held, overrun or ignored. -/
inductive ArrivalCase where
  | counted | held | overrun | ignored
  deriving DecidableEq, Repr

/-- Table 11-5; `now` and `ahead` tell whether the participant has arrived for g and for g + 1. -/
def arrivalCase (g a : Nat) (now ahead : Bool) : ArrivalCase :=
  let d := (a + 256 - g) % 256
  if d == 0 then if now then .ignored else .counted
  else if d == 1 then if ahead then .ignored else .held
  else if d < 128 then .overrun
  else .ignored

/-- An arrival of a local participant (R325): whether it was a duplicate. `wb` is where its result goes. -/
def rollArrive (ctx : Nat) (p : Party) (red : Nat) (explicit : Option Nat) (payload : List Byte) (wb : Nat) : OpM Bool := do
  senseCtx ctx
  let c ← get
  let r := c.ctxRec ctx
  if !r.valid || !r.admits c (c.ctxTenant ctx) p || red != r.reduction then syncFault ctx r.scope stFormat
  else do
    let _ ← ctxSelf ctx r
    let x := c.rollCtx ctx
    let a := explicit.getD (spGet 0 x.counts p.key)
    let same (q : Party) : Bool := q.key == p.key
    let counts := spPut 0 x.counts p.key ((a + 1) % 256)
    match arrivalCase x.gen a (x.arrived.any (fun q => same q.1)) (x.held.any (fun q => same q.1)) with
    | .counted => do
      update (fun c => c.setRollCtx ctx { x with counts := counts, arrived := x.arrived ++ [(p, payload, wb)] })
      rollAdvance ctx
      pure false
    | .held => do
      update (fun c => (c.setRollCtx ctx { x with counts := counts, held := x.held ++ [(p, payload, wb, a)] }).bump (kSyn 1))
      pure false
    | .overrun => syncFault ctx r.scope stRollOverrun
    | .ignored => do
      update (fun c => c.bump (kSyn 2))
      pure true

/-- An arrival at a context that a tenant's work names: the other tenant's is refused (R314). -/
def rollArriveAs (tenant ctx : Nat) (p : Party) (red : Nat) (explicit : Option Nat) (payload : List Byte) (wb : Nat) : OpM Bool := do
  let c ← get
  if c.twoTenant && c.ctxTenant ctx != tenant then refuseKey 0 opRollTx else rollArrive ctx p red explicit payload wb

/-- An arrival message of another device (R325, R328). -/
def rollMessage (f : RollMsg) : OpM Unit := do
  senseCtx f.ctx
  let c ← get
  let r := c.ctxRec f.ctx
  if !r.valid || f.red != r.reduction then syncFault f.ctx r.scope stFormat
  else do
    let (l, _) ← ctxSelf f.ctx r
    if r.scope == 0 || !l.contains f.sender then syncFault f.ctx r.scope stFormat
    else
      let x := c.rollCtx f.ctx
      let isIn (m : List (Nat × List Byte)) : Bool := m.any (fun q => q.1 == f.sender)
      match arrivalCase x.gen f.gen (isIn x.remote) (isIn x.remoteHeld) with
      | .counted => do
        update (fun c => c.setRollCtx f.ctx { x with remote := x.remote ++ [(f.sender, f.payload)] })
        rollAdvance f.ctx
      | .held => update (fun c => (c.setRollCtx f.ctx { x with remoteHeld := x.remoteHeld ++ [(f.sender, f.payload)] }).bump (kSyn 1))
      | .overrun => syncFault f.ctx r.scope stRollOverrun
      | .ignored => update (fun c => c.bump (kSyn 2))

/-- A result that comes down the tree (R324, R327, R328): forwarded to this device's senders and kept for its own participants. -/
def rollResult (f : RollMsg) : OpM Unit := do
  senseCtx f.ctx
  let c ← get
  let r := c.ctxRec f.ctx
  if !r.valid then syncFault f.ctx r.scope stFormat
  else do
    let (l, me) ← ctxSelf f.ctx r
    let x := c.rollCtx f.ctx
    if treeParent l me != some f.sender || f.gen != x.gen then syncFault f.ctx r.scope stFormat
    else do
      update (fun c => c.setRollCtx f.ctx { x with result := some f.payload })
      (treeChildren l me).forM (fun k => sendRoll 1 f.ctx f.gen r.reduction k f.payload)

/-- Whether a generation can close: its result is here and every local participant is in it (R327). -/
def Core.rollReady (c : Core) (ctx : Nat) : Bool := (c.rollCtx ctx).result.isSome && c.localArrived ctx (c.ctxRec ctx)

/-- Generation g closes and g + 1 opens with what was held for it (R325, R327). -/
def rollClose (ctx : Nat) : OpM Unit := do
  senseCtx ctx
  let c ← get
  let x := c.rollCtx ctx
  let y : RollCtx := { gen := (x.gen + 1) % 256, counts := x.counts, arrived := x.held.map (fun h => (h.1, h.2.1, h.2.2.1)),
                       remote := x.remoteHeld }
  set ((c.setRollCtx ctx y).bump (kSyn 0))
  rollAdvance ctx

/-- Whether a message names a context of the other tenant (R314); generation 1 carries no tenant (R421). -/
def Core.rollForeign (c : Core) (port : Nat) (f : RollMsg) : Bool :=
  c.twoTenant && c.ctxTenant f.ctx != (if c.route.gen1.contains port then 0 else f.tenant)

/-- Whether a generation is open with an arrival seen and has not closed (R329). -/
def Core.rollOpen (c : Core) (ctx : Nat) : Bool :=
  let x := c.rollCtx ctx
  !x.arrived.isEmpty || !x.remote.isEmpty

/-- The descriptors behind a local participant of a Roll call (R507). -/
def Core.partyOrigins (c : Core) (p : Party) : List Origin :=
  match p with
  | .hearth h => (c.hearth h).runOf.toList
  | .host o => [o]
  | .bellows epoch _ => (c.bellows.batches.filter (fun b => b.epoch == epoch)).flatMap Batch.origins
  | .crucible => c.crucible.origin.toList
  | .picker => c.crucible.origin.toList
  | .snapshot => c.snap.origin.toList

/-- ROLL_CALL_TIMEOUT (R329); it cannot happen to a context that has seen no arrival (entry 6). -/
def execRollCallTimeout (ctx : Nat) (s : State) : Host.Outcome State Fault Refusal :=
  .next { s with core := s.core.gated (fun c =>
    if c.rollOpen ctx then
      c.raise { cls := clsSync, status := stTimeout, unit := ctx, detail := (c.ctxRec ctx).scope, who := (c.rollCtx ctx).arrived.flatMap (fun a => c.partyOrigins a.1) }
    else c) }

end Sys2Proof.Machine
end

