-- ==== Sys2Proof/Machine/Shards.lean ====
section
/-!
DEFINITION. Sys2Proof/Machine/Shards.lean: matrix entries, shard records, rule entries and epoch slots (R275 to R278, R293).
-/

namespace Sys2Proof.Machine

/-- A matrix entry (Table 10-1). -/
structure MatrixEnt where
  gatherList : Nat
  copyBase : Nat
  slotBase : Nat
  slotStride : Nat
  workId : Nat
  tiles : Nat
  cols : Nat
  rows : Nat
  group : Nat
  gatherNodes : Nat
  code : Nat
  rounding : Nat
  blockDim : Nat
  sat : Bool
  shadow : Bool
  wireF32 : Bool
  frozen : Bool
  tieSet : Nat
  tieUse : Nat
  tieUses : Nat
  sparse : Bool
  table : Nat
  rule : Nat
  shard : Nat
  ok : Bool
  deriving DecidableEq, Repr

/-- A matrix entry read from its 1,024 bits, with whether it keeps Table 10-1. -/
def matrixOf (n : Nat) : MatrixEnt :=
  let code := bits n 71 68
  let rnd := bits n 67 66
  let bd := bits n 65 64
  let kind := bits n 37 36
  let cols := bits n 191 160
  let rows := bits n 159 128
  let gn := bits n 84 72
  let rsv := bits n 1023 512 == 0 && bits n 319 288 == 0 && bits n 127 101 == 0
  { gatherList := bits n 511 448, copyBase := bits n 447 384, slotBase := bits n 383 320, slotStride := bits n 287 256,
    workId := bits n 255 224, tiles := bits n 223 192, cols := cols, rows := rows, group := bits n 100 85, gatherNodes := gn,
    code := code, rounding := rnd, blockDim := bd, sat := bit n 63, shadow := bit n 62, wireF32 := bit n 61, frozen := bit n 60,
    tieSet := bits n 59 44, tieUse := bits n 43 41, tieUses := bits n 40 38, sparse := kind == 1, table := bits n 35 28,
    rule := bits n 27 20, shard := bits n 19 0,
    ok := rsv && decide (1 ≤ code) && decide (code ≤ 9) && decide (rnd < 3) && decide (bd < 2) && decide (kind < 2) &&
      decide (1 ≤ cols) && decide (cols ≤ 65536) && decide (1 ≤ rows) && decide (gn ≤ 4096) &&
      decide (bits n 383 320 % 4096 = 0) && decide (bits n 43 41 ≤ bits n 40 38) }

/-- A shard record (Table 10-2). -/
structure ShardRec where
  digest : Nat
  seed : Nat
  list : Nat
  lastStep : Nat
  count : Nat
  ctx : Nat
  state : Nat
  epoch : Nat
  owners : List Nat
  deriving DecidableEq, Repr

/-- A shard record read from its 512 bits. -/
def shardOf (n : Nat) : ShardRec :=
  { digest := bits n 447 384, seed := bits n 383 320, list := bits n 319 256, lastStep := bits n 223 192, count := bits n 163 144,
    ctx := bits n 143 136, state := bits n 134 132, epoch := bits n 131 131,
    owners := (List.range (bits n 130 128 + 1)).map (fun i => bits n (16 * i + 15) (16 * i)) }

/-- The address of a shard record. -/
def Core.shardAt (c : Core) (id : Nat) : Nat := c.inForce rShardBase + 64 * id

/-- A shard record read. -/
def readShard (id : Nat) : OpM ShardRec := do
  let c ← get
  let n ← blockNat (c.shardAt id) 64
  pure (shardOf n)

/-- The fields of a shard record that the Crucible writes, in place (Table 10-2). -/
def writeShard (id : Nat) (digest lastStep state epoch : Nat) : OpM Unit := do
  let c ← get
  let n ← blockNat (c.shardAt id) 64
  let cut (n hi lo v : Nat) : Nat := n - (bits n hi lo) <<< lo + place v (hi + 1 - lo) lo
  let n := cut (cut (cut (cut n 447 384 digest) 223 192 lastStep) 134 132 state) 131 131 epoch
  blockPut (c.shardAt id) (leBytes 64 n)

/-- A rule entry (Table 10-4). -/
structure RuleEnt where
  c3 : Word32
  interval : Nat
  root : Nat
  iters : Nat
  op : Nat
  c2 : Word32
  c1 : Word32
  c0 : Word32
  wd : Word32
  eps : Word32
  beta2 : Word32
  beta1 : Word32
  lr : Word32
  rsvOk : Bool
  deriving DecidableEq, Repr

/-- A rule entry read from its 512 bits. -/
def ruleOf (n : Nat) : RuleEnt :=
  let w (lo : Nat) : Word32 := BitVec.ofNat 32 (n >>> lo)
  { c3 := w 288, interval := bits n 279 268, root := bits n 267 264, iters := bits n 263 260, op := bits n 259 256, c2 := w 224,
    c1 := w 192, c0 := w 160, wd := w 128, eps := w 96, beta2 := w 64, beta1 := w 32, lr := w 0,
    rsvOk := bits n 511 320 == 0 && bits n 287 280 == 0 }

/-- The rule entry of a number (R293). -/
def Core.rule (c : Core) (r : Nat) : RuleEnt := ruleOf (c.hubNat (c.inForce rRuleBase + 64 * r) 64)

/-- A rule entry read, its words checked against the code (R343). -/
def readRule (r : Nat) : OpM RuleEnt := do
  let c ← get
  senseHub (c.inForce rRuleBase + 64 * r) 64
  pure (c.rule r)

/-- Whether a rule entry keeps Tables 10-4 and 10-5 for a matrix. -/
def RuleEnt.ok (r : RuleEnt) (m : MatrixEnt) : Bool :=
  let z (w : Word32) : Bool := w == 0#32
  let epsOk : Bool := FV.lt .zero (f32V r.eps)
  let noRoot : Bool := r.interval == 0 && r.root == 0
  let noC : Bool := z r.c0 && z r.c1 && z r.c2 && z r.c3
  r.rsvOk && match r.op with
    | 1 => noRoot && noC && r.iters == 0 && z r.beta2 && z r.eps
    | 2 => noRoot && noC && r.iters == 0 && epsOk
    | 3 => noRoot && z r.beta2 && epsOk && decide (1 ≤ r.iters) && !m.sparse && decide (min m.rows m.cols ≤ 8192)
    | 4 => noC && epsOk && decide (1 ≤ r.iters) && !m.sparse && decide (m.rows ≤ 8192) && decide (m.cols ≤ 8192) &&
        (r.root == 2 || r.root == 4) && decide (1 ≤ r.interval)
    | _ => false

/-- The format of a matrix's working copy. -/
def MatrixEnt.fmt (m : MatrixEnt) : Fmt := (fmtOfCode m.code).getD .fp32

/-- MX blocks of a plane of the matrix's shape. -/
def MatrixEnt.blocks (m : MatrixEnt) : Nat := if m.blockDim == 0 then m.rows * ceilDiv m.cols 32 else ceilDiv m.rows 32 * m.cols

/-- Sizes of the planes of an epoch slot before the work plane (Table 10-3): master, m, then v, or the statistics and roots. -/
def MatrixEnt.statePlanes (m : MatrixEnt) (op : Nat) : List Nat :=
  let n := 4 * (m.rows * m.cols)
  [n, n] ++ (if op == 2 then [n] else []) ++
    (if op == 4 then [4 * (m.rows * m.rows), 4 * (m.cols * m.cols), 4 * (m.rows * m.rows), 4 * (m.cols * m.cols)] else [])

/-- Sizes of the planes of the image: the work plane with its scales, the shadow with its scales (Table 10-3). -/
def MatrixEnt.imagePlanes (m : MatrixEnt) : List Nat :=
  let n := m.rows * m.cols
  [ceilDiv (n * m.fmt.elemBits) 8] ++ (if m.fmt.isMx then [m.blocks] else []) ++ (if m.shadow then [ceilDiv (n * 4) 8, m.blocks] else [])

/-- Offsets of planes laid from an offset on, each from the first 4 KiB boundary at or after the end of the one before, and the end
of the last. -/
def planeOffsets (start : Nat) (sizes : List Nat) : List Nat × Nat :=
  sizes.foldl (fun (acc : List Nat × Nat) n => (acc.1 ++ [roundUp acc.2 4096], roundUp acc.2 4096 + n)) ([], start)

/-- Offsets of the state planes, the start of the image, and the end of the slot. -/
def MatrixEnt.layout (m : MatrixEnt) (op : Nat) : List Nat × Nat × Nat :=
  let (st, e) := planeOffsets 64 (m.statePlanes op)
  let (im, e2) := planeOffsets e m.imagePlanes
  (st, im.headD 0, e2)

/-- Whether a matrix entry keeps what Table 10-1 says of it by other settings: no slot address off the owners, a slot that holds the planes of Table 10-3
(a later use of a tied set has none, R288), and for SPARSE the rows of its hash table where this device has that table. -/
def Core.matrixFits (c : Core) (m : MatrixEnt) (owner : Bool) : Bool :=
  (owner || m.slotBase == 0) && (m.tieUses != 0 && m.tieUse != 0 || decide ((m.layout (c.rule m.rule).op).2.2 ≤ m.slotStride * 4096)) &&
    (!m.sparse || match c.hashSetting m.table with | some (rows, _) => rows == m.rows | none => true)

/-- A matrix entry read; one that breaks Table 10-1 is a fault (R275). -/
def readMatrix (id : Nat) : OpM MatrixEnt := do
  let c ← get
  let n ← blockNat (c.inForce rMatrixBase + 128 * id) 128
  let m := matrixOf n
  require m.ok stFormat
  let s ← readShard m.shard
  require (c.matrixFits m (s.owners.any c.isSelf)) stFormat
  pure m

/-- The matrix ids of a shard, in shard order. -/
def shardMatrices (s : ShardRec) : OpM (List Nat) := do
  let b ← readLocal blockWho s.list (4 * s.count)
  pure (unpackCodes 32 s.count 0 b)

/-- Bytes of a matrix's image. -/
def MatrixEnt.imageBytes (m : MatrixEnt) (op : Nat) : Nat := let (_, a, e) := m.layout op; e - a

/-- The address of an epoch slot (Table 10-1). -/
def MatrixEnt.slotAt (m : MatrixEnt) (epoch : Nat) : Nat := m.slotBase + epoch * (m.slotStride * 4096)

/-- Whether a matrix carries a slot: every one but the later uses of a tied set (R288). -/
def MatrixEnt.leads (m : MatrixEnt) : Bool := m.tieUses == 0 || m.tieUse == 0

/-- Whether this device is one of a shard's owners, and which. -/
def Core.ownerIndex (c : Core) (s : ShardRec) : Option Nat := s.owners.findIdx? c.isSelf

/-- The bytes of a matrix's image as this device holds it: an owner from the committed slot, another device from its copy (R301). -/
def readImage (s : ShardRec) (m : MatrixEnt) : OpM (List Byte) := do
  let c ← get
  let op := (c.rule m.rule).op
  let (_, a, e) := m.layout op
  if (c.ownerIndex s).isSome then readLocal blockWho (m.slotAt s.epoch + a) (e - a)
  else readLocal blockWho m.copyBase (e - a)

/-- The weight image of an expert (R208, R211; entry 26): the images of its shard's matrices in shard order. -/
def expertImage (layer expert weightBytes : Nat) : OpM (List Byte) := do
  let s ← readShard (Config.freeShard layer expert)
  let ids ← shardMatrices s
  let parts ← ids.mapM (fun id => do
    let m ← readMatrix id
    if m.leads then readImage s m else pure [])
  pure ((parts.flatten ++ List.replicate weightBytes 0#8).take weightBytes)

/-- Whether a step comes before every step that the device has begun in this job (R68). -/
def Core.beforeFirst (c : Core) (step : Nat) : Bool :=
  c.crucible.lastDone.isNone &&
    (if c.crucible.phase == .idle then !c.picker.stepKnown || decide (step < c.picker.pickStep) else decide (step < bits c.crucible.record 31 0))

/-- Whether the expert's matrices are finished for a step (R211, R301). A later use of a tied set has no image to gather (R288); after a RESTORE every
matrix stands as the restored step left it (R462). -/
def expertFinished (layer expert step : Nat) : OpM Bool := do
  let c ← get
  let s ← readShard (Config.freeShard layer expert)
  if (c.ownerIndex s).isSome then pure (decide (step ≤ s.lastStep))
  else if c.beforeFirst step || (match c.crucible.quenched with | some t => decide (step ≤ t) | none => false) ||
      (match c.crucible.restored with | some t => decide (step ≤ t) | none => false) then pure true
  else do
    let ids ← shardMatrices s
    let own ← ids.filterM (fun id => do
      let m ← readMatrix id
      pure m.leads)
    pure (own.all (fun id => match kvGet c.crucible.finished id with | some t => decide (step ≤ t) | none => false))

end Sys2Proof.Machine
end

