-- ==== Sys2Proof/Machine/Bellows.lean ====
section
/-!
DEFINITION. Sys2Proof/Machine/Bellows.lean: expert dispatch (R192 to R227) and the backward batches (R252 to R264).
-/

namespace Sys2Proof.Machine

/-! Records. -/

/-- A batch record (Table 7-1). -/
structure BatchRec where
  gradOut : Nat
  grad : Nat
  answerTally : Nat
  postedTally : Nat
  outBase : Nat
  tokenBase : Nat
  tokenStride : Nat
  tokenCount : Nat
  rollCtx : Nat
  workerPath : Nat
  target : Nat
  guestRing : Nat
  localRing : Nat
  runahead : Bool
  kind : Nat
  layer : Nat
  microBatch : Nat
  step : Nat
  rsvOk : Bool
  deriving DecidableEq, Repr

/-- A batch record read from its low 512 bits. -/
def batchRecOf (n : Nat) : BatchRec :=
  { gradOut := bits n 511 448, grad := bits n 447 384, answerTally := bits n 351 336, postedTally := bits n 335 320,
    outBase := bits n 319 256, tokenBase := bits n 255 192, tokenStride := bits n 191 160, tokenCount := bits n 159 128,
    rollCtx := bits n 119 112, workerPath := bits n 111 96, target := bits n 95 80, guestRing := bits n 75 74,
    localRing := bits n 73 72, runahead := bit n 68, kind := bits n 67 64, layer := bits n 63 48, microBatch := bits n 47 32,
    step := bits n 31 0,
    rsvOk := bits n 383 352 == 0 && bits n 127 120 == 0 && bits n 79 76 == 0 && bits n 71 69 == 0 &&
      (bits n 67 64 == 2 || (bits n 511 448 == 0 && bits n 447 384 == 0)) && (bits n 67 64 != 1 || bits n 95 80 == 0) }

/-- A layer entry (Table 7-2). -/
structure LayerEnt where
  counterBase : Nat
  guestRows : Nat
  guestBase : Nat
  listRegion : Nat
  planOffset : Nat
  lodgeSlots : Nat
  lodgeBase : Nat
  answerBytes : Nat
  tokenBytes : Nat
  weightBytes : Nat
  capacity : Nat
  prefetchMax : Nat
  concMin : Nat
  concFrac : Nat
  pullRatio : Nat
  concOff : Bool
  strict : Bool
  itemRows : Nat
  experts : Nat
  deriving DecidableEq, Repr

/-- Layer entry i as hub SRAM holds it (R196). -/
def Core.layer (c : Core) (i : Nat) : LayerEnt :=
  let n := c.hubNat (c.inForce rLayerBase + 128 * i) 128
  { counterBase := bits n 639 576, guestRows := bits n 575 544, guestBase := bits n 511 448, listRegion := bits n 447 384,
    planOffset := bits n 383 352, lodgeSlots := bits n 335 320, lodgeBase := bits n 319 256, answerBytes := bits n 255 224,
    tokenBytes := bits n 223 192, weightBytes := bits n 167 128, capacity := bits n 127 96, prefetchMax := bits n 87 80,
    concMin := bits n 79 64,
    concFrac := if bits n 63 48 == 0 then c.reg rConcFrac else bits n 63 48,
    pullRatio := if bits n 47 32 == 0 then c.reg rPullRatio else bits n 47 32,
    concOff := bit n 28, strict := bit n 27, itemRows := max 1 (bits n 26 16), experts := bits n 15 0 }

/-- A layer entry read by the Bellows: its words are checked (R343). -/
def senseLayer (i : Nat) : OpM Unit := do
  let c ← get
  senseHub (c.inForce rLayerBase + 128 * i) 128

/-- Bytes of a Lodge slot and of a guest row (R196, R213). -/
def LayerEnt.slotBytes (l : LayerEnt) : Nat := roundUp l.weightBytes 4096
def LayerEnt.guestBytes (l : LayerEnt) : Nat := roundUp (l.tokenBytes + l.answerBytes) 64
/-- Address of a guest row. -/
def LayerEnt.guestAt (l : LayerEnt) (row : Nat) : Nat := l.guestBase + row * l.guestBytes

/-! Batches. -/

def Batch.rec' (b : Batch) : BatchRec := batchRecOf b.record
def Backward.rec' (b : Backward) : BatchRec := batchRecOf b.record

/-- A live batch of an epoch. -/
def Core.batch (c : Core) (e : Nat) : Option Batch := c.bellows.batches.find? (fun b => b.epoch == e)
def Core.setBellows (c : Core) (x : Bellows) : Core := { c with bellows := x }
def Core.modBellows (c : Core) (f : Bellows → Bellows) : Core := { c with bellows := f c.bellows }
def Core.modBatch (c : Core) (e : Nat) (f : Batch → Batch) : Core :=
  c.modBellows (fun x => { x with batches := modFirst (fun b => b.epoch == e) f x.batches })
def Core.modBackward (c : Core) (e : Nat) (f : Backward → Backward) : Core := c.modBatch e (fun b => { b with bwd := b.bwd.map f })

/-- The class, unit, detail, address and step of a Bellows fault (Table 16-3). -/
def bellowsFault {α : Type} (layer kind addr step : Nat) (op : OpM α) : OpM α :=
  tryCatch op (fun f => throw (if f.cls == 0 || f.cls == clsAlways then
    { cls := clsDispatch, status := f.status, unit := layer, detail := kind, addr := addr, step := step } else f))

/-- A device block's work set off by a store: its fault is the device's, and the store itself has been taken. -/
def asBlock (cls unit detail : Nat) (op : OpM Unit) : OpM Unit :=
  tryCatch op (fun f => if f.cls == clsHold then throw f else update (fun c => c.raise (f.filled cls unit detail)))

/-- An operation of a batch whose failure is a Bellows fault of that batch. -/
def forBatch {α : Type} (b : Batch) (op : OpM α) : OpM α := blame b.origins (bellowsFault b.rec'.layer 1 b.recAddr b.rec'.step op)

/-! The seating plan (R201, R202). -/

/-- Address of a bank (R201). -/
def Core.planBank (c : Core) (k : Nat) : Nat := c.inForce rPlanBase + k * c.inForce rPlanBankBytes

/-- The replica table: from the first 64-byte boundary after the last layer section of a bank (R201). -/
def Core.replicaTable (c : Core) (bank : Nat) : Nat :=
  c.planBank bank +
    roundUp ((List.range 1024).foldl (fun m i => let l := c.layer i; if l.experts == 0 then m else max m (l.planOffset + 12 * l.experts)) 0) 64

/-- holder of R202 over the candidates in order. -/
def holderOf (h : List Nat) (self : Nat) : Nat :=
  let node (x : Nat) : Nat := (x >>> 3) % 2 ^ 11
  let plane (x : Nat) : Bool := bit x 14
  let rot := let s := self % 2 ^ 14 % h.length; h.drop s ++ h.take s
  if h.contains self then self
  else match h.find? (fun x => plane x == plane self && node x == node self) with
    | some x => x
    | none => match rot.find? (fun x => plane x == plane self) with
      | some x => x
      | none => rot.headD 0

/-- The holder that this device uses for an expert under the plan of a bank (R202, R204). -/
def Core.holder (c : Core) (bank : Nat) (l : LayerEnt) (e : Nat) : Nat :=
  let n := c.hubNat (c.planBank bank + l.planOffset + 8 * e) 8
  let reps := (List.range (bits n 18 16)).map (fun i => c.hubNat (c.replicaTable bank + 2 * (bits n 63 32 + i)) 2)
  holderOf (bits n 15 0 :: reps) c.selfName

/-- This device's resident index of an expert (R201). -/
def Core.resident (c : Core) (bank : Nat) (l : LayerEnt) (e : Nat) : Nat :=
  c.hubNat (c.planBank bank + l.planOffset + 8 * l.experts + 4 * e) 4

/-- An expert's plan entry and resident index read by the Bellows: their words are checked (R343). -/
def sensePlan (bank : Nat) (l : LayerEnt) (e : Nat) : OpM Unit := do
  let c ← get
  senseHub (c.planBank bank + l.planOffset + 8 * e) 8
  senseHub (c.planBank bank + l.planOffset + 8 * l.experts + 4 * e) 4

/-! Billets of lists (R207, R359). -/

/-- A billet of at least some bytes from the tenant's enabled set at the layer's list region; a refusal is a failure with its status
(R208). A set that is still initialising is waited for. That a list larger than the largest class fails with ST_FORMAT is the model's choice (entry 147). -/
def listBillet (tenant : Nat) (l : LayerEnt) (bytes : Nat) : OpM Nat := do
  let c ← get
  match c.pools.sets.find? (fun s =>
    let r := poolRecOf s.2.record
    s.2.enabled && !r.scratch && r.base == l.listRegion && (!c.twoTenant || r.owner == tenant)) with
  | none => failWith stPointer
  | some (p, x) => do
    if x.ready then pure () else poolInit p
    let g ← poolGrant p tenant bytes
    if g.status == stOk then pure g.billet else failWith g.status

/-- Bytes of a list of n pairs (R207, R360). -/
def listBytes (n : Nat) : Nat := roundUp (64 + 4 * n) 64 + 16 * n
/-- Offset of the entry plane of a list of n pairs. -/
def entryPlane (n : Nat) : Nat := roundUp (64 + 4 * n) 64

/-- A list header (Table 7-7). -/
def listHeader (outRow holder epoch step layer decision n lodge expert : Nat) : List Byte :=
  leBytes 64 (place expert 16 0 + place lodge 16 16 + place n 32 32 + place decision 4 64 + place layer 16 80 + place step 32 96
    + place epoch 16 128 + place holder 16 144 + place outRow 32 160)

/-- A list entry (Table 7-7). -/
def listEntry (returnRow weight origin slot token : Nat) : List Byte :=
  leBytes 16 (place token 32 0 + place slot 8 32 + place origin 16 48 + place weight 32 64 + place returnRow 32 96)

/-- Decision codes of a list header. -/
def dcResident : Nat := 1
def dcLodge : Nat := 2
def dcPull : Nat := 3
def dcPush : Nat := 4
def dcGuest : Nat := 5

/-- A local or pushed list written into its billet (R207). -/
def writeList (b : Batch) (t : TokenList) : OpM Unit := do
  let c ← get
  let n := t.pairs.length
  let r := b.rec'
  blockPut t.billet (listHeader t.outRow t.holder b.epoch r.step r.layer t.decision n t.lodge t.expert)
  blockPut (t.billet + 64) (t.pairs.flatMap (fun p => leBytes 4 p.token))
  blockPut (t.billet + entryPlane n)
    ((t.pairs.mapIdx (fun i p => listEntry (t.outRow + i) p.weight c.selfName p.slot p.token)).flatten)

/-! Load records (R226). -/

/-- A load record changed by a function of (now, prev, guests, pulls, pushes). -/
def modLoad (l : LayerEnt) (e : Nat) (f : Nat × Nat × Nat × Nat × Nat → Nat × Nat × Nat × Nat × Nat) : OpM Unit := do
  let n ← blockNat (l.counterBase + 16 * e) 16
  let (a, b, g, p, q) := f (bits n 31 0, bits n 63 32, bits n 95 64, bits n 111 96, bits n 127 112)
  blockPut (l.counterBase + 16 * e) (leBytes 16 (place a 32 0 + place b 32 32 + place g 32 64 + place p 16 96 + place q 16 112))

/-! Frames of the Bellows. -/

/-- A row or image sent as frames of at most 4,096 bytes, each with its offset in the address field; a missing route is a fault (R393;
entry 24). -/
def sendBlock (op dst tag fields : Nat) (data : List Byte) : OpM Unit :=
  ((chunks 4096 data).mapIdx (fun i d => (4096 * i, d))).forM (fun (p : Nat × List Byte) => do
    let c ← get
    match c.trySend (packTxn { op := op, dst := dst, addr := p.1, tag := tag, len := max 1 p.2.length } fields) (channelOf op) p.2 with
    | some c => set c
    | none => throw { cls := clsFabric, status := stFormat, unit := dst, detail := op, addr := p.1 })

/-- The header fields of a token or output-gradient row (R213; entry 24): a gradient row's weight goes before its bytes. -/
def tokenFields (f : TokenF) : Nat :=
  place f.layer 16 0 + place f.step 32 16 + place f.microBatch 16 48 + place f.expert 16 64 + place f.origin 16 80 + place f.epoch 16 96
    + place f.revision 32 112 + place f.returnRow 32 144 + place (b2n f.backward) 1 176

/-- A pull request's fields (R211; entry 24). -/
def pullFields (f : PullF) : Nat :=
  place f.layer 16 0 + place f.expert 16 16 + place f.step 32 32 + place f.revision 32 64 + place f.requester 16 96
    + place f.epoch 16 112 + place f.slot 16 128

/-- An answer's fields (R214; entry 24). -/
def answerFields (epoch returnRow : Nat) (backward : Bool) : Nat := place epoch 16 0 + place returnRow 32 16 + place (b2n backward) 1 48

/-- A granule's fields (R212; entry 24). -/
def granuleFields (layer slot epoch index : Nat) : Nat := place layer 16 0 + place slot 16 16 + place epoch 16 32 + place index 32 48

/-- A pull request sent to the holder, timed until its granules have come (R211, R418). -/
def sendPull (f : PullF) (holder : Nat) : OpM Unit := do
  let c ← get
  let t : Txn := packTxn { op := opPull, dst := holder, tag := c.fabric.nextTag } (pullFields f)
  match c.trySend t vcReq [] with
  | none => throw { cls := clsFabric, status := stFormat, unit := holder, detail := opPull }
  | some c =>
    let fr : Frame := { txn := { t with src := c.srcName holder }, data := [], hops := c.reg rHopLimit, vc := vcReq }
    let q : OutReq := { tag := t.tag, dst := holder, frame := fr, actor := .block, use := .pull f.epoch }
    set { c with fabric := { c.fabric with out := c.fabric.out ++ [q], nextTag := (t.tag + 1) % 2 ^ 16 } }

/-- The notice that a block-protocol frame is answered with: a refusal (R205), or its delivery, for which its sender fences (R215, R319, R321; entry
71). -/
def Core.answerFrame (c : Core) (dst tag op status : Nat) : Core :=
  c.sendOrFault { op := opDone, dst := dst, tag := tag, status := status, opndA := op } vcRsp []

/-- The code of a row's op in its notice: which side of a batch it belongs to. -/
def rowOp (backward : Bool) : Nat := opToken + 256 * b2n backward

/-! The Lodge (R210). -/

/-- The step that the layer's records last named. -/
def Core.layerNow (c : Core) (layer : Nat) : Option (Nat × Nat × Nat) := (c.bellows.layerStep.find? (fun p => p.1 == layer)).map (·.2)

/-- Whether a live batch refers to a Lodge slot. -/
def Core.lodgeUsed (c : Core) (layer slot : Nat) : Bool :=
  c.bellows.batches.any (fun b => b.rec'.layer == layer &&
    b.lists.any (fun t => (t.decision == dcLodge || t.decision == dcPull) && t.lodge == slot))

/-- Whether a request is the pull of a Lodge slot. -/
def OutReq.pullsInto (q : OutReq) (s : LodgeSlot) : Bool := q.use == .pull s.epoch && q.frame.txn.opndB % 2 ^ 16 == s.slot

/-- Slots made FREE: what still comes for them is Slag, and nothing waits for it any more (R210, R220). -/
def Core.freeLodge (c : Core) (p : LodgeSlot → Bool) : Core :=
  let gone := c.bellows.lodge.filter p
  { c.modBellows (fun x => { x with lodge := x.lodge.filter (fun s => !p s) }) with
    fabric := { c.fabric with out := c.fabric.out.filter (fun q => !gone.any q.pullsInto) } }

/-- The slots of a layer freed whose step is not the layer's and to which no live batch refers (R210). -/
def Core.lodgePurge (c : Core) (layer : Nat) : Core :=
  let now := (c.layerNow layer).map (·.1)
  c.freeLodge (fun s => s.layer == layer && some s.step != now && !c.lodgeUsed layer s.slot)

/-- lodge_find (R210). -/
def Core.lodgeFind (c : Core) (layer expert step : Nat) : Option LodgeSlot :=
  c.bellows.lodge.find? (fun s => s.layer == layer && s.expert == expert && s.step == step)

/-- lodge_alloc: the lowest free slot (R210). -/
def Core.lodgeFree (c : Core) (layer : Nat) (l : LayerEnt) : Option Nat :=
  findBelow l.lodgeSlots (fun i => !c.bellows.lodge.any (fun s => s.layer == layer && s.slot == i))

/-- A Lodge slot changed. -/
def Core.modLodge (c : Core) (layer slot : Nat) (f : LodgeSlot → LodgeSlot) : Core :=
  c.modBellows (fun x => { x with lodge := modFirst (fun s => s.layer == layer && s.slot == slot) f x.lodge })

/-- Granules of an image of the layer. -/
def LayerEnt.granules (l : LayerEnt) : Nat := ceilDiv l.weightBytes 4096

/-- A slot that has every granule is COMPLETE (R212). -/
def LodgeSlot.settled (l : LayerEnt) (s : LodgeSlot) : LodgeSlot :=
  if s.state != 3 && decide (l.granules ≤ s.got.length) then { s with state := 3 } else s

/-- Whether a slot is COMPLETE. -/
def Core.lodgeComplete (c : Core) (layer slot : Nat) : Bool :=
  c.bellows.lodge.any (fun s => s.layer == layer && s.slot == slot && s.state == 3)

/-- wants_pull (R209). -/
def LayerEnt.wantsPull (l : LayerEnt) (n total : Nat) : Bool :=
  n != 0 && (decide (l.weightBytes * l.pullRatio ≤ n * 2 * l.tokenBytes * 256) ||
    (!l.concOff && decide (l.concMin ≤ n) && decide (total * l.concFrac ≤ n * 65536)))

/-- A slot taken for a pull of this device, and its request sent (R209, R219). -/
def startPull (b : Batch) (l : LayerEnt) (expert state : Nat) : OpM (Option Nat) := do
  let c ← get
  let r := b.rec'
  match c.lodgeFree r.layer l with
  | none => pure none
  | some slot => do
    let s : LodgeSlot := { layer := r.layer, slot := slot, state := state, expert := expert, step := r.step, epoch := b.epoch }
    set (c.modBellows (fun x => { x with lodge := x.lodge ++ [s] }))
    sendPull { layer := r.layer, expert := expert, step := r.step, revision := b.revision, requester := c.selfName, epoch := b.epoch,
               slot := slot } (c.holder b.bank l expert)
    pure (some slot)

/-! The Timetable: posting (R216, R217). -/

/-- Entries of a Timetable ring on one die. -/
def ringRoom : Nat := 16384

/-- The key under which a batch counts its items on a ring (R217). -/
def seqKey (epoch : Nat) (backward : Bool) (ring : Nat) : Nat := (epoch * 2 + b2n backward) * 4 + ring

/-- An item's first word (Table 7-9). -/
def itemX8 (kind rows : Nat) (last : Bool) (expert : Nat) : Nat :=
  place expert 16 0 + place (b2n last) 1 16 + place rows 11 17 + place kind 3 28

/-- Rows of an item, and its kind. -/
def Item.rows (i : Item) : Nat := bits i.x8 27 17
def Item.kind (i : Item) : Nat := bits i.x8 30 28

/-- The items of a local list (R216, R255). -/
def listItems (b : Batch) (l : LayerEnt) (c : Core) (t : TokenList) (backward : Bool) : List Item :=
  let n := t.pairs.length
  let w := if t.decision == dcResident then c.resident b.bank l t.expert % 2 ^ 30 else 1 <<< 30 + t.lodge
  ((List.range (ceilDiv n l.itemRows)).map (fun k =>
    let start := k * l.itemRows
    let rows := min l.itemRows (n - start)
    { x8 := itemX8 (if backward then 3 else 1) rows (start + rows == n) t.expert, x9 := (t.billet + 64 - l.listRegion) / 4 + start,
      x10 := w, x11 := t.outRow + start, epoch := b.epoch, guestSeg := false, guests := [], backward := backward,
      layer := b.rec'.layer }))

/-- The order of one posting: rows falling, expert rising, item number rising (R217). -/
def itemOrder (a b : Item) : Bool := b.rows < a.rows || (a.rows == b.rows && bits a.x8 15 0 < bits b.x8 15 0)

/-- Items that wait to be posted on a ring. -/
def Core.queueItems (c : Core) (ring : Nat) (l : List Item) : Core :=
  if l.isEmpty then c
  else { c with tt := { c.tt with waiting := kvPut c.tt.waiting ring ((kvGet c.tt.waiting ring).getD [] ++ l) } }

/-- One waiting item posted, if its ring of its die has room (R217): whether it was. A posting that waits is counted once (R227). -/
def Core.postOne (c : Core) (ring : Nat) : Core × Bool :=
  match (kvGet c.tt.waiting ring).getD [] with
  | [] => (c, false)
  | i :: rest =>
    let k := spGet 0 c.tt.posted (seqKey i.epoch i.backward ring)
    let key := k % 2 * 4 + ring
    let q := (kvGet c.tt.rings key).getD []
    if ringRoom ≤ q.length then
      (if c.tt.fullSeen.contains ring then c else { c.bump (kBlw 6) with tt := { c.tt with fullSeen := ring :: c.tt.fullSeen } }, false)
    else
      let w := if rest.isEmpty then kvDel c.tt.waiting ring else kvPut c.tt.waiting ring rest
      ({ c with tt := { c.tt with waiting := w, fullSeen := c.tt.fullSeen.filter (· != ring), rings := kvPut c.tt.rings key (q ++ [i]),
                                  posted := kvPut c.tt.posted (seqKey i.epoch i.backward ring) (k + 1) } }.bump (kTtPosted (k % 2) ring), true)

/-- Waiting items posted until the ring is full (R217). -/
def Core.postAll (c : Core) (ring : Nat) : Nat → Core
  | 0 => c
  | n + 1 => match c.postOne ring with
    | (c, true) => c.postAll ring n
    | (c, false) => c

/-- Whether a batch still has items waiting to be posted on a segment. -/
def Core.segWaits (c : Core) (epoch : Nat) (backward guest : Bool) : Bool :=
  c.tt.waiting.any (fun w => w.2.any (fun i => i.epoch == epoch && i.backward == backward && i.guestSeg == guest))

/-- Whether a batch has items untaken on a ring, or taken and not retired. -/
def Core.itemsOut (c : Core) (epoch : Nat) : Bool :=
  c.tt.waiting.any (fun w => w.2.any (fun i => i.epoch == epoch)) || c.tt.rings.any (fun w => w.2.any (fun i => i.epoch == epoch)) ||
    c.hearths.any (fun h => h.2.items.any (fun i => i.epoch == epoch))

/-- Local lists whose weights are at hand posted, as one posting (R217). -/
def postLists (epoch : Nat) : OpM Unit := do
  let c ← get
  match c.batch epoch with
  | none => pure ()
  | some b =>
    if b.cancelled then pure ()
    else
      let r := b.rec'
      let l := c.layer r.layer
      let ready (t : TokenList) : Bool := !t.posted && (t.decision == dcResident ||
        ((t.decision == dcLodge || t.decision == dcPull) && c.lodgeComplete r.layer t.lodge))
      let items := (b.lists.filter ready).flatMap (fun t => listItems b l c t false)
      set ((c.queueItems r.localRing (sortBy itemOrder items)).modBatch epoch (fun b =>
        { b with lists := b.lists.map (fun t => if ready t then { t with posted := true } else t) }))

/-! Sealing, deciding and pushing (R206 to R213). -/

/-- The kept pairs of a batch by expert, in ascending expert and (token, slot), and the number dropped by capacity (R206). -/
def keptLists (capacity : Nat) (pairs : List Pair) : List (Nat × List Pair) × Nat :=
  let l := sortBy (fun a b => a.expert < b.expert || (a.expert == b.expert && (a.token < b.token || (a.token == b.token && a.slot < b.slot)))) pairs
  let es := (l.map (·.expert)).eraseDups
  let by' := es.map (fun e => (e, l.filter (fun p => p.expert == e)))
  let cut := by'.map (fun p => (p.1, if capacity == 0 then p.2 else p.2.take capacity))
  (cut, l.length - (cut.map (fun p => p.2.length)).foldl (· + ·) 0)

/-- Every billet that a batch holds freed (R194, R208). -/
def freeBillets (tenant : Nat) (l : List Nat) : OpM Unit := l.forM (fun a => poolReturn tenant a)

/-- A billet for a batch, recorded with it; a refusal frees every billet of the batch first (R208). -/
def batchBillet (epoch : Nat) (l : LayerEnt) (bytes : Nat) : OpM Nat := do
  let c ← get
  match c.batch epoch with
  | none => failWith stFormat
  | some b => do
    let a ← tryCatch (listBillet b.tenant l bytes) (fun f => do
      freeBillets b.tenant b.billets
      update (fun c => c.modBatch epoch (fun b => { b with billets := [] }))
      throw f)
    update (fun c => c.modBatch epoch (fun b => { b with billets := b.billets ++ [a] }))
    pure a

/-- The lists of a sealed batch with their billets and output rows (R207). -/
def buildLists (epoch : Nat) (l : LayerEnt) : Nat → List (Nat × List Pair) → OpM (List TokenList)
  | _, [] => pure []
  | row, (e, ps) :: rest => do
    let a ← batchBillet epoch l (listBytes ps.length)
    let more ← buildLists epoch l (row + ps.length) rest
    pure ({ expert := e, billet := a, pairs := ps, outRow := row, decision := 0, holder := 0, lodge := 0xFFFF } :: more)

/-- The decision of one expert with kept pairs (R209). -/
def decideList (b : Batch) (l : LayerEnt) (total : Nat) (t : TokenList) : OpM TokenList := do
  let r := b.rec'
  sensePlan b.bank l t.expert
  let c ← get
  let h := c.holder b.bank l t.expert
  let want := l.wantsPull t.pairs.length total
  if c.isSelf h then
    if c.resident b.bank l t.expert == 0xFFFFFFFF then failWith stRoleStale
    else pure { t with decision := dcResident, holder := h }
  else
    match c.lodgeFind r.layer t.expert r.step with
    | some s =>
      if 2 ≤ s.state then pure { t with decision := dcLodge, holder := h, lodge := s.slot }
      else if !want then pure { t with decision := dcPush, holder := h }
      else do
        set (c.modLodge r.layer s.slot (fun s => { s with state := 2 }))
        pure { t with decision := dcPull, holder := h, lodge := s.slot }
    | none =>
      if !want then pure { t with decision := dcPush, holder := h }
      else do
        match ← startPull b l t.expert 2 with
        | some slot => pure { t with decision := dcPull, holder := h, lodge := slot }
        | none => do
          update (fun c => c.bump (kBlw 3))
          pure { t with decision := dcPush, holder := h }

/-- Prefetches that the decision of the batch which made them, the first of its step, contradicts are cancelled (R209, R220): how many. -/
def cancelPrefetches (b : Batch) (l : LayerEnt) (total : Nat) (n : Nat → Nat) : OpM Nat := do
  let c ← get
  let r := b.rec'
  let bad (s : LodgeSlot) : Bool := s.layer == r.layer && s.state == 1 && s.epoch == b.epoch && !l.wantsPull (n s.expert) total
  let gone := c.bellows.lodge.filter bad
  let rest := gone.map (fun s =>
    ({ layer := s.layer, slot := s.slot, epoch := s.epoch, holder := c.holder b.bank l s.expert, left := l.granules - s.got.length } : Voided))
  set (((c.freeLodge bad).modBellows (fun x => { x with voided := x.voided ++ rest.filter (fun v => v.left != 0) })).bumpBy (kBlw 1) gone.length)
  pure gone.length

/-- The pushed rows of a batch sent: tokens forward, output gradients backward (R213, R256). -/
def pushRows (b : Batch) (backward : Bool) : OpM Unit :=
  (b.lists.filter (fun t => t.decision == dcPush)).forM (fun t =>
    (t.pairs.mapIdx (fun i p => (t.outRow + i, p))).forM (fun (q : Nat × Pair) => do
      let c ← get
      let r := b.rec'
      let l := c.layer r.layer
      let f : TokenF := { backward := backward, layer := r.layer, step := r.step, microBatch := r.microBatch, expert := t.expert,
                          origin := c.selfName, epoch := b.epoch, revision := b.revision, returnRow := q.1,
                          weight := q.2.weight, data := [] }
      if backward then
        let g := match b.bwd with | some w => w.rec'.grad | none => 0
        let d ← readLocal blockWho (g + q.1 * l.answerBytes) l.answerBytes
        sendBlock opToken t.holder b.epoch (tokenFields f) (leBytes 4 q.2.weight ++ d)
      else
        let d ← readLocal blockWho (r.tokenBase + q.2.token * r.tokenStride) l.tokenBytes
        sendBlock opToken t.holder b.epoch (tokenFields f) d))

/-- Rows that a batch sends in one direction (R213, R256). -/
def Batch.rowsToSend (b : Batch) : Nat := ((b.lists.filter (fun t => t.decision == dcPush)).map (fun t => t.pairs.length)).foldl (· + ·) 0

/-- Answers owed per holder after a push (R419). -/
def owed (b : Batch) : List (Nat × Nat) :=
  (b.lists.filter (fun t => t.decision == dcPush)).foldl (fun m t => kvPut m t.holder (spGet 0 m t.holder + t.pairs.length)) []

/-- A batch seals: lists, decisions, load records, posting, pushing (R206 to R217). -/
def sealBatch (epoch : Nat) : OpM Unit := do
  let c ← get
  match c.batch epoch with
  | none => pure ()
  | some b => forBatch b do
    let r := b.rec'
    let l := c.layer r.layer
    let (kept, dropped) := keptLists l.capacity b.pairs
    let total := (kept.map (fun p => p.2.length)).foldl (· + ·) 0
    update (fun c => (c.lodgePurge r.layer).bumpBy (kBlw 2) dropped)
    let raw ← buildLists epoch l 0 kept
    let cancelled ← cancelPrefetches b l total (fun e => match kvGet kept e with | some ps => ps.length | none => 0)
    let lists ← raw.mapM (decideList b l total)
    let count (d : Nat) : Nat := ((lists.filter (fun t => t.decision == d)).map (fun t => t.pairs.length)).foldl (· + ·) 0
    let pushed := count dcPush
    let b' : Batch := { b with sealed := true, lists := lists, pushed := pushed, dropped := dropped,
                               pulled := (lists.filter (fun t => t.decision == dcPull)).length,
                               prefetchCancelled := b.prefetchCancelled + cancelled }
    update (fun c => c.modBatch epoch (fun b => { b' with billets := b.billets, sent := owed b', rowsOut := b'.rowsToSend }))
    lists.forM (fun t => do
      writeList b' t
      modLoad l t.expert (fun (a, p, g, x, y) =>
        (satAdd 32 a t.pairs.length, p, g, satAdd 16 x (b2n (t.decision == dcPull)), satAdd 16 y (b2n (t.decision == dcPush)))))
    postLists epoch
    pushRows b' false
    if pushed == 0 then do
      update (fun c => c.modBatch epoch (fun b => { b with answerSignalled := true }))
      signalAs (c.originTenant b.origin) r.answerTally 1
    else pure ()

/-- A batch's pending status: the first one recorded stays (R199). -/
def Batch.note (b : Batch) (st : Nat) : Batch := if b.status == 0 then { b with status := st } else b

/-- A router record matched to its batch (R199); the batch seals with its last token. -/
def takeRecord (epoch record : Nat) : OpM Unit := do
  let c ← get
  match c.batch epoch with
  | none => pure ()
  | some b => forBatch b do
    let r := b.rec'
    let l := c.layer r.layer
    let tok := bits record 31 0
    let k := bits record 99 96
    let put (f : Batch → Batch) : OpM Unit := update (fun c => c.modBatch epoch (fun b => { f b with firstSeen := true }))
    if r.tokenCount ≤ tok then do
      put (fun b => { b.note stIndexRange with discarded := b.discarded + 1 })
      update (fun c => c.bump (kBlw 5))
    else if b.arrived.contains tok then do
      put (fun b => { b.note stFormat with discarded := b.discarded + 1 })
      update (fun c => c.bump (kBlw 5))
    else do
      if 8 < k || bits record 127 100 != 0 then put (fun b => { b.note stFormat with arrived := tok :: b.arrived })
      else do
        let ps : List Pair := (List.range k).map (fun i =>
          { token := tok, slot := i, expert := bits record (143 + 16 * i) (128 + 16 * i), weight := bits record (287 + 32 * i) (256 + 32 * i) })
        let bad := ps.any (fun p => decide (l.experts ≤ p.expert))
        if bad && l.strict then failWith stIndexRange
        else put (fun b =>
          let b := if bad then b.note stIndexRange else b
          { b with arrived := tok :: b.arrived, pairs := b.pairs ++ ps.filter (fun p => decide (p.expert < l.experts)) })
      let c ← get
      match c.batch epoch with
      | some b => if b.arrived.length == r.tokenCount && !b.sealed && !b.cancelled then sealBatch epoch else pure ()
      | none => pure ()

/-- The live batch that a router record matches (R198). -/
def Core.recordBatch (c : Core) (record : Nat) : Option Batch :=
  c.bellows.batches.find? (fun b => let r := b.rec'
    r.layer == bits record 95 80 && r.step == bits record 63 32 && r.microBatch == bits record 79 64)

/-- Records that the intake holds (R198). -/
def intakeRoom : Nat := 65536

/-- A whole aligned router record at the intake (R198): matched, or held; where the intake is full, or an earlier record of the same unit is kept back,
it keeps the storing unit back. -/
def intakeRecord (a : Actor) (slot record : Nat) : OpM Unit := do
  let c ← get
  let behind := c.bellows.stalled.any (fun x => x.1 == a && x.2.1 == slot)
  match c.recordBatch record with
  | some b => if behind then set (c.modBellows (fun x => { x with stalled := x.stalled ++ [(a, slot, record)] })) else takeRecord b.epoch record
  | none =>
    if behind || decide (intakeRoom ≤ c.bellows.intake.length) then set (c.modBellows (fun x => { x with stalled := x.stalled ++ [(a, slot, record)] }))
    else set (c.modBellows (fun x => { x with intake := x.intake ++ [record] }))

/-- The records that the intake keeps back offered to it again, the oldest first (R198). -/
def unstall : OpM Unit := do
  let c ← get
  set (c.modBellows (fun x => { x with stalled := [] }))
  c.bellows.stalled.forM (fun x => asBlock clsDispatch 0 0 (intakeRecord x.1 x.2.1 x.2.2))

/-- A store to the intake window: every whole aligned record is taken; any other store is discarded (R198; entry 73). -/
def intakeStore (w : Who) (off : Nat) (d : List Byte) : OpM Unit :=
  if off % 64 == 0 && d.length % 64 == 0 then (chunks 64 d).forM (fun r => asBlock clsDispatch 0 0 (intakeRecord w.actor w.slot (leNat r)))
  else update (fun c => c.bump (kBlw 5))

/-! Guests (R213, R257). -/

/-- Whether a guest belongs to a batch's layer, step and micro-batch. -/
def Guest.of (g : Guest) (r : BatchRec) : Bool := g.layer == r.layer && g.step == r.step && g.microBatch == r.microBatch

/-- The guests of an expert of a batch, in the order of its guest list. -/
def Core.guestList (c : Core) (r : BatchRec) (expert : Nat) : List Guest :=
  sortBy (fun a b => a.arrival < b.arrival) (c.bellows.guests.filter (fun g => g.of r && g.expert == expert && g.joined))

def Core.modGuest (c : Core) (layer row : Nat) (f : Guest → Guest) : Core :=
  c.modBellows (fun x => { x with guests := modFirst (fun g => g.layer == layer && g.row == row) f x.guests })

/-- Bytes of the billet at an address. -/
def Core.billetSize (c : Core) (a : Nat) : Nat :=
  match c.billetOf a with
  | some (p, i, _) => classSize (poolRecOf (c.poolSet p).record).scratch i
  | none => 0

/-- A billet of a batch that holds a guest list of one pair more than `n`: the list's own, or the smallest one that does, where it had none or has
outgrown it. Items posted before keep their gather words in the billet they were posted from, which the batch frees at its end (R207; entry 114). -/
def guestBillet (epoch expert n : Nat) (l : LayerEnt) (old : Option Nat) : OpM Nat := do
  let c ← get
  if old.any (fun a => decide (listBytes (n + 1) ≤ c.billetSize a)) then pure (old.getD 0)
  else do
    let a ← batchBillet epoch l (listBytes (n + 1))
    update (fun c => c.modBatch epoch (fun b => { b with guestLists := kvPut b.guestLists expert a }))
    pure a

/-- A guest joins its expert's guest list (R213): its row in the gather plane, its entry in the entry plane, which moves as the gather plane grows
(R207). Weight, slot and token of the entry are free values, as the row's header does not carry them (entry 17). The list's out_row is 0: the model's
choice (entry 146). -/
def joinGuest (epoch : Nat) (g : Guest) : OpM Unit := do
  let c ← get
  match c.batch epoch with
  | none => pure ()
  | some b => forBatch b do
    let r := b.rec'
    let l := c.layer r.layer
    let n := (c.guestList r g.expert).length
    let old := kvGet b.guestLists g.expert
    let gather ← match old with | some a => readLocal blockWho (a + 64) (4 * n) | none => pure []
    let entries ← match old with | some a => readLocal blockWho (a + entryPlane n) (16 * n) | none => pure []
    let a ← guestBillet epoch g.expert n l old
    let w ← freshWord
    let v ← freshWord
    blockPut a (listHeader 0 c.selfName b.epoch r.step r.layer dcGuest (n + 1) 0xFFFF g.expert)
    blockPut (a + 64) (gather ++ leBytes 4 g.row)
    blockPut (a + entryPlane (n + 1)) (entries ++ listEntry g.returnRow w.toNat g.origin (w.toNat >>> 32) v.toNat)
    update (fun c => c.modGuest g.layer g.row (fun g => { g with joined := true }))

/-- A guest row's items of a chunk (Table 7-9). -/
def guestItem (b : Batch) (l : LayerEnt) (c : Core) (expert billet start : Nat) (gs : List Guest) (last backward : Bool) : Item :=
  { x8 := itemX8 (if backward then 4 else 2) gs.length last expert, x9 := (billet + 64 - l.listRegion) / 4 + start,
    x10 := c.resident b.bank l expert % 2 ^ 30, x11 := 0xFFFFFFFF, epoch := b.epoch, guestSeg := true, guests := gs.map (·.row),
    backward := backward, layer := b.rec'.layer }

/-- The chunks of a guest list: start, guests, whether whole. -/
def guestChunks (rows : Nat) (gs : List Guest) : List (Nat × List Guest × Bool) :=
  (chunks rows gs).mapIdx (fun i g => (i * rows, g, decide (rows ≤ g.length)))

/-- A failure of a batch's forward or backward side names that side's record (Table 16-3). -/
def forSide {α : Type} (b : Batch) (backward : Bool) (op : OpM α) : OpM α :=
  if backward then blame b.origins (bellowsFault b.rec'.layer 2 (match b.bwd with | some w => w.recAddr | none => 0) b.rec'.step op) else forBatch b op

/-- Whether a guest's item of a direction has been posted. -/
def Guest.posted (g : Guest) (backward : Bool) : Bool := if backward then g.postedBwd else g.postedFwd

/-- Guest items of one direction that may be posted now: whole chunks, a backward one once it has every output-gradient row; with `rest`, after the
side's Roll call, every chunk that is left (R213, R215, R257; entry 115). A list is complete once the FORWARD's Roll call has closed. -/
def postGuests (epoch : Nat) (backward rest : Bool) : OpM Unit := do
  let c ← get
  match c.batch epoch with
  | none => pure ()
  | some b => forSide b backward do
    let r := b.rec'
    let l := c.layer r.layer
    let items := b.guestLists.flatMap (fun ea =>
      let gs := c.guestList r ea.1
      ((guestChunks l.itemRows gs).filter (fun k => k.2.1.all (fun g => !g.posted backward) &&
          (rest || (k.2.2 && (!backward || k.2.1.all (fun g => g.haveGrad)))))).map
        (fun k => guestItem b l c ea.1 ea.2 k.1 k.2.1 (b.rollClosed && k.1 + k.2.1.length == gs.length) backward))
    let ring := if backward then (match b.bwd with | some w => w.rec'.guestRing | none => r.guestRing) else r.guestRing
    update (fun c => c.queueItems ring (sortBy itemOrder items))
    items.forM (fun i => do
      update (fun c => i.guests.foldl (fun c row => c.modGuest r.layer row (fun g =>
        if backward then { g with postedBwd := true } else { g with postedFwd := true })) c)
      if backward then pure ()
      else modLoad l (bits i.x8 15 0) (fun (a, p, g, x, y) => (a, p, satAdd 32 g i.guests.length, x, y)))

/-- Whether every guest of a batch has its item of a direction. -/
def Core.guestsPosted (c : Core) (r : BatchRec) (backward : Bool) : Bool :=
  c.bellows.guests.all (fun g => !(g.of r && g.joined) || g.posted backward)

/-- The lowest free guest row of a layer (R213). -/
def Core.guestRow (c : Core) (layer : Nat) : Option Nat :=
  findBelow (c.layer layer).guestRows (fun i => !c.bellows.guests.any (fun g => g.layer == layer && g.row == i))

/-- The live batch of a guest's layer, step and micro-batch. -/
def Core.guestBatch (c : Core) (layer step mb : Nat) : Option Batch :=
  c.bellows.batches.find? (fun b => let r := b.rec'; !b.cancelled && r.layer == layer && r.step == step && r.microBatch == mb)

/-- Whether a pushed row can be taken: an output-gradient row, one of a stale plan, or one for which a guest row is free (R205, R213). -/
def Core.tokenReady (c : Core) (f : TokenF) : Bool := f.backward || f.revision != c.bellows.activeRev || (c.guestRow f.layer).isSome

/-- A pushed row, which is taken out of its receive buffer only where `tokenReady` holds, takes the lowest free guest row, and its origin is told that it has been delivered (R213, R215). -/
def placeToken (f : TokenF) : OpM Unit := do
  let c ← get
  match c.guestRow f.layer with
  | none => pure ()
  | some row => do
    let l := c.layer f.layer
    blockPut (l.guestAt row) (f.data.take l.tokenBytes)
    let g : Guest := { layer := f.layer, row := row, step := f.step, microBatch := f.microBatch, expert := f.expert, origin := f.origin,
                       epoch := f.epoch, returnRow := f.returnRow, arrival := c.bellows.arrivalClock }
    update (fun c => c.modBellows (fun x => { x with guests := x.guests ++ [g], arrivalClock := x.arrivalClock + 1 }))
    update (fun c => c.answerFrame f.origin f.epoch (rowOp false) stOk)
    match c.guestBatch f.layer f.step f.microBatch with
    | some b => do
      joinGuest b.epoch g
      postGuests b.epoch false b.rollClosed
    | none => pure ()

/-- The guest that an output-gradient row belongs to (R256). -/
def Core.gradGuest (c : Core) (f : TokenF) : Option Guest :=
  c.bellows.guests.find? (fun g => g.origin == f.origin && g.epoch == f.epoch && g.returnRow == f.returnRow && g.layer == f.layer)

/-- An output-gradient row at its holder (R256). -/
def placeGrad (f : TokenF) : OpM Unit := do
  update (fun c => c.answerFrame f.origin f.epoch (rowOp true) stOk)
  let c ← get
  match c.gradGuest f with
  | none => set (c.bump (kBlw 0))
  | some g => do
    let l := c.layer f.layer
    blockPut (l.guestAt g.row + l.tokenBytes) (f.data.take l.answerBytes)
    match c.guestBatch g.layer g.step g.microBatch with
    | some b =>
      match kvGet b.guestLists g.expert with
      | some a =>
        let gs := c.guestList b.rec' g.expert
        blockPut (a + entryPlane gs.length + 16 * (gs.findIdx? (fun x => x.row == g.row)).getD 0 + 8) (leBytes 4 f.weight)
      | none => pure ()
    | none => pure ()
    update (fun c => c.modGuest g.layer g.row (fun g => { g with haveGrad := true, weight := f.weight }))

/-- Answers of a retired guest item sent to their origins (R214, R257). -/
def sendAnswers (epoch layer : Nat) (rows : List Nat) (backward : Bool) : OpM Unit := do
  let c ← get
  let l := c.layer layer
  let own := c.batch epoch
  rows.forM (fun row => do
    match c.bellows.guests.find? (fun g => g.layer == layer && g.row == row) with
    | none => pure ()
    | some g => do
      let d ← if backward then
          match own.bind (·.bwd), own with
          | some w, some b =>
            let p := (b.lists.map (fun t => t.pairs.length)).foldl (· + ·) 0
            readLocal blockWho (w.rec'.gradOut + (p + row) * l.tokenBytes) l.tokenBytes
          | _, _ => pure []
        else readLocal blockWho (l.guestAt row + l.tokenBytes) l.answerBytes
      sendBlock opAnswer g.origin 0 (answerFields g.epoch g.returnRow backward) d
      update (fun c => c.modGuest layer row (fun g => if backward then { g with answeredBwd := true } else { g with answered := true })))

/-- Whether a slot lies in a footprint. -/
def inFootprint (a : Nat × Nat × Nat) (b : Nat) : Bool := decide (a.1 ≤ b) && decide (b < a.1 + a.2.1)

/-- Whether a group that is open, waits for its writeback or waits to open has its base in a footprint. -/
def Hearth.footprintUsed (x : Hearth) (a : Nat × Nat × Nat) : Bool :=
  x.groups.any (fun g => inFootprint a g.2.base) || x.wbq.any (fun w => inFootprint a w.base) ||
    x.waitq.any (fun i => match i.op with
      | .astream f => f.opens && inFootprint a (({ x with regs := i.regs } : Hearth).reg f.base).toNat
      | _ => false)

/-- The footprint that holds a slot is free once no group has rows in it (R87, R90; entry 100). -/
def Hearth.freeFootprint (x : Hearth) (b : Nat) : Hearth := { x with allocs := x.allocs.filter (fun a => !inFootprint a b || x.footprintUsed a) }

/-- A Hearth's item on a ring retires (R214); rows that its groups still have, or wait to have, are freed by those. -/
def retireItem (h ring : Nat) : OpM Unit := do
  let c ← get
  match (c.hearth h).items.find? (fun i => i.ring == ring) with
  | none => pure ()
  | some i => do
    set (c.modHearth h (fun x => { x with items := dropFirst (fun i => i.ring == ring) x.items,
                                          allocs := x.allocs.filter (fun a => a.2.2 != ring || x.footprintUsed a) }))
    if i.guests.isEmpty then pure ()
    else bellowsFault i.layer (if i.backward then 2 else 1) 0 0xFFFFFFFF (sendAnswers i.epoch i.layer i.guests i.backward)

/-! Weight-gradient units (R261 to R264). -/

/-- One job: expert, pairs, element index of the sorted guest plane or of the local list, or none. -/
structure Job where
  expert : Nat
  n : Nat
  guest : Nat
  local_ : Nat
  deriving DecidableEq, Repr

/-- A job entry (Table 9-4). -/
def Job.bytes (j : Job) : List Byte := leBytes 16 (place j.local_ 32 0 + place j.guest 32 32 + place j.n 32 64 + place j.expert 16 96)

/-- The entry of an absent job (R264). -/
def absentJob : List Byte := leBytes 16 (0xFFFFFFFF + 0xFFFFFFFF <<< 32 + 0xFFFF <<< 96)

/-- units(N) (R262). -/
def weightUnits (n : Nat) : Nat := min 256 (max 4 ((n + 63) / 64))

/-- The sets of R262: single jobs of 64 pairs or more, narrow sets of up to four smaller ones; then by falling N and rising expert. -/
def jobSets (jobs : List Job) : List (Bool × List Job) :=
  let singles := (jobs.filter (fun j => decide (64 ≤ j.n))).map (fun j => (false, [j]))
  let small := (chunks 4 (jobs.filter (fun j => decide (j.n < 64)))).map (fun s => (true, s))
  let total (s : Bool × List Job) : Nat := (s.2.map (·.n)).foldl (· + ·) 0
  let first (s : Bool × List Job) : Nat := (s.2.map (·.expert)).headD 0
  sortBy (fun a b => total b < total a || (total a == total b && first a < first b)) (singles ++ small)

/-- The jobs of a batch at the close of its BACKWARD dispatch Roll call, with the sorted guest planes written (R261). -/
def formJobs (b : Batch) (l : LayerEnt) : OpM (List Job) := do
  let c ← get
  let r := b.rec'
  let loc (e : Nat) : Option TokenList :=
    b.lists.find? (fun t => t.expert == e && (t.decision == dcResident || t.decision == dcLodge || t.decision == dcPull))
  let es := sortBy (fun x y => decide (x < y)) (((b.lists.map (·.expert)) ++ b.guestLists.map (·.1)).eraseDups)
  let jobs ← es.mapM (fun e => do
    let gs := sortBy (fun (x y : Guest) => x.origin < y.origin || (x.origin == y.origin && x.returnRow < y.returnRow)) (c.guestList r e)
    let n := (match loc e with | some t => t.pairs.length | none => 0) + gs.length
    let g ← if gs.isEmpty then pure 0xFFFFFFFF
      else do
        let a ← batchBillet b.epoch l (4 * gs.length)
        blockPut a (gs.flatMap (fun g => leBytes 4 g.row))
        pure ((a - l.listRegion) / 4)
    pure { expert := e, n := n, guest := g, local_ := match loc e with | some t => (t.billet - l.listRegion) / 4 | none => 0xFFFFFFFF })
  pure (jobs.filter (fun j => j.n != 0))

/-- The job units of a BACKWARD batch formed and queued on local_ring (R262, R263). -/
def postUnits (epoch : Nat) : OpM Unit := do
  let c ← get
  match c.batch epoch with
  | none => pure ()
  | some b => forSide b true do
    let l := c.layer b.rec'.layer
    let jobs ← formJobs b l
    let sets := jobSets jobs
    if sets.isEmpty then pure ()
    else do
      let a ← batchBillet epoch l (64 * sets.length)
      blockPut a (sets.flatMap (fun s => s.2.flatMap Job.bytes ++ (List.replicate (4 - s.2.length) absentJob).flatten))
      let ring := match b.bwd with | some w => w.rec'.localRing | none => b.rec'.localRing
      let items := (sets.mapIdx (fun i s => (i, s))).flatMap (fun (p : Nat × Bool × List Job) =>
        let n := (p.2.2.map (·.n)).foldl (· + ·) 0
        let u := weightUnits n
        (List.range u).map (fun k =>
          { x8 := itemX8 5 l.itemRows p.2.1 ((p.2.2.map (·.expert)).headD 0), x9 := (a + 64 * p.1 - l.listRegion) / 4,
            x10 := place k 8 24 + place (u - 1) 8 16, x11 := n % 2 ^ 32, epoch := epoch, guestSeg := false, guests := [],
            backward := true, layer := b.rec'.layer : Item }))
      update (fun c => c.queueItems ring items)

/-! Progress of batches. -/

/-- The payload of a dispatch Roll call (R215). -/
def dispatchPayload (b : Batch) : List Byte :=
  leBytes 4 b.pushed ++ leBytes 4 b.dropped ++ leBytes 4 b.pulled ++ leBytes 4 b.prefetchCancelled ++ leBytes 4 b.discarded
    ++ List.replicate 44 0#8

/-- A side of a batch arrives at its dispatch Roll call, once every row it sent has been delivered (R215): a forward side that has sealed, a backward
side that has started, and either side of a cancelled batch, with its payload as it stands. -/
def arriveDispatch (b : Batch) (backward : Bool) : OpM Unit := do
  if backward then
    match b.bwd with
    | none => pure ()
    | some w =>
      if w.rollArrived || w.rowsOut != 0 || !(w.started || b.cancelled) then pure ()
      else do
        update (fun c => c.modBackward b.epoch (fun w => { w with rollArrived := true }))
        let c ← get
        let _ ← rollArriveAs (c.originTenant w.origin) w.rec'.rollCtx (.bellows b.epoch true) 1 none (dispatchPayload b) 0
  else if b.rollArrived || b.rowsOut != 0 || !(b.sealed || b.cancelled) then pure ()
  else do
    update (fun c => c.modBatch b.epoch (fun b => { b with rollArrived := true }))
    let c ← get
    let _ ← rollArriveAs (c.originTenant b.origin) b.rec'.rollCtx (.bellows b.epoch false) 1 none (dispatchPayload b) 0

/-- A notice that a row of a batch has been delivered (R215). -/
def Core.rowDelivered (c : Core) (epoch : Nat) (backward : Bool) : Core :=
  if backward then c.modBackward epoch (fun w => { w with rowsOut := w.rowsOut - 1 }) else c.modBatch epoch (fun b => { b with rowsOut := b.rowsOut - 1 })

/-- The forward side of a batch moves on as far as it can (R213 to R217, R194). -/
def pumpForward (epoch : Nat) : OpM Unit := do
  let c ← get
  match c.batch epoch with
  | none => pure ()
  | some b => forBatch b do
    let r := b.rec'
    arriveDispatch b false
    let c ← get
    let b := (c.batch epoch).getD b
    if b.cancelled || b.done then pure ()
    else do
      postGuests epoch false b.rollClosed
      let c ← get
      let localOk := b.sealed && b.lists.all (fun t => t.decision == dcPush || t.posted) && !c.segWaits epoch false false
      let guestOk := b.rollClosed && c.guestsPosted r false && !c.segWaits epoch false true
      let posted := localOk && guestOk
      set (c.modBatch epoch (fun b => { b with localClosed := localOk, guestClosed := guestOk, postedSignalled := b.postedSignalled || posted }))
      if posted && !b.postedSignalled then signalAs (c.originTenant b.origin) r.postedTally 1 else pure ()
      let c ← get
      match c.batch epoch with
      | some b =>
        if posted && b.answerSignalled then
          set ((c.modBatch epoch (fun b => { b with done := true })).complete b.origin b.status epoch)
        else pure ()
      | none => pure ()

/-- A BACKWARD starts once its target has completed: its local items are posted, its output-gradient rows sent (R252, R255, R256). -/
def startBackward (b : Batch) (w : Backward) : OpM Unit := do
  let c ← get
  let r := w.rec'
  let l := c.layer r.layer
  let items := (b.lists.filter (fun t => t.decision != dcPush)).flatMap (fun t => listItems b l c t true)
  set ((c.queueItems r.localRing (sortBy itemOrder items)).modBackward b.epoch (fun w => { w with started := true, rowsOut := b.rowsToSend }))
  update (fun c => c.modBatch b.epoch (fun b => { b with sent := owed b }))
  pushRows b true
  if b.pushed == 0 then do
    update (fun c => c.modBackward b.epoch (fun w => { w with answerSignalled := true }))
    signalAs (c.originTenant w.origin) r.answerTally 1
  else pure ()

/-- The backward side of a batch moves on (R252 to R262). -/
def pumpBackward (epoch : Nat) : OpM Unit := do
  let c ← get
  match c.batch epoch with
  | none => pure ()
  | some b => forSide b true do
    match b.bwd with
    | none => pure ()
    | some w =>
      if b.cancelled then arriveDispatch b true
      else if w.done || !b.done then pure ()
      else do
        let r := w.rec'
        if w.started then pure () else startBackward b w
        let c ← get
        arriveDispatch ((c.batch epoch).getD b) true
        let c ← get
        let w := ((c.batch epoch).bind (·.bwd)).getD w
        postGuests epoch true w.rollClosed
        if w.rollClosed && !w.unitsPosted then do
          update (fun c => c.modBackward epoch (fun w => { w with unitsPosted := true }))
          postUnits epoch
        else pure ()
        let c ← get
        let w := ((c.batch epoch).bind (·.bwd)).getD w
        let localOk := w.unitsPosted && !c.segWaits epoch true false
        let guestOk := w.rollClosed && c.guestsPosted b.rec' true && !c.segWaits epoch true true
        let posted := localOk && guestOk
        set (c.modBackward epoch (fun w => { w with localClosed := localOk, guestClosed := guestOk, postedSignalled := w.postedSignalled || posted }))
        if posted && !w.postedSignalled then signalAs (c.originTenant w.origin) r.postedTally 1 else pure ()
        let c ← get
        match (c.batch epoch).bind (·.bwd) with
        | some w =>
          if posted && w.answerSignalled then
            set ((c.modBackward epoch (fun w => { w with done := true })).complete w.origin stOk epoch)
          else pure ()
        | none => pure ()

/-! What Hearths see of a batch's rings (R218). -/

/-- Every live batch and backward side, and those that have ended with a close still to be shown. A cancelled batch posts nothing more, so its rings
count as closed (entry 36). -/
def Batch.ringViews (b : Batch) : List RingView :=
  let view (acc : Nat) (backward : Bool) (r : BatchRec) (lc gc : Bool) : RingView :=
    { acc := acc, epoch := b.epoch, backward := backward, localRing := r.localRing, guestRing := r.guestRing, path := r.workerPath, tenant := b.tenant,
      localClosed := lc || b.cancelled, guestClosed := gc || b.cancelled }
  view b.acc false b.rec' b.localClosed b.guestClosed ::
    (match b.bwd with | some w => [view w.acc true w.rec' w.localClosed w.guestClosed] | none => [])
def Core.ringViews (c : Core) : List RingView := c.bellows.batches.flatMap Batch.ringViews ++ c.bellows.ended

/-- The Hearths that a batch enlists (R218). -/
def Core.enlisted (c : Core) (v : RingView) : List Nat := (c.targets v.tenant v.path).getD []

/-- Whether every enlisted Hearth has been shown the close of every ring that a batch names. -/
def Core.allShown (c : Core) (v : RingView) : Bool :=
  (c.enlisted v).all (fun h => (c.hearth h).seenClose.contains (v.acc, v.localRing) && (c.hearth h).seenClose.contains (v.acc, v.guestRing))

/-- Ended batches whose close every enlisted Hearth has been shown are forgotten. -/
def Core.pruneEnded (c : Core) : Core :=
  let gone := (c.bellows.ended.filter c.allShown).map (fun v => v.acc)
  if gone.isEmpty then c
  else { c.modBellows (fun x => { x with ended := x.ended.filter (fun v => !gone.contains v.acc) }) with
         hearths := c.hearths.map (fun p => (p.1, { p.2 with seenClose := p.2.seenClose.filter (fun k => !gone.contains k.1) })) }

/-- Whether a batch can end: a CANCEL once its taken items have retired and it has arrived at its Roll calls; a RELEASE once forward and backward are
complete and every item has retired (R194, R215, R222, R274; entry 71). -/
def Core.canEnd (c : Core) (b : Batch) : Bool :=
  !b.enders.isEmpty && !c.itemsOut b.epoch &&
    (if b.cancelled then b.rollArrived && b.bwd.all (·.rollArrived) else (b.done && match b.bwd with | some w => w.done | none => true))

/-- A batch ends: billets, guest rows and Lodge references freed, its records and enders completed (R194, R222). -/
def endBatch (b : Batch) : OpM Unit := forBatch b do
  let r := b.rec'
  freeBillets b.tenant b.billets
  update (fun c => c.modBellows (fun x => { x with batches := x.batches.filter (fun y => y.epoch != b.epoch), guests := x.guests.filter (fun g => !g.of r),
                                                   voided := x.voided.filter (fun v => v.epoch != b.epoch),
                                                   ended := x.ended ++ b.ringViews.map (fun v => { v with localClosed := true, guestClosed := true, batchGone := true }) }))
  update (fun c => (c.lodgePurge r.layer).pruneEnded)
  update (fun c => { c with tt := { c.tt with posted := c.tt.posted.filter (fun p => p.1 / 8 != b.epoch) } })
  update (fun c => if b.done then c else c.complete b.origin stCancelled b.epoch)
  update (fun c => match b.bwd with
    | some w => if w.done then c else c.complete w.origin stCancelled b.epoch
    | none => c)
  b.enders.forM (fun e => update (fun c => c.complete e.1 stOk b.epoch))

/-! Acceptance (R193 to R195, R204, R219, R221, R253). -/

/-- Whether a batch record is refused with ST_FORMAT whatever its kind (R195, R440). That a layer number of 1,024 or above is such a case is the model's choice
(Table 7-1; entry 144). -/
def Core.recordRefused (c : Core) (tenant : Nat) (r : BatchRec) : Bool :=
  let ring (x : Nat) : Bool := !c.twoTenant || x == 2 * tenant
  !r.rsvOk || decide (r.kind == 0 || 4 < r.kind) || decide (1024 ≤ r.layer) || (c.layer r.layer).experts == 0 || r.tokenCount == 0 ||
    decide (65536 < r.tokenCount) || !ring r.guestRing || !ring r.localRing ||
    (r.kind != 1 && !c.bellows.batches.any (fun b => b.epoch == r.target && b.tenant == tenant))

/-- Whether a FORWARD repeats the triple of a live batch (R195). -/
def Core.repeats (c : Core) (r : BatchRec) : Bool :=
  c.bellows.batches.any (fun b => let q := b.rec'; q.layer == r.layer && q.step == r.step && q.microBatch == r.microBatch)

/-- The further refusals of a BACKWARD (R253). -/
def Core.backwardRefused (c : Core) (r : BatchRec) : Bool :=
  match c.batch r.target with
  | none => true
  | some b =>
    let q := b.rec'
    let l := c.layer r.layer
    q.layer != r.layer || q.step != r.step || q.microBatch != r.microBatch || b.bwd.isSome || r.grad == 0 || r.gradOut == 0 ||
      decide (l.answerBytes < l.tokenBytes)

/-- The load records of a layer at its first FORWARD of a step: now moves to prev, the rest clears (R226). -/
def rollLoads (l : LayerEnt) : OpM Unit := (List.range l.experts).forM (fun e => modLoad l e (fun (a, _, _, _, _) => (0, a, 0, 0, 0)))

/-- Run-ahead prefetch at acceptance (R219). -/
def runAhead (b : Batch) (l : LayerEnt) (m : Nat) : OpM Unit := do
  let c ← get
  let prev ← (List.range l.experts).mapM (fun e => do
    let n ← blockNat (l.counterBase + 16 * e) 16
    pure (e, bits n 63 32))
  let total := (prev.map (·.2)).foldl (· + ·) 0
  let want := prev.filter (fun p => !c.isSelf (c.holder b.bank l p.1) && l.wantsPull (p.2 / m) (total / m))
  let order := sortBy (fun (x y : Nat × Nat) => y.2 / m < x.2 / m) want
  let rec go : List (Nat × Nat) → OpM Unit
    | [] => pure ()
    | p :: rest => do
      match ← startPull b l p.1 1 with
      | some _ => go rest
      | none => pure ()
  go (order.take l.prefetchMax)

/-- A FORWARD record accepted: its epoch, the load records, run-ahead, the records and guests that waited for it (R221). -/
def acceptForward (o : Origin) (host : Bool) (addr record : Nat) : OpM Unit := do
  let c ← get
  let r := batchRecOf record
  let l := c.layer r.layer
  let epoch := if c.bellows.lastEpoch == 65535 then 1 else c.bellows.lastEpoch + 1
  let b : Batch := { epoch := epoch, acc := c.bellows.acceptClock, record := record, recHost := host, recAddr := addr, origin := o,
                     tenant := c.originTenant o, revision := c.bellows.activeRev, bank := c.bellows.activeBank }
  forBatch b do
    let old := c.layerNow r.layer
    let first := match old with | some (s, _, _) => s != r.step | none => true
    let cur := match old with
      | some (s, n, m) => if s == r.step then (s, n + 1, m) else (r.step, 1, n)
      | none => (r.step, 1, 0)
    set (c.modBellows (fun x => { x with batches := x.batches ++ [b], lastEpoch := epoch, acceptClock := x.acceptClock + 1,
                                         lastStep := some r.step, layerStep := (r.layer, cur) :: x.layerStep.filter (fun p => p.1 != r.layer) }))
    if first then do
      rollLoads l
      update (fun c => c.lodgePurge r.layer)
      if r.runahead && cur.2.2 != 0 then runAhead b l cur.2.2 else pure ()
    else pure ()
    let c ← get
    let mine := c.bellows.intake.filter (fun x => (c.recordBatch x).any (fun y => y.epoch == epoch))
    set (c.modBellows (fun x => { x with intake := x.intake.filter (fun y => !(c.recordBatch y).any (fun z => z.epoch == epoch)) }))
    (if mine.isEmpty then pure () else senseWord (.queue qIntake) 0)
    mine.forM (takeRecord epoch)
    let c ← get
    (sortBy (fun (x y : Guest) => x.arrival < y.arrival) (c.bellows.guests.filter (fun g => g.of r && !g.joined))).forM (joinGuest epoch)

/-- Whether a FORWARD record has to wait: for a live batch to end, or for the switch of plans (R204, R221). -/
def Core.forwardWaits (c : Core) (r : BatchRec) : Bool :=
  decide (16 ≤ c.bellows.batches.length) ||
    (c.bellows.standbyRev != 0 && decide (c.bellows.effectiveStep ≤ r.step) && c.bellows.batches.any (fun b => decide (b.rec'.step < r.step)))

/-- The switch of seating plans at the first FORWARD at or above the effective step (R204). -/
def Core.switchPlan (c : Core) (r : BatchRec) : Core :=
  if c.bellows.standbyRev != 0 && decide (c.bellows.effectiveStep ≤ r.step) then
    c.modBellows (fun x => { x with activeBank := 1 - x.activeBank, activeRev := x.standbyRev, standbyRev := 0 })
  else c

/-- Waiting FORWARD records accepted in order, as far as they can be. One whose triple an earlier one has made a live batch's is refused (R195). -/
def admitWaiting : Nat → OpM Unit
  | 0 => pure ()
  | n + 1 => do
    let c ← get
    match c.bellows.waitingRecords with
    | [] => pure ()
    | (o, host, addr, record) :: rest =>
      if c.repeats (batchRecOf record) then do
        set ((c.modBellows (fun x => { x with waitingRecords := rest })).complete o stFormat 0)
        admitWaiting n
      else if c.forwardWaits (batchRecOf record) then pure ()
      else do
        set ((c.modBellows (fun x => { x with waitingRecords := rest })).switchPlan (batchRecOf record))
        acceptForward o host addr record
        admitWaiting n

/-- Every live batch moves on. -/
def pumpBatches : OpM Unit := do
  let c ← get
  (c.bellows.batches.map (·.epoch)).forM (fun e => do
    postLists e
    pumpForward e
    pumpBackward e)

/-- Every batch moves on as far as it can; batches that can end do, and what waited for them proceeds. -/
def bellowsPump : OpM Unit := do
  pumpBatches
  let c ← get
  (c.bellows.batches.filter c.canEnd).forM endBatch
  admitWaiting 16
  unstall
  pumpBatches

/-- A batch record taken in (R194, R195, R252). -/
def acceptRecord (o : Origin) (host : Bool) (addr : Nat) (data : List Byte) : OpM Unit := do
  let c ← get
  let n := leNat (data.take 64)
  let r := batchRecOf n
  let tenant := c.originTenant o
  bellowsFault r.layer (min r.kind 4) addr r.step (senseLayer r.layer)
  if c.recordRefused tenant r || (r.kind == 1 && c.repeats r) || (r.kind == 2 && c.backwardRefused r) then set (c.complete o stFormat 0)
  else if (c.targets tenant r.workerPath).isNone then set ((c.bump kAbsentUnit).complete o stUnitAbsent 0)
  else do
    match r.kind with
    | 1 => set (c.modBellows (fun x => { x with waitingRecords := x.waitingRecords ++ [(o, host, addr, n)] }))
    | 2 =>
      let w : Backward := { record := n, recHost := host, recAddr := addr, acc := c.bellows.acceptClock, origin := o }
      set ((c.modBellows (fun x => { x with acceptClock := x.acceptClock + 1 })).modBatch r.target (fun b => { b with bwd := some w }))
    | 3 => set (c.modBatch r.target (fun b => { b with enders := b.enders ++ [(o, false)] }))
    | _ => set (((c.dropItems r.target).modBatch r.target (fun b => { b with enders := b.enders ++ [(o, true)], cancelled := true })).dropPulls r.target)
    bellowsPump

/-- The result of a dispatch Roll call at the Bellows: written to roll_result; guest segments can close (R215, R257). Of a batch that its CANCEL has
ended nothing is written: the model's choice (entry 148). -/
def bellowsRolled (epoch : Nat) (backward : Bool) (payload : List Byte) : OpM Unit := do
  let c ← get
  match c.batch epoch with
  | none => pure ()
  | some b => forBatch b do
    let put (o : Origin) (host : Bool) (addr : Nat) : OpM Unit :=
      if host then update (fun c => c.hostWrite o.port (addr + 64) payload) else blockPut (addr + 64) payload
    if backward then
      match b.bwd with
      | some w => do
        put w.origin w.recHost w.recAddr
        update (fun c => c.modBackward epoch (fun w => { w with rollClosed := true }))
      | none => pure ()
    else do
      put b.origin b.recHost b.recAddr
      update (fun c => c.modBatch epoch (fun b => { b with rollClosed := true }))

/-- An event of the Bellows: done, then every batch moves on. -/
def bellowsEvent (op : OpM Unit) : OpM Unit := do
  op
  bellowsPump

/-- Work of the Bellows that belongs to no batch record. -/
def Core.runBellows (c : Core) (layer : Nat) (op : OpM Unit) : Core := c.runBlock clsDispatch layer 0 (bellowsEvent op)

/-! Commands. -/

/-- ROUTER_RECORD: a whole record stored to the intake (R198); at a full intake its sender is held back and nothing changes. -/
def execRouterRecord (record : Nat) (s : State) : Host.Outcome State Fault Refusal :=
  .next { s with core := s.core.gated (fun c =>
    if (c.recordBatch record).isNone && decide (intakeRoom ≤ c.bellows.intake.length) then c
    else c.runBellows (bits record 95 80) (intakeRecord .block 9 record)) }

/-- TIMETABLE_POST: waiting items posted while the ring has room (R217). -/
def execTimetablePost (ring : Nat) (s : State) : Host.Outcome State Fault Refusal :=
  .next { s with core := s.core.gated (fun c =>
    (c.postAll ring (((kvGet c.tt.waiting ring).getD []).length + 1)).runBellows 0 (pure ())) }

/-- INTAKE_TIMEOUT: a batch that has not sealed in time (R200). -/
def execIntakeTimeout (epoch : Nat) (s : State) : Host.Outcome State Fault Refusal :=
  .next { s with core := s.core.gated (fun c =>
    match c.batch epoch with
    | some b => if b.firstSeen && !b.sealed && !b.cancelled then c.runBlock clsDispatch 0 0 (forBatch b (failWith stTimeout)) else c
    | none => c) }

/-- A pull request at a holder (R205, R211). -/
def Core.pullRequest (c : Core) (f : PullF) : Core :=
  if f.revision != c.bellows.activeRev then (c.bump (kBlw 4)).answerFrame f.requester f.epoch opPull stRoleStale
  else
    let same (w : MergeWindow) : Bool := w.layer == f.layer && w.expert == f.expert && w.step == f.step && !w.closing
    if c.bellows.windows.any same then
      (c.modBellows (fun x => { x with windows := modFirst same (fun w => { w with requests := w.requests ++ [f] }) x.windows })).bump (kBlw 7)
    else c.modBellows (fun x => { x with windows := x.windows ++ [{ layer := f.layer, expert := f.expert, step := f.step, requests := [f] }] })

/-- The requesters of a broadcast after a granule's bytes: how many, then device name, slot and batch epoch of each (R332; entry 27). -/
def memberBytes (l : List (Nat × Nat × Nat)) : List Byte :=
  leBytes 2 l.length ++ l.flatMap (fun m => leBytes 2 m.1 ++ leBytes 2 m.2.1 ++ leBytes 2 m.2.2)

/-- A granule sent on to those requesters that the tree of a broadcast puts below a vertex (R332), once to each, however many slots it has asked for. -/
def sendGranule (layer holder me index : Nat) (members : List (Nat × Nat × Nat)) (d : List Byte) : OpM Unit :=
  (bcastChildren (holder :: (members.map (fun m => m.1)).eraseDups) me).forM (fun o =>
    match members.find? (fun m => m.1 == o) with
    | some m => sendBlock opGranule o 0 (granuleFields layer m.2.1 m.2.2 index) (d ++ memberBytes members)
    | none => pure ())

/-- A merged transfer: the image read once, its granules sent down the broadcast tree over the requesters of the window (R211, R212, R332; entry 27). -/
def serveWindow (w : MergeWindow) : OpM Unit := do
  let c ← get
  let l := c.layer w.layer
  let img ← expertImage w.layer w.expert l.weightBytes
  let members := w.requests.map (fun q => (q.requester, q.slot, q.epoch))
  ((chunks 4096 img).mapIdx (fun i d => (i, d))).forM (fun (p : Nat × List Byte) => sendGranule w.layer c.selfName c.selfName p.1 members p.2)

/-- Windows that have ended are served once the holder's Crucible has finished the step before (R211). -/
def serveReady : OpM Unit := do
  let c ← get
  (c.bellows.windows.filter (·.closing)).forM (fun w => bellowsFault w.layer 0 0 w.step do
    let ok ← if w.step == 0 then pure true else expertFinished w.layer w.expert (w.step - 1)
    if ok then do
      update (fun c => c.modBellows (fun x => { x with windows := dropFirst (fun y => y == w) x.windows }))
      serveWindow w
    else pure ())

/-- MERGE_WINDOW_CLOSE: the window of a triple ends (R211). -/
def execMergeWindowClose (layer expert step : Nat) (s : State) : Host.Outcome State Fault Refusal :=
  .next { s with core := s.core.gated (fun c =>
    let same (w : MergeWindow) : Bool := w.layer == layer && w.expert == expert && w.step == step && !w.closing
    (c.modBellows (fun x => { x with windows := modFirst same (fun w => { w with closing := true }) x.windows })).runBellows layer serveReady) }

/-- A granule that a cancelled prefetch still had coming from a holder for a slot, if any, is taken off what is to come (R220; entry 136). -/
def Core.takeVoided (c : Core) (layer slot epoch holder : Nat) : Option Core :=
  let mine (v : Voided) : Bool := v.layer == layer && v.slot == slot && v.epoch == epoch && v.holder == holder
  if c.bellows.voided.any mine then
    some (c.modBellows (fun x => { x with voided := (modFirst mine (fun v => { v with left := v.left - 1 }) x.voided).filter (fun v => v.left != 0) }))
  else none

/-- A granule lands in a slot of this device, or is Slag: where a cancelled prefetch had asked for it, where its slot is not one that waits for it, or its
batch is not live or has been cancelled (R212, R220, R224). -/
def landSlot (f : GranuleF) (slot epoch : Nat) : OpM Unit := do
  let c ← get
  let l := c.layer f.layer
  let live := match c.batch epoch with | some b => !b.cancelled | none => false
  match c.takeVoided f.layer slot epoch f.holder,
      c.bellows.lodge.find? (fun s => live && s.layer == f.layer && s.slot == slot && s.epoch == epoch && decide (s.state < 3)) with
  | some c, _ => set (c.bump (kBlw 0))
  | none, none => set (c.bump (kBlw 0))
  | none, some s => do
    blockPut (l.lodgeBase + slot * l.slotBytes + f.index * 4096) (f.data.take 4096)
    let got := if s.got.contains f.index then s.got else f.index :: s.got
    let full := decide (l.granules ≤ got.length)
    update (fun c => c.modLodge f.layer slot (fun s => LodgeSlot.settled l { s with got := got }))
    let mine (q : OutReq) : Bool := q.dst == f.holder && q.pullsInto s
    update (fun c => { c with fabric := { c.fabric with
      out := if full then dropFirst mine c.fabric.out else modFirst mine (fun q => { q with resends := 0 }) c.fabric.out } })

/-- The slots of this device that a granule is for: its header's, and every other one that its requesters' list gives this device (R211). -/
def Core.granuleSlots (c : Core) (f : GranuleF) : List (Nat × Nat) :=
  ((f.slot, f.epoch) :: (f.members.filter (fun m => c.isSelf m.1)).map (fun m => (m.2.1, m.2.2))).eraseDups

/-- A granule of a pull is sent on down its tree (R332), and lands in every slot of this device that it is for (R211, R212). -/
def landGranule (f : GranuleF) : OpM Unit := do
  let c ← get
  match (f.members.map (fun m => m.1)).find? c.isSelf with
  | some me => sendGranule f.layer f.holder me f.index f.members f.data
  | none => pure ()
  (c.granuleSlots f).forM (fun s => landSlot f s.1 s.2)

/-- A pushed row at a holder: refused for a stale revision, or placed (R205, R213, R256). -/
def takeToken (f : TokenF) : OpM Unit := do
  let c ← get
  if f.revision != c.bellows.activeRev then set ((c.bump (kBlw 4)).answerFrame f.origin f.epoch (rowOp f.backward) stRoleStale)
  else if f.backward then placeGrad f
  else placeToken f

/-- A holder has been heard of for a batch: its timer restarts (R419). -/
def Core.hear (c : Core) (holder epoch : Nat) : Core :=
  c.modBellows (fun x => { x with heard := kvPut x.heard (holder * 65536 + epoch) (spGet 0 x.heard (holder * 65536 + epoch) + 1) })

/-- An answer lands at its origin, or is Slag (R214, R224, R257). -/
def takeAnswer (f : AnswerF) : OpM Unit := do
  let c ← get
  match c.batch f.epoch with
  | none => set (c.bump (kBlw 0))
  | some b =>
    if b.cancelled || (f.backward && b.bwd.isNone) then set (c.bump (kBlw 0))
    else forBatch b do
      let l := c.layer b.rec'.layer
      let base := if f.backward then (match b.bwd with | some w => w.rec'.gradOut | none => 0) else b.rec'.outBase
      let size := if f.backward then l.tokenBytes else l.answerBytes
      blockPut (base + f.returnRow * size) (f.data.take size)
      let less (m : List (Nat × Nat)) : List (Nat × Nat) := spPut 0 m f.holder (spGet 0 m f.holder - 1)
      update (fun c => (c.hear f.holder f.epoch).modBatch f.epoch (fun b => { b with sent := less b.sent }))
      if f.backward then
        match b.bwd with
        | some w => do
          let full := w.answers + 1 == b.pushed
          update (fun c => c.modBackward f.epoch (fun w => { w with answers := w.answers + 1, answerSignalled := w.answerSignalled || full }))
          if full then signalAs (c.originTenant w.origin) w.rec'.answerTally 1 else pure ()
        | none => pure ()
      else do
        let full := b.answers + 1 == b.pushed
        update (fun c => c.modBatch f.epoch (fun b => { b with answers := b.answers + 1, answerSignalled := b.answerSignalled || full }))
        if full then signalAs (c.originTenant b.origin) b.rec'.answerTally 1 else pure ()

/-- PROGRESS_TIMER: a PROGRESS frame for an origin whose guests still lack answers (R419). -/
def execProgressTimer (origin epoch : Nat) (s : State) : Host.Outcome State Fault Refusal :=
  .next { s with core := s.core.gated (fun c =>
    let owes (g : Guest) : Bool := g.origin == origin && g.epoch == epoch && (!g.answered || (g.haveGrad && !g.answeredBwd))
    if c.bellows.guests.any owes then c.sendOrFault (packTxn { op := opProgress, dst := origin } (place epoch 16 0)) vcRsp [] else c) }

end Sys2Proof.Machine
end

