-- ==== Sys2Proof/Machine/Optim.lean ====
section
/-!
DEFINITION. Sys2Proof/Machine/Optim.lean: the arithmetic of the Crucible's rules (R294 to R299): matrices in FP32, the four rule
operations, the new image and the shard digest (R303).
-/

namespace Sys2Proof.Machine

/-- A matrix in row-major order. -/
abbrev Mat := List (List Word32)

/-- An FP32 value rounded to BF16 (R294). -/
def bf16Round (w : Word32) : FV :=
  let l : FpLayout := ⟨8, 7, 127, 0⟩
  l.decode (l.roundCode .rne (f32V w))

/-- One element of mm: beats of 128 K positions, each summed exactly and rounded once, added by comp_add, closed (R294, R43, R53, R56). -/
def dotBeats (a b : List FV) : Word32 :=
  closeGroup [(chunks 128 (a.zip b)).foldl (fun p beat => compAdd p (toF32 (FV.sum (beat.map (fun x => x.1.mul x.2))))) (0#32, 0#32)]

/-- The transpose of a matrix of `cols` columns. -/
def Mat.tr (cols : Nat) (a : Mat) : Mat := transposeTile cols a

/-- mm of R294; `cols` are the columns of the second matrix. -/
def mm (cols : Nat) (a b : Mat) : Mat :=
  let bt := (Mat.tr cols b).map (fun c => c.map bf16Round)
  a.map (fun r => let r := r.map bf16Round; bt.map (dotBeats r))

/-- Two matrices combined element by element. -/
def matZip (f : Word32 → Word32 → Word32) (a b : Mat) : Mat := List.zipWith (List.zipWith f) a b

/-- A matrix changed element by element. -/
def matMap (f : Word32 → Word32) (a : Mat) : Mat := a.map (fun r => r.map f)

/-- frob (R294). -/
def frob (a : Mat) : Word32 := fsqrt (closeGroup (a.flatten.map (fun x => (fmul x x, 0#32))))

/-- The FP32 words of small whole numbers. -/
def f32Nat (n : Nat) : Word32 := toF32 (.fin false n 0)

/-- The element (i, j) of d on the diagonal, +0 elsewhere. -/
def diagMat (d : Nat) (v : Word32) : Mat := (List.range d).map (fun i => (List.range d).map (fun j => if i == j then v else 0#32))

/-- One iteration of the orthogonalisation on X of `r` rows and `c` columns, r at most c (R296). -/
def nsStep (rule : RuleEnt) (r c : Nat) (x : Mat) : Mat :=
  let a := mm r x (Mat.tr c x)
  let b := matZip fadd (matMap (fmul rule.c1) a) (matMap (fmul rule.c2) (mm r a a))
  matZip fadd (matMap (fmul rule.c0) x) (mm c b x)

/-- A function applied n times. -/
def iter {α : Type} (f : α → α) : Nat → α → α
  | 0, x => x
  | n + 1, x => iter f n (f x)

/-- ns (R296). -/
def ns (rule : RuleEnt) (rows cols : Nat) (m : Mat) : Mat :=
  let tr := decide (cols < rows)
  let x := if tr then Mat.tr cols m else m
  let r := if tr then cols else rows
  let c := if tr then rows else cols
  let d := fadd (frob x) rule.eps
  let x := iter (nsStep rule r c) rule.iters (matMap (fun e => fdiv e d) x)
  if tr then Mat.tr c x else x

/-- iroot (R297) for a root of 2 or 4 and a matrix of d rows. -/
def iroot (rule : RuleEnt) (d : Nat) (s : Mat) : Mat :=
  let p := rule.root
  let m := matZip fadd s (diagMat d rule.eps)
  let z := fdiv (f32Nat (1 + p)) (fmul (f32Nat 2) (frob m))
  let rp := if p == 2 then fsqrt z else fsqrt (fsqrt z)
  let step (q : Mat × Mat) : Mat × Mat :=
    let t := matMap (fun e => fdiv e (f32Nat p)) (matZip fsub (diagMat d (f32Nat (p + 1))) q.2)
    let t2 := mm d t t
    let tp := if p == 2 then t2 else mm d t2 t2
    (mm d q.1 t, mm d tp q.2)
  (iter step rule.iters (diagMat d rp, matMap (fmul z) m)).1

/-- The state of a matrix in an epoch slot: header fields and planes. -/
structure SlotState where
  t : Nat
  pow1 : Word32
  pow2 : Word32
  w : Mat
  m : Mat
  v : Mat
  sl : Mat
  sr : Mat
  ql : Mat
  qr : Mat
  deriving DecidableEq, Repr

/-- m and w after one update of an element under MOMENTUM or ROOT, whose gradient term is u (R295). -/
def decayW (r : RuleEnt) (w m : Word32) : Word32 := fsub w (fmul r.lr (fadd m (fmul r.wd w)))

/-- One element under ADAMW: w, m, v (R295). -/
def adamElem (r : RuleEnt) (bc1 bc2 g w m v : Word32) : Word32 × Word32 × Word32 :=
  let one := f32Nat 1
  let m := fadd (fmul r.beta1 m) (fmul (fsub one r.beta1) g)
  let v := fadd (fmul r.beta2 v) (fmul (fsub one r.beta2) (fmul g g))
  let u := fdiv (fdiv m bc1) (fadd (fsqrt (fdiv v bc2)) r.eps)
  (fsub w (fmul r.lr (fadd u (fmul r.wd w))), m, v)

/-- The header's move before an update (R295). -/
def SlotState.advance (s : SlotState) (r : RuleEnt) : SlotState :=
  { s with t := (s.t + 1) % 2 ^ 32, pow1 := fmul s.pow1 r.beta1, pow2 := fmul s.pow2 r.beta2 }

/-- One row under ADAMW. -/
def adamRow (r : RuleEnt) (bc1 bc2 : Word32) (g w m v : List Word32) : List Word32 × List Word32 × List Word32 :=
  let l := (g.zip (w.zip (m.zip v))).map (fun x => adamElem r bc1 bc2 x.1 x.2.1 x.2.2.1 x.2.2.2)
  (l.map (·.1), l.map (·.2.1), l.map (·.2.2))

/-- One row under MOMENTUM. -/
def momentumRow (r : RuleEnt) (g w m : List Word32) : List Word32 × List Word32 :=
  let m := List.zipWith (fun m g => fadd (fmul r.beta1 m) g) m g
  (List.zipWith (decayW r) w m, m)

/-- A row that takes no part: DECAY moves its moments, FREEZE leaves them (R298). -/
def idleRow (r : RuleEnt) (decay : Bool) (m v : List Word32) : List Word32 × List Word32 :=
  if decay then (m.map (fmul r.beta1), if r.op == 2 then v.map (fmul r.beta2) else v) else (m, v)

/-- An update by rows under MOMENTUM or ADAMW; rows without a gradient follow R298. -/
def updateRows (r : RuleEnt) (decay : Bool) (s : SlotState) (g : Nat → Option (List Word32)) : SlotState :=
  let one := f32Nat 1
  let bc1 := fsub one s.pow1
  let bc2 := fsub one s.pow2
  let vs := if r.op == 2 then s.v else s.m
  let rows := (s.w.zip (s.m.zip vs)).mapIdx (fun i x =>
    match g i with
    | none => let (m, v) := idleRow r decay x.2.1 x.2.2; (x.1, m, v)
    | some g =>
      if r.op == 2 then adamRow r bc1 bc2 g x.1 x.2.1 x.2.2
      else let (w, m) := momentumRow r g x.1 x.2.1; (w, m, x.2.2))
  { s with w := rows.map (·.1), m := rows.map (·.2.1), v := if r.op == 2 then rows.map (·.2.2) else s.v }

/-- An update of a whole matrix with gradient g (R295). -/
def updateDense (r : RuleEnt) (rows cols : Nat) (s : SlotState) (g : Mat) : SlotState :=
  let s := s.advance r
  match r.op with
  | 3 =>
    let m := matZip (fun m g => fadd (fmul r.beta1 m) g) s.m g
    let o := ns r rows cols m
    { s with m := m, w := matZip (fun w o => fsub w (fmul r.lr (fadd (fmul r.c3 o) (fmul r.wd w)))) s.w o }
  | 4 =>
    let omb2 := fsub (f32Nat 1) r.beta2
    let gt := Mat.tr cols g
    let acc (a b : Mat) : Mat := matZip fadd (matMap (fmul r.beta2) a) (matMap (fmul omb2) b)
    let sl := acc s.sl (mm rows g gt)
    let sr := acc s.sr (mm cols gt g)
    let fresh := (s.t + 2 ^ 32 - 1) % 2 ^ 32 % r.interval == 0
    let ql := if fresh then iroot r rows sl else s.ql
    let qr := if fresh then iroot r cols sr else s.qr
    let m := matZip (fun m u => fadd (fmul r.beta1 m) u) s.m (mm cols (mm cols ql g) qr)
    { s with sl := sl, sr := sr, ql := ql, qr := qr, m := m, w := matZip (decayW r) s.w m }
  | _ => updateRows r false s (fun i => some (g.getD i []))

/-- Whether every value of a slot is finite (R299). -/
def SlotState.finite (s : SlotState) : Bool :=
  (s.w ++ s.m ++ s.v ++ s.sl ++ s.sr ++ s.ql ++ s.qr).all (fun r => r.all f32Finite)

/-! Slots as bytes. -/

/-- FP32 words as rows. -/
def matOf (cols : Nat) (b : List Byte) : Mat := chunks cols (wordsOf b)

/-- The bytes of a matrix. -/
def matBytes (a : Mat) : List Byte := bytesOfWords a.flatten

/-- Planes laid out from an offset, each from the next 4 KiB boundary, padded with 0 (R278). -/
def layPlanes (head : List Byte) (planes : List (List Byte)) : List Byte :=
  planes.foldl (fun acc p => acc ++ List.replicate (roundUp acc.length 4096 - acc.length) 0#8 ++ p) head

/-- A slot header (R278). -/
def slotHeader (t : Nat) (pow1 pow2 : Word32) (step : Nat) : List Byte :=
  leBytes 64 (place t 32 0 + place pow1.toNat 32 32 + place pow2.toNat 32 64 + place step 32 96)

/-- The state that a slot's bytes hold. -/
def slotStateOf (m : MatrixEnt) (op : Nat) (b : List Byte) : SlotState :=
  let h := leNat (b.take 64)
  let (offs, _, _) := m.layout op
  let pl (i n : Nat) : List Byte := (b.drop (offs.getD i 0)).take (4 * n)
  let n := m.rows * m.cols
  let rr := m.rows * m.rows
  let cc := m.cols * m.cols
  { t := bits h 31 0, pow1 := BitVec.ofNat 32 (h >>> 32), pow2 := BitVec.ofNat 32 (h >>> 64), w := matOf m.cols (pl 0 n), m := matOf m.cols (pl 1 n),
    v := if op == 2 then matOf m.cols (pl 2 n) else [], sl := if op == 4 then matOf m.rows (pl 2 rr) else [],
    sr := if op == 4 then matOf m.cols (pl 3 cc) else [], ql := if op == 4 then matOf m.rows (pl 4 rr) else [],
    qr := if op == 4 then matOf m.cols (pl 5 cc) else [] }

/-- The state planes of a slot, in the order of Table 10-3. -/
def SlotState.planes (s : SlotState) (op : Nat) : List (List Byte) :=
  [matBytes s.w, matBytes s.m] ++ (if op == 2 then [matBytes s.v] else []) ++
    (if op == 4 then [matBytes s.sl, matBytes s.sr, matBytes s.ql, matBytes s.qr] else [])

/-- A plane of converted elements: codes, then for MX the scales of its blocks in block order. -/
def formatPlane (d : TDesc) (f : Fmt) (dim seed step blocks : Nat) (w : Mat) : List (List Byte) :=
  let elems := (w.mapIdx (fun i r => r.mapIdx (fun j x => (i, j, x)))).flatten
  let outs := convList d f dim seed step elems
  let codes := packCodes f.elemBits (outs.map (fun e => e.2.2.code))
  if f.isMx then
    let sc := outs.foldl (fun m e => kvPut m (d.blockOf dim e.1 e.2.1) e.2.2.scale) []
    [codes, (List.range blocks).map (fun i => BitVec.ofNat 8 (spGet 0 sc i))]
  else [codes]

/-- The planes of a new image (R299). -/
def newImage (m : MatrixEnt) (seed step : Nat) (w : Mat) : List (List Byte) :=
  let d : TDesc := { code := m.code, rounding := m.rounding, nonSat := m.sat, tensorId := m.workId, ext0 := m.cols, ext1 := m.rows, ext2 := 1, ext3 := 1 }
  formatPlane d m.fmt m.blockDim seed step m.blocks w ++
    (if m.shadow then formatPlane { d with rounding := 0, nonSat := false } .mx4 m.blockDim seed step m.blocks w else [])

/-- The words of a slot added into a shard digest (R303): matrix q of the shard's order. -/
def digestWords (k q : Nat) (b : List Byte) (h : Nat) : Nat :=
  ((chunks 8 b).mapIdx (fun i w => (i, leNat w))).foldl (fun h p => u64 (h + mix (Nat.xor p.2 (mix (Nat.xor (Nat.xor k (u64 (q <<< 40))) p.1))))) h

/-- The key of a shard digest, and its end (R303). -/
def digestKey (shard step : Nat) : Nat := mix (u64 (shard <<< 32 + step))
def digestEnd (k h : Nat) : Nat := mix (Nat.xor h k)

end Sys2Proof.Machine
end

