-- ==== Sys2Proof/Machine/Crucible.lean ====
section
/-!
DEFINITION. Sys2Proof/Machine/Crucible.lean: announces, reduction, the Quench, the picker, commit and gather (R63 to R70, R275 to R307).
-/

namespace Sys2Proof.Machine

/-! Faults, records. -/

/-- A Crucible fault: shard and step of Table 10-7 (Table 16-3). -/
def cruFault {α : Type} (shard phase step : Nat) (op : OpM α) : OpM α :=
  tryCatch op (fun f => throw (if f.cls == 0 || f.cls == clsAlways then
    { cls := clsOptimiser, status := f.status, unit := shard % 2 ^ 16, detail := phase, addr := shard, step := step } else f))

/-- A step record (Table 10-6). -/
structure StepRec where
  groups : Nat
  rowset : Nat
  ownedList : Nat
  ownedCount : Nat
  clip : Word32
  limit : Word32
  gatherCount : Nat
  drainCtx : Nat
  quenchCtx : Nat
  step : Nat
  rsvOk : Bool
  deriving DecidableEq, Repr

/-- A step record read from its 512 bits. -/
def stepRecOf (n : Nat) : StepRec :=
  { groups := bits n 383 320, rowset := bits n 319 256, ownedList := bits n 255 192, ownedCount := bits n 147 128,
    clip := BitVec.ofNat 32 (n >>> 96), limit := BitVec.ofNat 32 (n >>> 64), gatherCount := bits n 63 48, drainCtx := bits n 47 40,
    quenchCtx := bits n 39 32, step := bits n 31 0, rsvOk := bits n 511 384 == 0 && bits n 191 148 == 0 }

/-- The step record of the step in progress. -/
def Core.stepRec (c : Core) : StepRec := stepRecOf c.crucible.record

def Core.modCru (c : Core) (f : Crucible → Crucible) : Core := { c with crucible := f c.crucible }

/-- The shards that the step record names, in ascending id (R304). -/
def ownedShards : OpM (List Nat) := do
  let c ← get
  let r := c.stepRec
  let b ← readLocal blockWho r.ownedList (4 * r.ownedCount)
  pure (sortBy (fun x y => decide (x < y)) (unpackCodes 32 r.ownedCount 0 b))

/-! The picker (R63 to R70). -/

/-- The candidates of Table 2-9: code, emax, range; an MX candidate has no range. -/
def candidates : List (Nat × Int × Option Int) :=
  [(3, 8, some 17), (4, 15, some 31), (5, 0, none), (6, 0, none), (2, 15, some 39), (1, 127, some 260), (0, 127, some 276)]

/-- The enabled entries, in ascending order. -/
def Core.pickEnabled (c : Core) : List Nat :=
  (c.latched.filter (fun p => inArray p.1 (rPick 0) 8 4096 && bit p.2 0)).map (fun p => (p.1 - rPick 0) / 8)

def Core.setPickEntry (c : Core) (n : Nat) (e : PickEntry) : Core := { c with picker := { c.picker with entries := kvPut c.picker.entries n e } }

/-- pick (R67): format code and scale exponent as 8 bits. -/
def pickRule (set : Bool × Nat × Nat × Nat × Nat) (h : List (Nat × Nat)) : Nat × Nat :=
  let (_, mask, margin, window, fb) := set
  let seen := (h.drop (h.length - window)).filter (fun p => p.1 != 0)
  let hi : Int := seen.foldl (fun m p => max m ((p.1 : Int) - 127)) (-1000)
  let lo : Int := seen.foldl (fun m p => min m (127 - (p.2 : Int))) 1000
  if seen.isEmpty then (fb, 0)
  else
    match (candidates.mapIdx (fun i x => (i, x))).find? (fun p => bit mask p.1 && match p.2.2.2 with
      | none => true
      | some r => decide (hi - lo + margin ≤ r)) with
    | some (_, code, emax, some _) => (code, ofSigned (max (-128) (min 127 (emax - margin - hi))) 8)
    | some (_, code, _, none) => (code, 0)
    | none => (fb, 0)

/-- An entry's two bytes in a picker payload (R65). -/
def pickBytes (e : PickEntry) (step : Nat) : List Byte :=
  match e.summary.find? (fun x => x.1 == step) with
  | some (_, a, b) => leBytes 1 (max 1 (min 254 (a + 127))).toNat ++ leBytes 1 (max 0 (min 253 (254 - (b + 127)))).toNat
  | none => [0#8, 0#8]

/-- The payload of picker call i (R65). -/
def Core.pickPayload (c : Core) (i step : Nat) : List Byte :=
  let es := ((c.pickEnabled.drop (32 * i)).take 32).flatMap (fun n => pickBytes (c.pickEntry n) step)
  es ++ List.replicate (64 - es.length) 0#8

/-- The combined bytes of picker call i appended to the histories (R65). -/
def Core.pickAppend (c : Core) (i : Nat) (payload : List Byte) : Core :=
  (((c.pickEnabled.drop (32 * i)).take 32).mapIdx (fun j n => (j, n))).foldl (fun c p =>
    let e := c.pickEntry p.2
    let h := e.history ++ [((payload.getD (2 * p.1) 0#8).toNat, (payload.getD (2 * p.1 + 1) 0#8).toNat)]
    c.setPickEntry p.2 { e with history := h.drop (h.length - 16) }) c

/-- The picker completes a step: the next picks, and the summaries of that step gone (R66, R68). -/
def Core.pickFinish (c : Core) (step : Nat) (commit : Bool) : Core :=
  let ns := (c.picker.entries.map (·.1) ++ c.pickEnabled).eraseDups
  let c := ns.foldl (fun c n =>
    let e := c.pickEntry n
    let now := if commit && (c.pickSet n).1 then pickRule (c.pickSet n) e.history else e.pickNow
    c.setPickEntry n { e with pickPrev := e.pickNow, pickNow := now, summary := e.summary.filter (fun x => x.1 != step) }) c
  { c with picker := { c.picker with pickStep := (step + 1) % 2 ^ 32, stepKnown := true } }

/-- What a PICKED tensor of entry n resolves to for a card's step (R69): code, scale exponent, stale; none while it is held. The first card
of a job has its first step (R68; entry 15). -/
def Core.pickResolve (c : Core) (n step : Nat) : Option (Nat × Nat × Bool) :=
  let e := c.pickEntry n
  let ps := if c.picker.stepKnown then c.picker.pickStep else step
  if step == ps then some (e.pickNow.1, e.pickNow.2, false)
  else if step + 1 == ps then some (e.pickPrev.1, e.pickPrev.2, false)
  else if step == ps + 1 then none
  else some ((c.pickSet n).2.2.2.2, 0, true)

/-! Announces (R279). -/

/-- An announce stored to the window (R279). A lent Hearth takes no part (Table 10-9): its announce is a breach of R137. -/
def announceOp (w : Who) (d : List Byte) : OpM Unit := do
  match w.actor with
  | .hearth h => refuseLent h
  | _ => pure ()
  let c ← get
  let n := leNat (d.take 64)
  let id := bits n 19 0
  let step := bits n 63 32
  let tiles := bits n 111 80
  let t := tdescOf (leNat (d.drop 64))
  let m ← cruFault 0 1 step (readMatrix id)
  cruFault m.shard 1 step do
    require (bits n 31 20 == 0 && bits n 511 112 == 0 && !m.sparse) stFormat
    require (c.descOk t && t.present) stFormat
    require (t.ext0 == m.cols && t.ext1 == m.rows && t.ext2 == 1 && t.ext3 == 1) stFormat
    require (match c.crucible.lastRun with | some s => step == s + 1 || step == s + 2 | none => true) stFormat
    let same (a : Announced) : Bool := a.matrix == id && a.step == step && a.part == bits n 79 64 && a.tenant == w.tenant
    let old := c.crucible.announced.find? same
    let sum := (match old with | some a => a.tiles | none => 0) + tiles
    require (decide (sum ≤ m.tiles)) stFormat
    set (c.modCru (fun x => { x with announced :=
      match old with
      | some _ => modFirst same (fun a => { a with tiles := sum }) x.announced
      | none => x.announced ++ [{ matrix := id, step := step, part := bits n 79 64, tiles := tiles, desc := d.drop 64, tenant := w.tenant }] }))

/-- A store to the announce window: 128 bytes, aligned (R279). -/
def announceStore (w : Who) (off : Nat) (d : List Byte) : OpM Unit :=
  if d.length == 128 && off % 128 == 0 then announceOp w d else failWith stFormat

/-! Leaf values (R280). -/

/-- A row of a tensor: its elements' bytes, then those of its scales. -/
def TDesc.rowReads (d : TDesc) (m : Nat) : List (Nat × Nat) :=
  (d.rowAddr m, d.rowBytes) :: (if d.fmt.isMx then [(d.scalePlane + d.blockOf d.blockDim m 0, d.blockOf d.blockDim m (d.ext0 - 1) + 1 - d.blockOf d.blockDim m 0)]
    else [])

/-- The values of a row from its bytes, each element with its block's scale. -/
def TDesc.rowValues (d : TDesc) (m : Nat) (b : List Byte) : List FV :=
  let codes := unpackCodes d.fmt.elemBits d.ext0 0 (b.take d.rowBytes)
  let sc := b.drop d.rowBytes
  if d.fmt.isMx then codes.mapIdx (fun j x => d.value (x, (sc.getD (d.blockOf d.blockDim m j - d.blockOf d.blockDim m 0) 0#8).toNat))
  else codes.map (fun x => d.value (x, 127))

/-- The descriptor of an announced part, its format resolved under its step (R69, R279). -/
def Core.partDesc (c : Core) (a : Announced) : TDesc :=
  let d := tdescOf (leNat a.desc)
  if d.code == 14 then
    match c.pickResolve (d.scale % 4096) a.step with
    | some (code, k, st) => { d with code := code, k := toSigned k 8, picked := true, stale := st }
    | none => { d with code := (c.pickSet (d.scale % 4096)).2.2.2.2, k := 0, picked := true, stale := true }
  else d

/-- One part's values in FP32 from its bytes, counted in the step statistics and kept (R280). -/
def leafTake (a : Announced) (b : List Byte) : OpM Unit := do
  let c ← get
  let d := c.partDesc a
  let sizes := (List.range d.rows).map (fun m => (d.rowReads m).foldl (fun n r => n + r.2) 0)
  let rows := (sizes.foldl (fun (acc : List (List Byte) × List Byte) n => (acc.1 ++ [acc.2.take n], acc.2.drop n)) ([], b)).1
  let vals := (rows.mapIdx (fun m r => d.rowValues m r)).flatten.map toF32
  let elems := vals.map (fun v => (0, 0, v))
  let g := gaugeOf false elems (elems.map (fun _ => (0, 0, ({ code := 0, scale := 127, outc := {} } : OutElem))))
  set ((c.feedStats d a.step g).modCru (fun x => { x with leafIn := x.leafIn ++ [(a, vals)] }))

/-- Lists of (hi, lo) combined element by element as close_group does, without its last addition (R280). -/
def leafPairs (parts : List (List Word32)) : List (Word32 × Word32) :=
  match parts with
  | [] => []
  | p :: _ => (List.range p.length).map (fun i => closePair (parts.map (fun q => (q.getD i 0#32, 0#32))))

/-- The rows of a table in the step's sparse row set (R280, Table 8-4). -/
def rowsetRows (base table : Nat) : OpM (List (Nat × List Word32)) := do
  let h ← blockNat base 64
  let rec go : Nat → Nat → OpM (List (Nat × List Word32))
    | 0, _ => pure []
    | n + 1, a => do
      let k ← blockNat a 16
      let w := bits k 95 64
      let b ← readLocal blockWho (a + 16) (4 * w)
      let rest ← go n (a + roundUp (16 + 4 * w) 64)
      pure (if bits k 7 0 == table then (bits k 63 32, wordsOf b) :: rest else rest)
  go (bits h 159 128) (base + 64)

/-- The ids of SPARSE matrices: entries that keep Table 10-1 and name a table of the row set. -/
def sparseIds : OpM (List Nat) := do
  let c ← get
  if c.stepRec.rowset == 0 then pure []
  else (List.range 1048576).filterM (fun id => do
    let n ← blockNat (c.inForce rMatrixBase + 128 * id) 128
    pure ((matrixOf n).ok && (matrixOf n).sparse))

/-- The tenant whose ring gave the step in progress (R439). -/
def Core.cruTenant (c : Core) : Nat := match c.crucible.origin with | some o => c.originTenant o | none => 0

/-- The parts announced for the step in progress by its own tenant: the Crucible serves no other tenant's matrices (Table 10-9). -/
def Core.stepParts (c : Core) : List Announced :=
  c.crucible.announced.filter (fun a => a.step == c.stepRec.step && (!c.twoTenant || a.tenant == c.cruTenant))

/-- The parts of the step, in ascending matrix and part order, that are still to be read. -/
def Core.leafTodo (c : Core) : List Announced :=
  sortBy (fun (x y : Announced) => decide (x.matrix < y.matrix) || (x.matrix == y.matrix && decide (x.part < y.part)))
    (c.stepParts.filter (fun a => !c.crucible.leafIn.any (fun p => p.1 == a)))

/-- The leaf values of the step: DENSE from complete parts in ascending part order, SPARSE from the row set (R280). -/
def leafValues (step : Nat) : OpM (List Accum) := do
  let c ← get
  let ids := (c.crucible.leafIn.map (fun p => p.1.matrix)).eraseDups
  let dense := ids.map (fun id =>
    ({ matrix := id, dense := some (leafPairs ((c.crucible.leafIn.filter (fun p => p.1.matrix == id)).map (fun p => p.2))) } : Accum))
  let sp ← sparseIds
  let sparse ← sp.mapM (fun id => do
    let m ← cruFault 0 1 step (readMatrix id)
    cruFault m.shard 1 step do
      let rows ← rowsetRows c.stepRec.rowset m.table
      pure { matrix := id, dense := none, sparse := sortBy (fun x y => decide (x.1 < y.1)) (rows.map (fun r => (r.1, r.2.map (fun v => (v, 0#32))))) : Accum })
  pure (dense ++ sparse.filter (fun a => !a.sparse.isEmpty))

/-! Rounds (R281 to R284). -/

/-- Rounds of a step: 1 + the base-16 logarithm of the nodes, rounded up (R282). -/
def rounds16 : Nat → Nat → Nat
  | 0, _ => 0
  | f + 1, n => if n ≤ 1 then 0 else 1 + rounds16 f (ceilDiv n 16)
def Core.roundCount (c : Core) : Nat := 1 + rounds16 8 (c.inForce rJobNodes)

/-- The node index of a device name in the job map, if it is in it (R277). -/
def Core.nodeIndex (c : Core) (name : Nat) : Option Nat :=
  findBelow (c.inForce rJobNodes) (fun i => c.jobEntry i % 2 ^ 16 / 8 == name % 2 ^ 16 / 8)

/-- node_vertex (R282): the position of a node's vertex for an owner's position. -/
def nodeVertex (mask po : Nat) : Option Nat := ((List.range 8).map (fun d => (po + d) % 8)).find? (fun p => bit mask p)

/-- The receiver of this device in a round of a matrix whose owner 0 is `owner`, if it sends (R282). -/
def Core.cruParent (c : Core) (owner j : Nat) : Option Nat :=
  let me := c.selfName
  match c.nodeIndex me, c.nodeIndex owner with
  | some n, some no =>
    let e := c.jobEntry n
    match nodeVertex (bits e 23 16) (owner % 8) with
    | none => none
    | some pv =>
      if j == 1 then if me % 8 == pv then none else some (e % 2 ^ 16 + pv)
      else if me % 8 != pv then none
      else
        let nodes := c.inForce rJobNodes
        let q := (n + nodes - no) % nodes
        let sh := 4 * (j - 2)
        if (q >>> sh) % 16 != 0 && q % 2 ^ sh == 0 then
          let e2 := c.jobEntry ((q - ((q >>> sh) % 16) <<< sh + no) % nodes)
          (nodeVertex (bits e2 23 16) (owner % 8)).map (fun p => e2 % 2 ^ 16 + p)
        else none
  | _, _ => none

/-- This device's senders in a round of a matrix, in the order of combination (R283). -/
def Core.cruSenders (c : Core) (owner j : Nat) : List Nat :=
  let me := c.selfName
  match c.nodeIndex me, c.nodeIndex owner with
  | some n, some no =>
    let e := c.jobEntry n
    match nodeVertex (bits e 23 16) (owner % 8) with
    | none => []
    | some pv =>
      if me % 8 != pv then []
      else if j == 1 then
        (((List.range 7).map (fun d => (pv + 1 + d) % 8)).filter (fun p => bit (bits e 23 16) p)).map (fun p => e % 2 ^ 16 + p)
      else
        let nodes := c.inForce rJobNodes
        let q := (n + nodes - no) % nodes
        let sh := 4 * (j - 2)
        if q % 2 ^ (sh + 4) != 0 then []
        else ((List.range 15).map (fun d => q + (d + 1) <<< sh)).filterMap (fun r =>
          if nodes ≤ r then none
          else
            let e2 := c.jobEntry ((r + no) % nodes)
            (nodeVertex (bits e2 23 16) (owner % 8)).map (fun p => e2 % 2 ^ 16 + p))
  | _, _ => []

/-- Whether an accumulated value is present (R280, R281). -/
def Accum.present (a : Accum) : Bool := a.dense.isSome || !a.sparse.isEmpty

/-- The chunks of a contribution (R281): for SPARSE the present rows go with the first chunk. -/
def contribChunks (a : Accum) (m : MatrixEnt) (round sender : Nat) (owner : Bool) : List ContribF :=
  let vals : List (Word32 × Word32) := match a.dense with
    | some v => v
    | none => a.sparse.flatMap (fun r => r.2)
  let wire (p : Word32 × Word32) : Word32 × Word32 := if m.wireF32 then (fadd p.1 p.2, 0#32) else p
  let cs := chunks 8192 (vals.map wire)
  cs.mapIdx (fun i v => { matrix := a.matrix, round := round, owner := owner, sender := sender, chunk := i, absent := false,
                          last := i + 1 == cs.length, rows := if i == 0 then a.sparse.map (·.1) else [], vals := v })

/-- The fields of a contribution chunk (R281; entry 24), and its bytes: row ids, then pairs or closed values. -/
def contribFields (f : ContribF) : Nat :=
  place f.matrix 20 0 + place f.round 4 20 + place (b2n f.owner) 1 24 + place (b2n f.absent) 1 25 + place (b2n f.last) 1 26
    + place f.chunk 32 32 + place f.rows.length 32 64
def contribBytes (wire32 : Bool) (f : ContribF) : List Byte :=
  f.rows.flatMap (leBytes 4 ·) ++ f.vals.flatMap (fun p => if wire32 then leBytes 4 p.1.toNat else leBytes 4 p.1.toNat ++ leBytes 4 p.2.toNat)

/-- Bytes of a contribution's frames: the matrix entry says whether pairs go closed. -/
def Core.contribLength (c : Core) (f : ContribF) : Nat :=
  match (readMatrix f.matrix).run c with
  | .ok m _ => (contribBytes m.wireF32 f).length
  | .error _ _ => (contribBytes false f).length

/-- A contribution sent to a device. -/
def sendContrib (m : MatrixEnt) (dst : Nat) (l : List ContribF) : OpM Unit :=
  l.forM (fun f => sendBlock opContrib dst 0 (contribFields f) (contribBytes m.wireF32 f))

/-- A matrix with the owner of its shard that the tree is rooted at. -/
def matrixOwner (id step : Nat) : OpM (MatrixEnt × ShardRec × Nat) := do
  let m ← cruFault 0 1 step (readMatrix id)
  let s ← cruFault m.shard 1 step (readShard m.shard)
  pure (m, s, s.owners.headD 0)

/-- Two lists of pairs combined (R283). -/
def combinePairs (a b : List (Word32 × Word32)) : List (Word32 × Word32) :=
  List.zipWith (fun x s => let y := compAdd x s.1; (y.1, fadd y.2 s.2)) a b

/-- A contribution combined into an accumulated value; an absent one takes it as it is (R283). -/
def Accum.combine (a b : Accum) : Accum :=
  match a.dense, b.dense with
  | some x, some y => { a with dense := some (combinePairs x y) }
  | none, some y => { a with dense := some y }
  | _, none =>
    { a with sparse := b.sparse.foldl (fun m r => match kvGet m r.1 with
        | some x => kvPut m r.1 (combinePairs x r.2)
        | none => kvPut m r.1 r.2) a.sparse }

/-- A contribution put together from its chunks. -/
def assemble (m : MatrixEnt) (id : Nat) (l : List ContribF) : Accum :=
  let cs := sortBy (fun (x y : ContribF) => decide (x.chunk < y.chunk)) l
  let vals := cs.flatMap (·.vals)
  if m.sparse then
    { matrix := id, dense := none, sparse := ((cs.flatMap (·.rows)).zip (chunks m.cols vals)).map (fun p => (p.1, p.2)) }
  else { matrix := id, dense := some vals }

/-- The accumulated value of a matrix. -/
def Core.accum (c : Core) (id : Nat) : Accum := (c.crucible.acc.find? (fun a => a.matrix == id)).getD { matrix := id, dense := none }
def Core.setAccum (c : Core) (a : Accum) : Core :=
  c.modCru (fun x => { x with acc := (x.acc.filter (fun b => b.matrix != a.matrix)) ++ [a] })

/-- The Crucible's or the picker's arrival at a Roll call, which must be of the step's own tenant (R314). -/
def cruArrive (ctx : Nat) (p : Party) (red : Nat) (payload : List Byte) : OpM Unit := do
  let c ← get
  let _ ← rollArriveAs c.cruTenant ctx p red none payload 0

/-- This device's part in the sending of a round (R281, R282). It arrives at the drain Roll call once every contribution has been delivered (R284, R321;
entry 71). -/
def sendRound (j : Nat) : OpM Unit := do
  let c ← get
  let r := c.stepRec
  let ns ← (c.crucible.acc.filter (·.present)).mapM (fun a => do
    let (m, _, owner) ← matrixOwner a.matrix r.step
    match c.cruParent owner j with
    | some p => do
      let l := contribChunks a m j c.selfName false
      cruFault m.shard 1 r.step (sendContrib m p l)
      pure l.length
    | none => pure 0)
  let n := ns.foldl (· + ·) 0
  update (fun c => c.modCru (fun x => { x with unfenced := n }))
  if n == 0 then cruArrive r.drainCtx .crucible 0 (List.replicate 64 0#8) else pure ()

/-- A contribution of the round has been delivered; with the last one the device arrives at the drain Roll call (R284). -/
def contribDelivered : OpM Unit := do
  let c ← get
  let n := c.crucible.unfenced
  set (c.modCru (fun x => { x with unfenced := n - 1 }))
  match c.crucible.phase with
  | .round _ => if n == 1 then cruArrive c.stepRec.drainCtx .crucible 0 (List.replicate 64 0#8) else pure ()
  | _ => pure ()

/-! Staging (R285). -/

/-- Whether a chunk is in its turn: its round is running, every sender before its own has ended, and the chunks before it have come. -/
def contribTurn (f : ContribF) : OpM Bool := do
  let c ← get
  if c.crucible.phase != .round f.round then pure false
  else do
    let (_, _, owner) ← matrixOwner f.matrix c.stepRec.step
    let before := (c.cruSenders owner f.round).takeWhile (· != f.sender)
    let mine (s : Nat) (p : ContribF → Bool) : Bool := c.crucible.inbox.any (fun x => !x.owner && x.matrix == f.matrix && x.round == f.round && x.sender == s && p x)
    pure (before.all (fun s => mine s (fun x => x.last)) && (f.chunk == 0 || mine f.sender (fun x => x.chunk + 1 == f.chunk)))


/-- A sender's share of the staging: one of 7 in round 1, else one of 15. -/
def Core.stageShare (c : Core) (round : Nat) : Nat := c.inForce rStageBytes / (if round == 1 then 7 else 15)

/-- A chunk taken in, where it is in its turn or its sender's share has room for it; its sender is told that it has been delivered. -/
def stageContrib (f : ContribF) : OpM Bool := do
  let c ← get
  let turn ← contribTurn f
  let staged ← (c.crucible.inbox.filter (fun x => !x.owner && x.sender == f.sender)).filterM (fun x => do
    let t ← contribTurn x
    pure !t)
  if turn || decide (c.contribLength f + (staged.map c.contribLength).foldl (· + ·) 0 ≤ c.stageShare f.round) then do
    update (fun c => (c.modCru (fun x => { x with inbox := x.inbox ++ [f] })).answerFrame f.sender f.round opContrib stOk)
    pure true
  else pure false

/-- The first of the waiting chunks that can be taken in now: whether there was one. -/
def admitFirst : List ContribF → List ContribF → OpM Bool
  | _, [] => pure false
  | seen, f :: rest => do
    if ← stageContrib f then do
      update (fun c => c.modCru (fun x => { x with stageHeld := seen ++ rest }))
      pure true
    else admitFirst (seen ++ [f]) rest

/-- Chunks that wait on their sender's share taken in as it frees, the oldest first. -/
def admitHeld : Nat → OpM Unit
  | 0 => pure ()
  | n + 1 => do
    let c ← get
    if ← admitFirst [] c.crucible.stageHeld then admitHeld n else pure ()

/-- Everything that came for a round combined in its fixed order (R283). -/
def combineRound (j : Nat) : OpM Unit := do
  let c ← get
  let r := c.stepRec
  let mine := c.crucible.inbox.filter (fun f => f.round == j && !f.owner)
  (mine.map (·.matrix)).eraseDups.forM (fun id => do
    let (m, _, owner) ← matrixOwner id r.step
    let c ← get
    let a := (c.cruSenders owner j).foldl (fun a s =>
      let l := mine.filter (fun f => f.matrix == id && f.sender == s && !f.absent)
      if l.isEmpty then a else a.combine (assemble m id l)) (c.accum id)
    set (c.setAccum a))
  update (fun c => c.modCru (fun x => { x with inbox := x.inbox.filter (fun f => f.owner || f.round != j) }))

/-- The closed gradient of an accumulated value: hi + lo, to nearest (R283). -/
def Accum.close (a : Accum) : Accum :=
  let cl (p : Word32 × Word32) : Word32 × Word32 := (fadd p.1 p.2, 0#32)
  { a with dense := a.dense.map (·.map cl), sparse := a.sparse.map (fun r => (r.1, r.2.map cl)) }

/-- The reduced gradient of a matrix that this device owns. -/
def Core.reduced (c : Core) (id : Nat) : Option Accum := c.crucible.reduced.find? (fun a => a.matrix == id)
def Core.setReduced (c : Core) (a : Accum) : Core :=
  c.modCru (fun x => { x with reduced := (x.reduced.filter (fun b => b.matrix != a.matrix)) ++ [a] })

/-! Owners, tie pass, Quench (R286 to R292). -/

/-- Owner 0 closes the gradients of its shards and sends them down the broadcast tree of the owners (R283, R286, R332). -/
def ownerCopies : OpM Unit := do
  let c ← get
  let r := c.stepRec
  let shards ← ownedShards
  shards.forM (fun sh => cruFault sh 2 r.step do
    let s ← readShard sh
    let ids ← shardMatrices s
    if c.ownerIndex s == some 0 then
      ids.forM (fun id => do
        let m ← readMatrix id
        let a := (c.accum id).close
        update (fun c => c.setReduced a)
        let others := bcastChildren s.owners (s.owners.headD 0)
        others.forM (fun o =>
          if a.present then sendContrib m o (contribChunks a m 0 c.selfName true)
          else sendContrib m o [{ matrix := id, round := 0, owner := true, sender := c.selfName, chunk := 0, absent := true, last := true,
                                  rows := [], vals := [] }]))
    else pure ())

/-- Whether all chunks of an owner copy are here. -/
def copyWhole (l : List ContribF) : Bool :=
  l.any (fun f => f.last && l.length == f.chunk + 1)

/-- Owner copies that are whole become reduced gradients (R286). -/
def takeCopies : OpM Unit := do
  let c ← get
  let l := c.crucible.inbox.filter (·.owner)
  (l.map (·.matrix)).eraseDups.forM (fun id => do
    let mine := l.filter (fun f => f.matrix == id)
    if copyWhole mine then do
      let m ← readMatrix id
      let a : Accum := if mine.any (·.absent) then { matrix := id, dense := none } else assemble m id mine
      update (fun c => (c.setReduced a).modCru (fun x => { x with inbox := x.inbox.filter (fun f => !(f.owner && f.matrix == id)) }))
    else pure ())

/-- Every matrix of the owned shards: shard, record, position in it, id, entry. -/
def ownedMatrices : OpM (List (Nat × ShardRec × Nat × Nat × MatrixEnt)) := do
  let c ← get
  let shards ← ownedShards
  let l ← shards.mapM (fun sh => cruFault sh 2 c.stepRec.step do
    let s ← readShard sh
    let ids ← shardMatrices s
    (ids.mapIdx (fun q id => (q, id))).mapM (fun (p : Nat × Nat) => do
      let m ← readMatrix p.2
      pure (sh, s, p.1, p.2, m)))
  pure l.flatten

/-- A gradient as FP32 values of its elements. -/
def Accum.values (a : Accum) : List Word32 :=
  let v : List (Word32 × Word32) := match a.dense with
    | some v => v
    | none => a.sparse.flatMap (fun r => r.2)
  v.map (fun p => p.1)

/-- The gradients of a tied set combined by close_group in ascending use number; absent uses skipped (R288). -/
def tieCombine (id : Nat) (uses : List Accum) : Accum :=
  let present := uses.filter (·.present)
  match present with
  | [] => { matrix := id, dense := none }
  | a :: _ =>
    if a.dense.isSome then
      { matrix := id, dense := some ((List.range a.values.length).map (fun i =>
          (closeGroup (present.map (fun u => (u.values.getD i 0#32, 0#32))), 0#32))) }
    else
      let rows := sortBy (fun x y => decide (x < y)) (present.flatMap (fun u => u.sparse.map (·.1))).eraseDups
      { matrix := id, dense := none, sparse := rows.map (fun r =>
          let ls := present.filterMap (fun u => kvGet u.sparse r)
          (r, (List.range (ls.headD []).length).map (fun i => (closeGroup (ls.map (fun l => ((l.getD i (0#32, 0#32)).1, 0#32))), 0#32)))) }

/-- The tie pass over the owned shards, which become REDUCED (R288, Table 10-7 step 2). -/
def tiePass : OpM Unit := do
  let ms ← ownedMatrices
  let lead := ms.filter (fun x => x.2.2.2.2.tieUses != 0 && x.2.2.2.2.tieUse == 0)
  lead.forM (fun x => do
    let set := sortBy (fun (a b : Nat × Nat) => decide (a.1 < b.1))
      ((ms.filter (fun y => y.1 == x.1 && y.2.2.2.2.tieUses != 0 && y.2.2.2.2.tieSet == x.2.2.2.2.tieSet)).map (fun y => (y.2.2.2.2.tieUse, y.2.2.2.1)))
    update (fun c => c.setReduced (tieCombine x.2.2.2.1 (set.map (fun u => (c.reduced u.2).getD { matrix := u.2, dense := none })))))
  let c ← get
  (ms.map (·.1)).eraseDups.forM (fun sh => cruFault sh 2 c.stepRec.step do
    let s ← readShard sh
    writeShard sh s.digest s.lastStep 1 s.epoch)

/-- One element's part of the square sum: the floor of g squared times 2^128 (R290). -/
def squareUnits (g : Word32) : Nat :=
  match f32V g with
  | .fin _ m e => shiftZ (m * m) (2 * e + 128)
  | _ => 0

/-- The payload of the Quench Roll call (R290). -/
def quenchPayload : OpM (List Byte) := do
  let ms ← ownedMatrices
  let c ← get
  let grads := ms.filterMap (fun x => (c.reduced x.2.2.2.1).map (fun a => (x, a)))
  let bad := spGet 0 c.crucible.nonFinite (c.stepRec.step % 2) != 0 || grads.any (fun p => p.2.values.any (fun v => !f32Finite v))
  let q := (grads.filter (fun p => c.ownerIndex p.1.2.1 == some 0 && p.1.2.2.2.2.leads && !p.1.2.2.2.2.frozen)).foldl
    (fun a p => p.2.values.foldl (fun a v => a + squareUnits v) a) 0
  let q := min q (2 ^ 240 - 1)
  pure (leBytes 4 (b2n bad) ++ (List.range 15).flatMap (fun i => leBytes 4 ((q >>> (16 * i)) % 2 ^ 16)))

/-- T of the closed Quench Roll call (R290). -/
def quenchTotal (payload : List Byte) : Nat :=
  ((unpackCodes 32 16 0 payload).drop 1).mapIdx (fun i v => v <<< (16 * i)) |>.foldl (· + ·) 0

/-- Whether T times 2^-128 exceeds the square of an FP32 bound that is finite and not 0 (R291). -/
def normAbove (t : Nat) (bound : Word32) : Bool :=
  match f32V bound with
  | .fin _ m e => m != 0 && magLt (m * m) (2 * e) t (-128)
  | _ => false

/-- The verdict QUENCH (R291). -/
def quenchVerdict (r : StepRec) (payload : List Byte) : Bool :=
  leNat (payload.take 4) != 0 || normAbove (quenchTotal payload) r.limit

/-- The clip factor of a committed step, if it is clipped (R291). -/
def clipOf (r : StepRec) (payload : List Byte) : Option Word32 :=
  if normAbove (quenchTotal payload) r.clip then
    some (fdiv r.clip (fsqrt (toF32 (.fin false (quenchTotal payload) (-128)))))
  else none

/-- The gather-group records of the step: group, Tally, matrices (R306). -/
def gatherGroups : OpM (List (Nat × Nat × Nat)) := do
  let c ← get
  let r := c.stepRec
  let b ← readLocal blockWho r.groups (16 * r.gatherCount)
  pure ((unpackCodes 128 r.gatherCount 0 b).map (fun n => (bits n 15 0, bits n 31 16, bits n 63 32)))

/-- The step's end: the accumulator cleared, the staged parts of the step gone (R292, Table 10-7 step 9). -/
def Core.stepEnd (c : Core) (counter : Nat) : Core :=
  let s := c.stepRec.step
  (c.bump (kCru counter)).modCru (fun x =>
    { x.idled with nonFinite := spPut 0 x.nonFinite (s % 2) 0, announced := x.announced.filter (fun a => a.step != s), restored := none, lastDone := some s })

/-- The record's origin kept for its completion. -/
def stepComplete (status counter : Nat) : OpM Unit := do
  let c ← get
  let o := c.crucible.origin
  let c := c.stepEnd counter
  match o with
  | some o => set (c.complete o status 0)
  | none => set c
  serveReady

/-- What a QUENCH verdict does (R292, R66). -/
def quenchStep : OpM Unit := do
  let c ← get
  let s := c.stepRec.step
  let shards ← ownedShards
  shards.forM (fun sh => cruFault sh 4 s do
    let r ← readShard sh
    writeShard sh r.digest s 0 r.epoch)
  update (fun c => (c.modCru (fun x => { x with quenched := some s })).pickFinish s false)
  let gs ← gatherGroups
  gs.forM (fun g => signalAs c.cruTenant g.2.1 1)
  stepComplete stQuenched 1

/-! Commit (R293 to R304). -/

/-- A gradient row or matrix scaled by the clip factor (R291). -/
def clipped (f : Option Word32) (v : Word32) : Word32 := match f with | some k => fmul v k | none => v

/-- The alternate slot of a matrix: its bytes, and whether its master changed (R295 to R299). -/
def nextSlot (s : ShardRec) (m : MatrixEnt) (a : Accum) (step : Nat) (decay : Bool) (clip : Option Word32) : OpM (List Byte × Bool) := do
  let c ← get
  let r := c.rule m.rule
  let (_, img, fin) := m.layout r.op
  let old ← readLocal blockWho (m.slotAt s.epoch) fin
  let head (x : SlotState) : List Byte := slotHeader x.t x.pow1 x.pow2 step
  let st := slotStateOf m r.op old
  let stay (x : SlotState) : List Byte := layPlanes (head x) (x.planes r.op) |> fun b => b ++ List.replicate (img - b.length) 0#8 ++ old.drop img
  if m.frozen || (!a.present && !decay) then pure (stay st, false)
  else if !a.present then do
    let x := updateRows r true st (fun _ => none)
    require x.finite stFormat
    pure (stay x, false)
  else do
    let x := match a.dense with
      | some v => updateDense r m.rows m.cols st (chunks m.cols (v.map (fun p => clipped clip p.1)))
      | none => updateRows r decay (st.advance r) (fun i => (kvGet a.sparse i).map (fun l => l.map (fun p => clipped clip p.1)))
    require x.finite stFormat
    pure (layPlanes (head x) (x.planes r.op ++ newImage m s.seed step x.w), true)

/-- Phase 1: every alternate slot written, digests formed, shards WRITTEN (Table 10-7 step 5, R302, R303). -/
def phaseOne : OpM Unit := do
  let c ← get
  let step := c.stepRec.step
  let decay := c.inForce rNoVisit == 0
  let shards ← ownedShards
  shards.forM (fun sh => cruFault sh 5 step do
    let s ← readShard sh
    let ids ← shardMatrices s
    let key := digestKey sh step
    let h ← (ids.mapIdx (fun q id => (q, id))).foldlM (fun h (p : Nat × Nat) => do
      let m ← readMatrix p.2
      if !m.leads then pure h
      else do
        let c ← get
        let a := (c.reduced p.2).getD { matrix := p.2, dense := none }
        let (b, ch) ← nextSlot s m a step decay c.crucible.clipFactor
        blockPut (m.slotAt (1 - s.epoch)) b
        update (fun c => if a.present then c else c.bump (kCru 3))
        update (fun c => c.modCru (fun x => { x with changed := if ch then p.2 :: x.changed else x.changed }))
        pure (digestWords key p.1 b h)) 0
    let d := digestEnd key h
    update (fun c => c.modCru (fun x => { x with digests := kvPut x.digests sh d }))
    writeShard sh d s.lastStep 2 s.epoch)

/-- The payload of a digest Roll call (R304). -/
def digestPayload (d step : Nat) : List Byte :=
  leBytes 8 d ++ leBytes 8 (2 ^ 64 - 1 - d) ++ leBytes 8 step ++ leBytes 8 (2 ^ 64 - 1 - step) ++ List.replicate 32 0#8

/-- Whether the result of a digest Roll call passes (R304). -/
def digestPasses (p : List Byte) : Bool :=
  let v (i : Nat) : Nat := leNat ((p.drop (8 * i)).take 8)
  v 0 + v 1 == 2 ^ 64 - 1 && v 2 + v 3 == 2 ^ 64 - 1

/-- Phase 2: every owned shard flipped (Table 10-7 step 7). -/
def phaseTwo : OpM Unit := do
  let c ← get
  let step := c.stepRec.step
  let shards ← ownedShards
  shards.forM (fun sh => cruFault sh 7 step do
    let s ← readShard sh
    writeShard sh s.digest step 0 (1 - s.epoch))

/-! Gather (R305, R306). -/

/-- The members of a gather-list entry, in ascending position. -/
def gatherMembers (e : Nat) : List Nat := nodeNames e

/-- A granule or marker on its way to a member; a member that is this device takes it here. -/
def gatherFields (f : GatherF) : Nat := place f.matrix 20 0 + place f.step 32 32 + place f.index 32 64 + place (b2n f.noChange) 1 96

/-- Whether the device has begun a step: its record is in hand. -/
def Core.stepBegun (c : Core) (step : Nat) : Bool :=
  c.stepRec.step == step && (c.crucible.phase != .idle || c.crucible.lastDone == some step)

/-- A matrix whose image lands must have its group listed in the step's record (R306). -/
def groupListed (group : Nat) : OpM Unit := do
  let gs ← gatherGroups
  require (gs.any (fun g => g.1 == group)) stFormat

/-- A gather granule or marker at a member (R305): written, recorded, and the matrix finished with its last granule. -/
def landGather (f : GatherF) : OpM Unit := do
  let c ← get
  let m ← cruFault 0 8 f.step (readMatrix f.matrix)
  cruFault m.shard 8 f.step do
    let op := (c.rule m.rule).op
    let total := ceilDiv (m.imageBytes op) 4096
    if f.noChange then update (fun c => c.modCru (fun x => { x with finished := kvPut x.finished f.matrix f.step }))
    else do
      blockPut (m.copyBase + 4096 * f.index) (f.data.take 4096)
      let old := (kvGet c.crucible.landed f.matrix).getD []
      let got := if old.contains f.index then old else f.index :: old
      update (fun c => c.modCru (fun x => { x with landed := kvPut x.landed f.matrix got }))
      if total ≤ got.length then do
        if c.stepBegun f.step then groupListed m.group
        else if c.crucible.lastRun.all (fun s => decide (s < f.step)) then
          update (fun c => c.modCru (fun x => { x with imaged := x.imaged ++ [(f.matrix, f.step)] }))
        else pure ()
        update (fun c => c.modCru (fun x => { x with finished := kvPut x.finished f.matrix f.step, landed := kvDel x.landed f.matrix }))
      else pure ()

/-- One served entry of a gather list: the image in pieces to its members, or markers (R305). -/
def serveGather (_m : MatrixEnt) (id step entry : Nat) (img : Option (List Byte)) : OpM Unit := do
  let c ← get
  let ms := gatherMembers entry
  let send (dst : Nat) (f : GatherF) : OpM Unit :=
    if c.isSelf dst then landGather f else sendBlock opGather dst 0 (gatherFields f) f.data
  match img with
  | none => ms.forM (fun d => send d { matrix := id, step := step, sender := c.selfName, noChange := true, index := 0, data := [] })
  | some b => do
    let gr := chunks 4096 b
    (ms.mapIdx (fun i d => (i, d))).forM (fun (p : Nat × Nat) => do
      let lo := gr.length * p.1 / ms.length
      let hi := gr.length * (p.1 + 1) / ms.length
      ((List.range (hi - lo)).map (lo + ·)).forM (fun k => do
        let f : GatherF := { matrix := id, step := step, sender := c.selfName, noChange := false, index := k, data := gr.getD k [] }
        send p.2 f
        if c.isSelf p.2 then (ms.filter (fun d => !c.isSelf d)).forM (fun d => sendBlock opGather d 0 (gatherFields f) f.data) else pure ()))

/-- The owners' part of the gather (R305). -/
def gatherSend : OpM Unit := do
  let c ← get
  let step := c.stepRec.step
  let ms ← ownedMatrices
  (ms.filter (fun x => x.2.2.2.2.leads)).forM (fun x => cruFault x.1 8 step do
    let m := x.2.2.2.2
    let b ← readLocal blockWho m.gatherList (4 * m.gatherNodes)
    let s ← readShard x.1
    let me := (c.ownerIndex s).getD 0
    ((unpackCodes 32 m.gatherNodes 0 b).mapIdx (fun j e => (j, e))).forM (fun (p : Nat × Nat) =>
      if p.1 % s.owners.length == me then do
        let img ← if c.crucible.changed.contains x.2.2.2.1 then (do let i ← readImage s m; pure (some i)) else pure none
        serveGather m x.2.2.2.1 step p.2 img
      else pure ()))

/-- Gather Tallies whose matrices are all finished are signalled; with the last one the step completes (R306, Table 10-7). -/
def gatherCheck : OpM Unit := do
  let c ← get
  if c.crucible.phase != .gather then pure ()
  else do
    let step := c.stepRec.step
    let gs ← gatherGroups
    let done := (c.crucible.finished.filter (fun p => p.2 == step)).map (·.1)
    let ents ← done.mapM (fun id => do
      let m ← cruFault 0 8 step (readMatrix id)
      pure m.group)
    gs.forM (fun g => do
      let c ← get
      if c.crucible.gatherSignalled.contains g.1 then pure ()
      else if (ents.filter (· == g.1)).length < g.2.2 then pure ()
      else do
        set (c.modCru (fun x => { x with gatherSignalled := g.1 :: x.gatherSignalled }))
        signalAs c.cruTenant g.2.1 1)
    let c ← get
    if gs.all (fun g => c.crucible.gatherSignalled.contains g.1) then stepComplete stOk 0 else pure ()

/-! Phases (Table 10-7). -/

def setPhase (p : CruPhase) : OpM Unit := update (fun c => c.modCru (fun x => { x with phase := p }))

/-- Steps 7 and 8: flips, then the gather. -/
def finishCommit : OpM Unit := do
  phaseTwo
  setPhase .gather
  gatherSend
  gatherCheck

/-- Step 6 from the k-th owned shard on: a shard with one owner passes at once, another arrives at its Roll call (R304). -/
def checkFrom (step : Nat) : List Nat → OpM Unit
  | [] => finishCommit
  | sh :: rest => do
    let s ← cruFault sh 6 step (readShard sh)
    if s.owners.length == 1 then checkFrom step rest
    else do
      setPhase (.check sh)
      let c ← get
      cruArrive s.ctx .crucible 2 (digestPayload (spGet 0 c.crucible.digests sh) step)

/-- Step 5 and the start of step 6. -/
def commitStep : OpM Unit := do
  phaseOne
  let c ← get
  let shards ← ownedShards
  checkFrom c.stepRec.step shards

/-- Picker call i, or the end of the picker's step and phase 1 (R65, R68). -/
def pickerFrom (i : Nat) : OpM Unit := do
  let c ← get
  let step := c.stepRec.step
  if c.pickEnabled.length ≤ 32 * i then do
    set (c.pickFinish step true)
    commitStep
  else do
    setPhase (.picker i)
    cruArrive (c.inForce rPickerCtx) .picker 2 (c.pickPayload i step)

/-- Step 3: the arrival at the Quench Roll call (R290). -/
def quenchArrive : OpM Unit := do
  tiePass
  setPhase .quench
  let p ← quenchPayload
  let c ← get
  cruArrive c.stepRec.quenchCtx .crucible 1 p

/-- Step 2: waits for the owner copies of every matrix of an owned shard (R286). -/
def ownersCheck : OpM Unit := do
  let c ← get
  if c.crucible.phase != .owners then pure ()
  else do
    takeCopies
    let ms ← ownedMatrices
    let c ← get
    if ms.all (fun x => (c.reduced x.2.2.2.1).isSome) then quenchArrive else pure ()

/-- The end of round j: the next round, or the owners' step (R284). -/
def roundEnd (j : Nat) : OpM Unit := do
  combineRound j
  update (fun c => c.modCru (fun x => { x with drained := false }))
  let c ← get
  if j < c.roundCount then do
    setPhase (.round (j + 1))
    admitHeld c.crucible.stageHeld.length
    sendRound (j + 1)
  else do
    ownerCopies
    setPhase .owners
    ownersCheck

/-- A round ends once its drain Roll call has closed and every chunk of every sender that sent is here (R284). -/
def roundCheck : OpM Unit := do
  let c ← get
  let whole (j : Nat) : Bool :=
    let l := c.crucible.inbox.filter (fun f => !f.owner && f.round == j)
    l.all (fun f => copyWhole (l.filter (fun x => x.matrix == f.matrix && x.sender == f.sender)))
  match c.crucible.phase with
  | .round j => if c.crucible.drained && whole j && !c.crucible.stageHeld.any (fun f => f.round == j) then roundEnd j else pure ()
  | _ => pure ()

/-- A Roll call of the Crucible or the picker closes. -/
def crucibleRolled (payload : List Byte) : OpM Unit := do
  let c ← get
  let r := c.stepRec
  match c.crucible.phase with
  | .round _ => do
    set (c.modCru (fun x => { x with drained := true }))
    roundCheck
  | .quench =>
    if quenchVerdict r payload then quenchStep
    else do
      let k := clipOf r payload
      update (fun c => let c := if k.isSome then c.bump (kCru 2) else c; c.modCru (fun x => { x with clipFactor := k }))
      pickerFrom 0
  | .picker i => do
    set (c.pickAppend i payload)
    pickerFrom (i + 1)
  | .check sh => do
    cruFault sh 6 r.step (require (digestPasses payload) stReplicaDiverged)
    let shards ← ownedShards
    checkFrom r.step (shards.filter (fun x => decide (sh < x)))
  | _ => pure ()

/-- The leaf values are all here: the first round's contributions go out (Table 10-7 step 1). -/
def leafEnd : OpM Unit := do
  let c ← get
  let leaf ← leafValues c.stepRec.step
  update (fun c => c.modCru (fun x => { x with acc := leaf, leafIn := [] }))
  admitHeld c.crucible.stageHeld.length
  sendRound 1

/-- Parts read one after another, each with its key, wherever they lie (R280, R405); after the last one the round begins. -/
def leafGo : List Announced → OpM Unit
  | [] => leafEnd
  | a :: rest => do
    let m ← cruFault 0 1 a.step (readMatrix a.matrix)
    cruFault m.shard 1 a.step do
      let c ← get
      require (decide (a.tiles = m.tiles)) stFormat
      let d := c.partDesc a
      require (!badGlobal d.base) stFormat
      match ← readRanges { blockWho with key := d.key, keyed := true, tenant := c.cruTenant } (.leaf a) ((List.range d.rows).flatMap d.rowReads) with
      | none => pure ()
      | some b => do
        leafTake a b
        leafGo rest

/-- The bytes of a part that lies on another device have come. -/
def leafArrived (a : Announced) (b : List Byte) : OpM Unit := do
  leafTake a b
  let c ← get
  leafGo c.leafTodo

/-- A step record taken in: refused, or its first round begins (R300, Table 10-7 step 1). -/
def acceptStep (o : Origin) (data : List Byte) : OpM Unit := do
  let c ← get
  let n := leNat data
  let r := stepRecOf n
  let neg (w : Word32) : Bool := (f32V w).isNan || (f32V w).lt .zero
  let old := match c.crucible.lastRun with | some s => decide (r.step ≤ s) | none => false
  let owns ← if !r.rsvOk || old then pure true
    else do
      let b ← readLocal blockWho r.ownedList (4 * r.ownedCount)
      let ok ← (unpackCodes 32 r.ownedCount 0 b).mapM (fun sh => do
        let s ← readShard sh
        pure (c.ownerIndex s).isSome)
      pure (ok.all (fun x => x))
  let later (x : Crucible) : Option Nat := match x.lastRun with | some s => some (max s r.step) | none => some r.step
  if !r.rsvOk || old || neg r.limit || neg r.clip || !owns then
    set ((c.modCru (fun x => { x with lastRun := later x })).complete o stFormat 0)
  else do
    set (c.modCru (fun x => { x with phase := .round 1, record := n, origin := some o, lastRun := some r.step, finished := x.finished }))
    let shards ← ownedShards
    shards.forM (fun sh => cruFault sh 1 r.step do
      let s ← readShard sh
      let ids ← shardMatrices s
      ids.forM (fun id => do
        let m ← readMatrix id
        let e ← readRule m.rule
        require (e.ok m) stFormat))
    senseHub (c.inForce rJobmapBase) (4 * c.inForce rJobNodes)
    let c ← get
    c.stepParts.forM (fun a => do
      let m ← cruFault 0 1 r.step (readMatrix a.matrix)
      cruFault m.shard 1 r.step (require (decide (a.tiles = m.tiles)) stFormat))
    (c.crucible.imaged.filter (fun p => p.2 == r.step)).forM (fun p => do
      let m ← cruFault 0 8 r.step (readMatrix p.1)
      cruFault m.shard 8 r.step (groupListed m.group))
    update (fun c => c.modCru (fun x => { x with imaged := x.imaged.filter (fun p => p.2 != r.step) }))
    leafGo c.leafTodo

/-! Commands. -/

/-- A Crucible event, whose failures are Crucible faults of the step in hand. -/
def Core.runCrucible (c : Core) (op : OpM Unit) : Core :=
  c.runBlock clsOptimiser 0 0 (blame c.crucible.origin.toList op)

/-- An owner copy's chunk forwarded down the broadcast tree of the owners (R286, R332). -/
def forwardCopy (f : ContribF) : OpM Unit := do
  let c ← get
  let (m, s, _) ← matrixOwner f.matrix c.stepRec.step
  match c.selfIn s.owners with
  | some me => (bcastChildren s.owners me).forM (fun o => sendContrib m o [f])
  | none => pure ()

/-- A contribution chunk arrives (R283, R285): taken in, or waiting on its sender's share, which counts once. An owner copy's chunk goes on down its
tree (R286). -/
def takeContrib (f : ContribF) : OpM Unit := do
  if f.owner then do
    update (fun c => c.modCru (fun x => { x with inbox := x.inbox ++ [f] }))
    forwardCopy f
    ownersCheck
  else do
    let ok ← stageContrib f
    if ok then do
      let c ← get
      admitHeld c.crucible.stageHeld.length
    else update (fun c => (c.modCru (fun x => { x with stageHeld := x.stageHeld ++ [f] })).bump (kCru 4))
    roundCheck

/-- A granule from its owner is forwarded to the other members of the node; markers and forwarded granules are not (R305). -/
def forwardGather (f : GatherF) : OpM Unit := do
  let c ← get
  if f.noChange then pure ()
  else do
    let m ← cruFault 0 8 f.step (readMatrix f.matrix)
    let b ← readLocal blockWho m.gatherList (4 * m.gatherNodes)
    match (unpackCodes 32 m.gatherNodes 0 b).find? (fun e => (gatherMembers e).any c.isSelf) with
    | none => pure ()
    | some e => do
      let ms := gatherMembers e
      let g := ceilDiv (m.imageBytes (c.rule m.rule).op) 4096
      let i := (ms.findIdx? c.isSelf).getD 0
      let mine := decide (g * i / ms.length ≤ f.index) && decide (f.index < g * (i + 1) / ms.length)
      if mine then (ms.filter (fun d => !c.isSelf d)).forM (fun d => sendBlock opGather d 0 (gatherFields f) f.data) else pure ()

end Sys2Proof.Machine
end

