-- ==== Sys2Proof/Machine/Windows.lean ====
section
/-!
DEFINITION. Sys2Proof/Machine/Windows.lean: stores to any place of the local address map (Table 1-8), the atomic page (R411, R415).
-/

namespace Sys2Proof.Machine

/-! Atomics (R411, R415). -/

/-- The new value of a word of `w` bits (Table 14-6); none for a reserved op. -/
def atomicNew (aop w old a b : Nat) : Option Nat :=
  let a := a % 2 ^ w
  let b := b % 2 ^ w
  match aop with
  | 1 => some ((old + a) % 2 ^ w)
  | 2 => some (Nat.land old a)
  | 3 => some (Nat.lor old a)
  | 4 => some (Nat.xor old a)
  | 5 => some (max old a)
  | 6 => some (min old a)
  | 7 => some a
  | 8 => some (if old == a then b else old)
  | 9 => some (min (old + a) (2 ^ w - 1))
  | _ => none

/-- Bytes of an atomic's word. -/
def atomicBytes (wide : Bool) : Nat := if wide then 8 else 4

/-- An atomic applied at its home: the old value (R411). Only memory holds words for it; a reserved op is refused. -/
def applyAtomic (a : Nat) (wide : Bool) (aop opa opb : Nat) : OpM Nat := do
  let n := atomicBytes wide
  match ← placeOf a n with
  | .stacked x => go (.stacked x) n
  | .scratch h x => go (.scratch h x) n
  | .hub x => go (.hub x) n
  | _ => failWith stFormat a
where
  go (p : Place) (n : Nat) : OpM Nat := do
    let b ← readPlace p n
    match atomicNew aop (8 * n) (leNat b) opa opb with
    | none => failWith stFormat
    | some v => do
      writePlace p (leBytes n v)
      pure (leNat b)

/-- An atomic of this device on its own memory: checked against a region key, then applied (R403, R404). -/
def atomicLocal (w : Who) (a : Nat) (wide : Bool) (aop opa opb : Nat) : OpM Nat := do
  let a := a % 2 ^ 48
  let _ ← placeOf a (atomicBytes wide)
  checkKey w a (atomicBytes wide) .atomic
  applyAtomic a wide aop opa opb

/-- The reply of an atomic record and its signal, in that order (R415, R317). One on another device is a keyed store there (R403). -/
def atomicReply (w : Who) (reply doneTally : Nat) (signal : Bool) (old status : Nat) : OpM Unit := do
  let d := leBytes 16 (place old 64 0 + place status 8 64)
  checkGlobal reply
  let c ← get
  if c.isLocal reply then do
    writeLocal blockWho reply d
    if signal then signalFabric doneTally 1 else pure ()
  else storeRemote { w with actor := .block, slot := 9 } vcReq (if signal then .signalAfter doneTally else .store) reply d

/-- An atomic record taken in by the page (R415): refused, issued to its home, or applied here. A refusal at the target is answered in
the reply, whose old value is then a free value (entry 17), and is a fault of a Lesson's atomic (R405). -/
def atomicRecordOp (w : Who) (record : Nat) : OpM Unit := do
  let target := bits record 63 0
  let key := bits record 95 64
  let aop := bits record 99 96
  let wide := bit record 100
  let opa := bits record 191 128
  let opb := bits record 255 192
  let reply := bits record 319 256
  let done := bits record 335 320
  let signal := bit record 336
  require (bits record 511 337 == 0 && bits record 127 101 == 0 && reply % 16 == 0) stFormat
  let me : Who := { w with key := key, keyed := true }
  if signal then lentOff w else pure ()
  let c ← get
  if signal && !c.tallyOwned w.tenant done then refuseKey (0x500060000000 + 8 * done) opSignalTx
  else if target % atomicBytes wide != 0 || badGlobal target then
    throw { cls := clsFabric, status := stFormat, unit := addrName target, detail := opAtomic, addr := target }
  else if c.isLocal target then do
    let r ← tryCatch (do
        let v ← atomicLocal me target wide aop opa opb
        pure (v, (none : Option FaultReq)))
      (fun f => do
        let v ← freshWord
        pure (v.toNat, some f))
    match r.2 with
    | none => atomicReply me reply done signal r.1 stOk
    | some f => do
      atomicReply me reply done signal r.1 f.status
      match w.actor with
      | .hearth _ => throw f
      | _ => if f.cls == 0 || f.cls == clsKey then pure () else throw f
  else
    sendAtomic { w with key := key } (.atomicPage reply done signal)
      { op := opAtomic, dst := addrName target, addr := target, key := key, len := atomicBytes wide, aop := aop, wide := wide,
        opndA := opa, opndB := if aop == 8 then opb else 0 }

/-- A store to the atomic page: whole records at 64-byte boundaries, in their order (R415, entry 67). -/
def atomicStore (w : Who) (off : Nat) (d : List Byte) : OpM Unit :=
  if d.length % 64 == 0 && off % 64 == 0 && !d.isEmpty then (chunks 64 d).forM (fun r => atomicRecordOp w (leNat r)) else failWith stFormat

/-! Stores. -/

/-- A store to the intake window, after which the batches move on. -/
def intakeStores (w : Who) (off : Nat) (d : List Byte) : OpM Unit := do
  intakeStore w off d
  asBlock clsDispatch 0 0 bellowsPump

/-- Any other store to a combine window is a fault, a host descriptor's too (R229). -/
def combineFault {α : Type} : OpM α := throw { cls := clsAlways, status := stFormat }

/-- A store to a combine window: a frame record or a close record of a Hearth of the Smithy (R229). -/
def combineStore (w : Who) (s off : Nat) (d : List Byte) : OpM Unit :=
  match w.actor with
  | .hearth h => do
    refuseLent h
    if h / 4 == s && off == 0x200000 && d.length == 64 then frameStore h (leNat d)
    else if h / 4 == s && off == 0x200040 && d.length == 64 then closeStore h
    else combineFault
  | _ => combineFault

/-- Bytes stored to any address: memory, a window of this device, or another device (R26, R399). -/
def storeTo (w : Who) (vc a : Nat) (d : List Byte) : OpM Unit := do
  checkGlobal a
  let c ← get
  if d.isEmpty then pure ()
  else if !c.isLocal a then storeRemote w vc .store a d
  else do
    let a := a % 2 ^ 48
    let p ← placeOf a d.length
    let window (op : OpM Unit) : OpM Unit := do
      checkKey w a d.length .write
      senseWays w p d.length true
      op
    match p with
    | .stacked _ => writeLocal w a d
    | .scratch _ _ => writeLocal w a d
    | .hub _ => writeLocal w a d
    | .tally off => do
      lentOff w
      window (tallyStore w.tenant off d)
    | .intake off => window (intakeStores w off d)
    | .combine s off => window (combineStore w s off d)
    | .hashCtl off => do
      lentOff w
      window (if off == 0 && d.length == 64 then mergeOp w.tenant (leNat d) else failWith stFormat)
    | .announce off => window (announceStore w off d)
    | .pool off => window (poolStore w.tenant off d)
    | .atomic off => window (atomicStore w off d)
    | .hashTbl _ _ => do
      lentOff w
      failWith stFormat

end Sys2Proof.Machine
end

