-- ==== Sys2Proof/Machine/Lesson.lean ====
section
/-!
DEFINITION. Sys2Proof/Machine/Lesson.lean: what every operation of a Lesson shares: the Hearth's stop, the end of its member of an
OP_RUN (R22, R433), lent items' ends (R442, R443), split slots (R93 to R97), faults (R128) and issue (R124 to R127).
-/

namespace Sys2Proof.Machine

/-! Ends of runs. -/

/-- The data word of an OP_RUN's completion from its members' end codes in rank order (R433); a rank 0 that reached no END has a free
code (entry 17). -/
def runData (codes : List (Option Nat)) (free : Nat) : Nat :=
  if codes.isEmpty then 0
  else
    let z := (codes.headD none).getD (free % 256)
    match codes.findIdx? (fun c => match c with | some v => v != z | none => false) with
    | some i => z + 1 <<< 8 + place i 16 16
    | none => z + 0xFFFF <<< 16

/-- A run that started on one member which reached no END completes (R433). -/
def Core.completeStopped (c : Core) (o : Origin) (status : Nat) : Core :=
  ({ c with free := c.free + 1 } : Core).complete o status (runData [none] (Config.freeWord c.free).toNat)

/-- A group's status: that of its lowest-ranked member that is not ST_OK (R22). -/
def groupStatus (l : List Nat) : Nat := (l.find? (· != stOk)).getD stOk

/-- A claim of a ring on Hearths ends (R136). -/
def Core.endClaims (c : Core) (q r : Nat) (hs : List Nat) : Core :=
  hs.foldl (fun c h => c.modHearth h (fun x => if x.claim == some (q, r) then { x with claim := none } else x)) c

/-- A member of an OP_RUN ends; with the last one the descriptor completes (R22, R433). -/
def Core.memberEnd (c : Core) (o : Origin) (h : Nat) (code : Option Nat) (status : Nat) : Core :=
  let c := c.modRing o.port o.ring (fun x =>
    { x with started := modFirst (fun t => t.slot == o.slot) (fun t => { t with members := t.members ++ [(h, code, status)] }) x.started })
  match (c.ring o.port o.ring).started.find? (fun t => t.slot == o.slot) with
  | none => c
  | some t =>
    if t.members.length < t.hearths.length then c
    else
      let of (k : Nat) : Option Nat × Nat := match t.members.find? (fun m => m.1 == k) with | some m => m.2 | none => (none, stOk)
      let ends := t.hearths.map of
      let free := (Config.freeWord c.free).toNat
      let c := { c with free := c.free + 1 }
      (c.endClaims o.port o.ring t.hearths).complete o (groupStatus (ends.map (fun p => p.2))) (runData (ends.map (fun p => p.1)) free)

/-- A Hearth with its run and its units' work gone; what a run leaves behind stays. -/
def Hearth.stopped (x : Hearth) : Hearth :=
  { x with running := false, lentRun := none, ended := none, runOf := none, loops := [], groups := [], laneMaps := [], windows := [],
           wbq := [], yq := [], waitq := [], taking := none, loopDue := none, picked := [], stale := [] }

/-- Operations already issued are not completed (R128): reads under way are forgotten, waits and held frame records withdrawn. -/
def Core.stopHearth (c : Core) (h : Nat) : Core :=
  let c := (c.dropWaiter h).modHearth h Hearth.stopped
  { c with fabric := { c.fabric with xfers := c.fabric.xfers.filter (fun t => t.actor != .hearth h) },
           smithies := c.smithies.map (fun s => (s.1, { s.2 with held := s.2.held.filter (fun p => p.1 != h) })) }

/-- Every item in a Hearth's hands retires (R214). -/
def retireAll (h : Nat) : OpM Unit := do
  let c ← get
  ((c.hearth h).items.map (fun i => i.ring)).forM (retireItem h)
  update (fun c => c.modHearth h (fun x => { x with allocs := [] }))

/-- The groups still open at the end of a Lesson are abandoned and counted (R88). -/
def Core.abandonGroups (c : Core) (h : Nat) : Core := c.bumpBy (kHth h 2) (c.hearth h).groups.length

/-! Split slots (R93 to R97). -/

/-- Parts and part index of a split word (R117). -/
def splitParts (w : Nat) : Nat := bits w 7 0 + 1
def splitPart (w : Nat) : Nat := bits w 15 8

/-- Address of the split area, and of part p's slot (R93). -/
def Hearth.splitArea (x : Hearth) : Nat := x.cardField 255 192
def Hearth.splitSlot (x : Hearth) (p : Nat) : Nat := x.splitArea + 64 + p * x.cardField 287 256

/-- The header of a split slot (Table 3-6). -/
def splitHeader (x : Hearth) (b : Binding) (rows fmt flags terms segs status : Nat) : List Byte :=
  let d := x.desc b.out
  leBytes 64 (place d.tensorId 32 0 + place (splitPart b.split) 8 32 + place (splitParts b.split - 1) 8 40 + place rows 16 48
    + place flags 8 64 + place fmt 2 72 + place segs 8 80 + place status 8 88 + place (x.tileIndex d b.m0 b.n0) 32 96 + place x.step 32 128
    + place terms 32 160)

/-- The gauge record of a split tile whose parts did not all end with ST_OK, and the arrival word back to 0 (R97). -/
def splitFailed (h : Nat) (b : Binding) (flags status : Nat) : OpM Unit := do
  let c ← get
  let x := c.hearth h
  let d := x.desc b.out
  let tile := x.tileIndex d b.m0 b.n0
  if x.cardField 191 128 == 0 then pure ()
  else storeTo { actor := .hearth h, tenant := c.runTenant h, keyed := false, slot := 2 } vcReq (x.cardField 191 128 + 64 * tile)
        (gaugeRecord {} d 0 flags status tile x.step)
  storeTo { c.who h d with slot := 2 } vcReq x.splitArea (leBytes 8 0)

/-- Whether a slot header agrees with this part's own, but for part index, flags, status, terms and segments (R96). -/
def headerAgrees (own got p : Nat) : Bool :=
  bits got 31 0 == bits own 31 0 && bits got 39 32 == p && bits got 47 40 == bits own 47 40 && bits got 63 48 == bits own 63 48
    && bits got 73 72 == bits own 73 72 && bits got 159 96 == bits own 159 96

/-- The arrival of a part: the old value of the arrival word, or none where it comes later (R94). -/
def splitArrive (h : Nat) (w : Writeback) : OpM (Option Nat) := do
  let c ← get
  let x := c.hearth h
  let a := x.splitArea
  let who : Who := { c.who h (x.desc w.binding.out) with slot := 2 }
  checkGlobal a
  if c.isLocal a then do
    let v ← atomicLocal who a true 1 1 0
    pure (some v)
  else do
    sendAtomic who (.split w) { op := opAtomic, dst := addrName a, addr := a, key := who.key, len := 8, aop := 1, wide := true, opndA := 1 }
    pure none

/-- What the closer of a split tile reads: the slots' headers, or with all headers in hand their segments (R95). -/
def splitRanges (x : Hearth) (w : Writeback) (headers : List Byte) : List (Nat × Nat) :=
  let ps := List.range (splitParts w.binding.split)
  if headers.isEmpty then ps.map (fun p => (x.splitSlot p, 64))
  else ps.map (fun p => (x.splitSlot p + 64, bits (leNat ((headers.drop (64 * p)).take 64)) 87 80 * w.values.length * 1024))

/-- The closer with all headers: checked (R96); where one is not ST_OK the tile ends without its sum, under the lowest such slot's status (R97), read as R12
reads a reserved one. It answers whether to combine. -/
def splitJudge (h : Nat) (w : Writeback) (headers : List Byte) : OpM Bool := do
  let c ← get
  let x := c.hearth h
  let hs := (chunks 64 headers).map leNat
  let own := leNat (splitHeader x w.binding w.values.length w.fmt w.flags w.terms w.segments w.status)
  require ((hs.mapIdx (fun p n => headerAgrees own n p)).all (fun b => b)) stFormat
  match hs.find? (fun n => bits n 95 88 != stOk) with
  | some n => do
    splitFailed h w.binding (hs.foldl (fun f n => Nat.lor f (bits n 71 64)) 0) (knownStatus (bits n 95 88))
    pure false
  | none => pure true

/-- A part after its arrival: as the last one it reads every slot's header; they are its answer where they are in hand (R94, R95). -/
def splitLast (h : Nat) (w : Writeback) (old : Nat) : OpM (Option (List Byte)) := do
  let c ← get
  let x := c.hearth h
  let p := splitParts w.binding.split
  if old + 1 < p then pure none
  else if p ≤ old then failWith stFormat x.splitArea
  else readRanges { c.who h (x.desc w.binding.out) with slot := 2 } (.splitRead h w []) (splitRanges x w [])

/-- A part of an aborted lent item: header with the status and no segments, then the arrival; as the last to arrive it ends the tile
(R97). -/
def splitAbort (h status : Nat) (w : Writeback) : OpM Unit := do
  let c ← get
  let x := c.hearth h
  let b := w.binding
  let w := { w with values := List.replicate w.values.length [], pairs := [], segments := 0, status := status }
  storeTo { c.who h (x.desc b.out) with slot := 2 } vcReq (x.splitSlot (splitPart b.split)) (splitHeader x b w.values.length w.fmt w.flags w.terms 0 status)
  match ← splitArrive h w with
  | none => pure ()
  | some v =>
    match ← splitLast h w v with
    | none => pure ()
    | some headers => do
      let _ ← splitJudge h w headers

/-- An open group as a writeback without its sum. -/
def Group.unsummed (g : Group) : Writeback :=
  { binding := g.binding, base := g.base, slots := 0, values := List.replicate g.rows [], segments := 0, flags := g.flags, fmt := g.fmt, terms := g.total }

/-- The split parts of a Hearth whose sums are not written: open groups, and closed ones that wait. -/
def Hearth.splitsOpen (x : Hearth) : List Writeback :=
  (x.wbq.filter (fun w => w.binding.split != 0)) ++
    (x.groups.filter (fun g => g.2.binding.split != 0 && g.2.binding.out != 7)).map (fun g => g.2.unsummed)

/-- Whether a use is a split part's arrival. -/
def ReqUse.isSplit : ReqUse → Bool
  | .split _ => true
  | _ => false

/-- Whether a read is a closer's. -/
def Cont.isSplit : Cont → Bool
  | .splitRead _ _ _ => true
  | _ => false

/-- Whether a Hearth has an arrival of a split part or a closer's read under way. -/
def Core.splitBusy (c : Core) (h : Nat) : Bool :=
  (c.fabric.out ++ c.fabric.atomHeld).any (fun r => r.actor == .hearth h && r.use.isSplit) || c.fabric.xfers.any (fun t => t.actor == .hearth h && t.cont.isSplit)

/-! Lent items' ends. -/

/-- What a lent item leaves once it ends: Tallies 56 to 63 at 0, its image, card and reserve free (R442, R443). -/
def Core.clearLent (c : Core) (h : Nat) : Core :=
  let c := c.stopHearth h
  c.modHearth h (fun x => { x with tallies := x.tallies.filter (fun t => decide (t.1 < 56)), card1 := [],
                                   images := x.images.filter (fun i => decide (i.off < 0xE000)) })

/-- An aborted lent item whose split parts have all arrived ends: the borrower's OP_RUN completes with the status and only the borrower's port
learns of it (R442). -/
def Core.lentEnding (c : Core) (h : Nat) : Core :=
  match (c.hearth h).lentRun with
  | none => c
  | some l =>
    match l.ending with
    | none => c
    | some st =>
      if c.splitBusy h then c
      else
        let c := ((c.clearLent h).bump (kPci l.origin.port 3)).completeStopped l.origin st
        if l.irq then c.msix l.origin.port 65 else c

/-- A Hearth stopped while the device goes on: its split parts arrive without their sums under a status, and a closer's reads go on (R97). -/
def Core.stopParts (c : Core) (h status : Nat) : Core :=
  let closing := c.fabric.xfers.filter (fun t => t.actor == .hearth h && t.cont.isSplit)
  let d := (c.stopHearth h).modHearth h (fun x => { x with lentRun := (c.hearth h).lentRun, picked := (c.hearth h).picked })
  let d := { d with fabric := { d.fabric with xfers := d.fabric.xfers ++ closing } }
  (c.hearth h).splitsOpen.foldl (fun d w => match (splitAbort h status w).run d with
    | .ok _ e => e
    | .error f e => e.raise (f.filled clsLesson (hearthPath h) 2)) d

/-- A lent item aborted: it stops, its split parts arrive without their sums (R97), its groups are abandoned; then it ends (R442). -/
def Core.endLent (c : Core) (h status : Nat) : Core :=
  match (c.hearth h).lentRun with
  | none => c
  | some l =>
    if l.ending.isSome then c
    else ((c.modHearth h (fun x => { x with lentRun := some { l with ending := some status } })).stopParts h status).lentEnding h

/-- A lent item ends by its END tail (R108, R443). -/
def Core.finishLent (c : Core) (h code : Nat) : Core :=
  match (c.hearth h).lentRun with
  | none => c
  | some l =>
    (((c.clearLent h).modHearth h (fun x => { x with lastEnd := code })).bump (kPci l.origin.port 4)).complete l.origin stOk (runData [some code] 0)

/-! Faults of operations. -/

/-- A fault of an operation of a Lesson (R128, R447): the sequencer stops; with no job active its split parts arrive without their sums (R97) and the member of
its OP_RUN ends with the fault's status (R507). The spec names no address for a LESSON fault that has neither a scratch offset nor a memory address: it is free
(entry 17). -/
def Core.lessonFault (c : Core) (h slot : Nat) (f : FaultReq) : Core :=
  let x := c.hearth h
  let f := { f.filled clsLesson (hearthPath h) slot with step := x.step }
  let unplaced := f.cls == clsLesson && f.addr == 0
  let f := if unplaced then { f with addr := (Config.freeWord c.free).toNat } else f
  let c := if unplaced then { c with free := c.free + 1 } else c
  let active := c.mgt.active
  let o := match x.lentRun with | some l => some l.origin | none => x.runOf
  let c := c.raise f
  let c := if active then c.stopHearth h else (c.stopParts h f.status).modHearth h (fun x => { x with lentRun := none })
  match o with
  | some o => if active then c else if x.lentRun.isSome then c.completeStopped o f.status else c.memberEnd o h none f.status
  | none => c

/-- An operation of a Lesson done: held back, in breach of a lent item's limits, faulted, or complete. -/
def Core.perform (c : Core) (h slot : Nat) (keep : Core → Core) (body : OpM Unit) : Core :=
  match body.run c with
  | .ok _ c => c
  | .error f d =>
    if f.cls == clsHold then keep c
    else if f.cls == clsBreach then d.endLent h f.status
    else d.lessonFault h slot f

/-! Issue. -/

/-- The slot of an operation: 0 T, 1 S, 2 A, 3 V, 4 Y, 5 C (R107). -/
def slotOf : SlotOp → Nat
  | .tload _ | .tgather _ | .tfill _ => 0
  | .tstore _ | .tscatter _ => 1
  | .aload _ | .astream _ | .abind _ | .aclose _ | .acatch _ => 2
  | .vdef _ _ | .vrun _ | .vlen _ => 3
  | .wait _ | .signal _ | .sub _ | .roll _ | .fence => 4
  | .loop _ | .brk _ | .jump _ | .alu _ | .li _ _ | .ldx _ _ | .take _ => 5

/-- The slot whose operation a transfer serves: 0 T, 1 S, 2 A; no operation of the V slot waits for bytes. -/
def Cont.slot : Cont → Nat
  | .tload _ _ _ => 0
  | .tgather _ _ _ => 0
  | .window _ _ _ => 0
  | .tstore _ _ _ => 1
  | _ => 2

def YOp.isWait : YOp → Bool
  | .wait _ _ _ => true
  | _ => false

def isLdx : SlotOp → Bool
  | .ldx _ _ => true
  | _ => false

/-- Whether a WAIT, a TAKE or an LDX of a Hearth holds issue (R124). -/
def Hearth.issueHeld (x : Hearth) : Bool := x.taking.isSome || x.yq.any YOp.isWait || x.waitq.any (fun i => isLdx i.op)

/-- Whether the queue of an operation's unit has room (R124). -/
def Hearth.roomFor (x : Hearth) (op : SlotOp) : Bool :=
  if slotOf op == 4 then decide (x.yq.length < 4) else decide ((x.waitq.filter (fun i => slotOf i.op == slotOf op)).length < 4)

/-! The work before an operation of the Y slot (R127, R319). -/

/-- Tags of the remote stores, scatters and atomics of a Hearth that are not delivered (R319). -/
def Core.remoteWrites (c : Core) (h : Nat) : List Nat :=
  ((c.fabric.out ++ c.fabric.atomHeld).filter (fun r => r.actor == .hearth h &&
    (r.frame.txn.op == opStore || r.frame.txn.op == opAtomic || (r.frame.txn.op == opSignalTx && r.frame.txn.window)))).map (fun r => r.tag)

/-- A Hearth's reads under way. -/
def Core.readsOf (c : Core) (h : Nat) : List Nat := (c.fabric.xfers.filter (fun t => t.actor == .hearth h)).map (fun t => t.id)

/-- What a Hearth's units have under way or queued. -/
def Core.priorWork (c : Core) (h : Nat) : Prior := { tags := c.remoteWrites h, xfers := c.readsOf h, upTo := (c.hearth h).seq }

/-- A Y operation's record of earlier work changed. -/
def YOp.onPrior (f : Prior → Prior) : YOp → YOp
  | .roll ctx red p prior => .roll ctx red p (f prior)
  | .fence prior => .fence (f prior)
  | o => o

/-- `d` is `c` after a piece of work of a Hearth's units: the operations of its Y slot before which the work issued are told what it has sent and asked
for. -/
def Core.fenced (c : Core) (h : Nat) (mine : Prior → Bool) (d : Core) : Core :=
  let fresh := (d.remoteWrites h).filter (fun t => !(c.remoteWrites h).contains t)
  let reads := (d.readsOf h).filter (fun t => !(c.readsOf h).contains t)
  let y := d.hearth h
  let yq := y.yq.map (YOp.onPrior (fun p => if !mine p then p else { p with tags := p.tags ++ fresh, xfers := p.xfers ++ reads }))
  if yq == y.yq then d else d.setHearth h { y with yq := yq }

/-- Whether an address a tensor or card names lies on another device. -/
def Core.faraway (c : Core) (a : Nat) : Bool := !c.isLocal (a % 2 ^ 64)

/-- Whether an address lies in this device's atomic page, where a store can send an atomic to another device (R415). -/
def Core.inAtomicPage (c : Core) (a : Nat) : Bool := c.isLocal (a % 2 ^ 64) && (match c.place (a % 2 ^ 48) 1 with | .ok (.atomic _) => true | _ => false)

/-- Whether a store through a descriptor sends something to another device, auxiliary products and all. -/
def Core.storesAway (c : Core) (x : Hearth) (d : Nat) : Bool := let t := x.desc d; t.keep != 2 && (c.faraway t.base || c.inAtomicPage t.base)

/-- Whether a pass into an output writes to another device: its tile, or its gauge record. -/
def Core.passAway (c : Core) (x : Hearth) (out : Nat) : Bool :=
  out != 7 && (c.storesAway x out || (x.cardField 191 128 != 0 && c.faraway (x.cardField 191 128)))

/-- Whether a closing of a group writes to another device. -/
def Core.closeAway (c : Core) (x : Hearth) (b : Binding) : Bool := c.passAway x b.out || (b.out != 7 && b.split != 0 && c.faraway x.splitArea)

/-- Whether a queued operation may write to another device. A group's binding is the one it has or one that a queued operation opens it with. -/
def Core.opAway (c : Core) (x : Hearth) (op : SlotOp) : Bool :=
  let group (g : Nat) : Bool :=
    x.groups.any (fun p => p.1 == g && c.closeAway x p.2.binding) || x.waitq.any (fun i => i.bindings.any (fun p => p.1 == g && c.closeAway x p.2))
  let groups (n : Bool) (g : Nat) : Bool := if n then (List.range 4).any (fun j => group (g + j)) else group g
  match op with
  | .tstore f => c.storesAway x f.desc
  | .tscatter f => let a := (x.desc f.desc).base; c.faraway a || c.inAtomicPage a
  | .astream f => f.closes && groups f.narrow f.g
  | .aclose f => groups f.narrow f.g
  | .acatch f => group f.g
  | .vrun f => c.passAway x f.out
  | _ => false

/-- Whether what a read brings is followed by a write to another device. -/
def Core.contAway (c : Core) (x : Hearth) (k : Cont) : Bool :=
  match k with
  | .tstore _ f _ => c.storesAway x f.desc
  | .acatch _ f _ _ => x.groups.any (fun p => p.1 == f.g && c.closeAway x p.2.binding)
  | .splitRead _ w _ => c.closeAway x w.binding
  | _ => false

/-- Whether a fence still waits (R319): for a remote write that is not delivered, or for earlier work that may still send one. -/
def Core.fenceWaits (c : Core) (h : Nat) (p : Prior) : Bool :=
  let x := c.hearth h
  p.tags.any (fun t => (c.remoteWrites h).contains t) || x.waitq.any (fun i => decide (i.seq ≤ p.upTo) && c.opAway x i.op) ||
    x.wbq.any (fun w => decide (w.seq ≤ p.upTo) && c.closeAway x w.binding) || c.fabric.xfers.any (fun t => p.xfers.contains t.id && c.contAway x t.cont)

/-- What an operation that issues now latches (R125). -/
def Hearth.issued (x : Hearth) (op : SlotOp) : Issued :=
  { op := op, seq := x.seq + 1, regs := x.regs, chains := x.chains, bindings := x.bindings, vlen := x.vlen }

/-- A Hearth as an operation of its units sees it: with what the operation latched at its issue. -/
def Hearth.seenBy (x : Hearth) (i : Issued) : Hearth :=
  { x with regs := i.regs, chains := i.chains, bindings := i.bindings, vlen := i.vlen, seq := i.seq }

/-- Whether a Hearth can issue an operation now. -/
def Core.canIssue (c : Core) (h : Nat) (op : SlotOp) : Bool :=
  let x := c.hearth h
  x.running && x.ended.isNone && !x.issueHeld && x.roomFor op

end Sys2Proof.Machine
end

