-- ==== Sys2Proof/Machine/Tensors.lean ====
section
/-!
DEFINITION. Sys2Proof/Machine/Tensors.lean: writes of converted elements into a tensor and its scale plane (R40, R44, R99), the keep
field (R270), and the reserve of R137 on scratch windows.
-/

namespace Sys2Proof.Machine

/-- Checks a range named by a tensor or a card against the reserves of R137 where it lies in a scratch window of this device. -/
def checkWindow (h a n : Nat) : OpM Unit := do
  let c ← get
  if n == 0 then pure ()
  else if inTallyWindow a then requireLent (c.hearth h).lentRun.isNone
  else if !c.isLocal a then pure ()
  else
    match c.place (a % 2 ^ 48) n with
    | .ok (.scratch k off) =>
      if k == h then checkScratch h off n
      else do
        requireLent (c.hearth h).lentRun.isNone
        require (!c.lending k || decide (off + n ≤ 0x700000)) stFormat a
    | _ => pure ()

/-- Bytes stored by an operation of a slot of a Lesson through a descriptor. -/
def storeVia (h slot : Nat) (d : TDesc) (a : Nat) (b : List Byte) : OpM Unit := do
  checkWindow h a b.length
  let c ← get
  storeTo { c.who h d with slot := slot } vcReq (a % 2 ^ 64) b

/-- A write of consecutive bits: its bytes, and how many low bits of the first and high bits of the last belong to neighbouring elements (R40). -/
structure Piece where
  addr : Nat
  data : List Byte
  lo : Nat := 0
  hi : Nat := 0
  deriving DecidableEq, Repr

/-- A byte's value before a write of part of it: what it holds here, free on another device (entry 32). -/
def oldByte (w : Who) (a : Nat) : OpM Nat := do
  let c ← get
  if c.isLocal a then do
    let b ← readLocal { w with keyed := false } a 1
    pure (leNat b)
  else do
    let v ← freshWord
    pure (v.toNat % 256)

/-- A piece's bytes with its neighbours' bits as they are. -/
def Piece.merged (p : Piece) (w : Who) : OpM (List Byte) := do
  let n := leNat p.data
  let top := 8 * p.data.length - p.hi
  let first ← if p.lo == 0 then pure 0 else oldByte w p.addr
  let last ← if p.hi == 0 then pure 0 else oldByte w (p.addr + p.data.length - 1)
  pure (leBytes p.data.length (first % 2 ^ p.lo + (n % 2 ^ top / 2 ^ p.lo) <<< p.lo + (last >>> (8 - p.hi)) <<< top))

/-- A piece stored by an operation of a slot of a Lesson through a descriptor. -/
def storePiece (h slot : Nat) (d : TDesc) (p : Piece) : OpM Unit := do
  if p.lo == 0 && p.hi == 0 then storeVia h slot d p.addr p.data
  else do
    checkWindow h p.addr p.data.length
    let c ← get
    let b ← p.merged { c.who h d with slot := slot }
    storeVia h slot d p.addr b

/-- The bytes that pieces cover. -/
def pieceBytes (l : List Piece) : Nat := (l.map (fun p => p.data.length)).foldl (· + ·) 0

/-- The writes of a list of placed elements: contiguous runs of one row each. -/
def elemWrites (d : TDesc) (elems : List (Nat × Nat × OutElem)) : List Piece :=
  (elemRuns elems).map (fun r =>
    let w := d.fmt.elemBits
    let lo := r.2.1 * w % 8
    let n := ceilDiv (lo + r.2.2.length * w) 8
    { addr := d.rowAddr r.1 + r.2.1 * w / 8, data := leBytes n (packNat w (r.2.2.map (fun e => e.code)) <<< lo), lo := lo,
      hi := if d.ext0 ≤ r.2.1 + r.2.2.length then 0 else 8 * n - lo - r.2.2.length * w })

/-- Numbered bytes joined into runs of consecutive numbers. -/
def byteRuns (l : List (Nat × Nat)) : List (Nat × List Byte) :=
  (l.foldl (fun (acc : List (Nat × List Byte)) p =>
    match acc with
    | (a, b) :: r => if p.1 == a + b.length then (a, b ++ leBytes 1 p.2) :: r else (p.1, leBytes 1 p.2) :: acc
    | [] => [(p.1, leBytes 1 p.2)]) []).reverse

/-- The writes of the scale bytes of a list of placed elements whose blocks run along `dim`. -/
def scaleWrites (d : TDesc) (dim : Nat) (elems : List (Nat × Nat × OutElem)) : List Piece :=
  if !d.fmt.isMx then []
  else (byteRuns ((elems.map (fun e => (d.blockOf dim e.1 e.2.1, e.2.2.scale))).eraseDups)).map (fun r => { addr := d.scalePlane + r.1, data := r.2 })

/-- The writes stored through a descriptor under its keep field; every byte of an OFFLOAD or RECOMPUTE tensor is counted (R270). -/
def storeKept (h slot : Nat) (d : TDesc) (w : List Piece) : OpM Unit := do
  if d.keep == 2 then pure () else w.forM (storePiece h slot d)
  update (fun c => c.keepBytes h d.keep (pieceBytes w))

/-- Placed elements stored into a tensor with their scales. -/
def storeElems (h slot : Nat) (d : TDesc) (dim : Nat) (elems : List (Nat × Nat × OutElem)) : OpM Unit :=
  storeKept h slot d (elemWrites d elems ++ scaleWrites d dim elems)

/-- One gauge record written at its tile's place, if the card names a target (R60, R61); it takes the Hearth's pending status (R178). -/
def putGauge (h slot : Nat) (d : TDesc) (m0 n0 : Nat) (g : Gauge) (segments flags status : Nat) : OpM Unit := do
  let c ← get
  let x := c.hearth h
  if x.cardField 191 128 == 0 then pure ()
  else do
    let st := if status == stOk then x.pendingStatus else status
    let tile := x.tileIndex d m0 n0
    update (fun c => if status == stOk then c.modHearth h (fun x => { x with pendingStatus := 0 }) else c)
    let a := x.cardField 191 128 + 64 * tile
    checkWindow h a 64
    storeTo { actor := .hearth h, tenant := c.runTenant h, keyed := false, slot := slot } vcReq (a % 2 ^ 64) (gaugeRecord g d segments flags st tile x.step)

/-- A Hearth's pending status: the first notice stays (R178). -/
def notePending (h st : Nat) : OpM Unit :=
  update (fun c => c.modHearth h (fun x => if x.pendingStatus == 0 then { x with pendingStatus := st } else x))

end Sys2Proof.Machine
end

