-- ==== Sys2Proof/Machine/Transc.lean ====
section
/-!
DEFINITION. Sys2Proof/Machine/Transc.lean: the functions of Table 5-3 that R149 calls correct and that no exact formula
gives: EXP, LOG, TANH, SIGMOID, SILU, GELU. Each is computed in fixed point with 640 fraction bits and rounded once
(DEDUCED, entry 10).
-/

namespace Sys2Proof.Machine

/-- Fraction bits of the fixed-point work. -/
def fxP : Nat := 640

/-- One in fixed point. -/
def fxOne : Nat := 2 ^ 640

/-- The sum of 1/(n*2^n) downward from n, in fixed point. -/
def fxLn2Sum : Nat → Nat
  | 0 => 0
  | n + 1 => fxOne / ((n + 1) * 2 ^ (n + 1)) + fxLn2Sum n

/-- ln 2 in fixed point. -/
def fxLn2 : Nat := fxLn2Sum 650

/-- The arctangent of 1/d in fixed point: terms i, i+1, ... of the alternating series. -/
def fxAtanSum (d : Nat) : Nat → Nat → Nat → Int
  | 0, _, _ => 0
  | fuel + 1, i, p => (if i % 2 == 0 then ((p / (2 * i + 1) : Nat) : Int) else -((p / (2 * i + 1) : Nat) : Int)) + fxAtanSum d fuel (i + 1) (p / (d * d))

/-- The circle constant in fixed point (Machin's formula). -/
def fxPi : Nat := (16 * fxAtanSum 5 290 0 (fxOne / 5) - 4 * fxAtanSum 239 100 0 (fxOne / 239)).toNat

/-- The exponential series of a fixed-point r below ln 2, from the term t of index n on. -/
def fxExpSum (r : Nat) : Nat → Nat → Nat → Nat
  | 0, _, _ => 0
  | fuel + 1, n, t => t + fxExpSum r fuel (n + 1) (t * r / fxOne / (n + 1))

/-- e^a for a fixed-point integer a: the pair (T, k) with value T * 2^(k - 640). -/
def fxExp (a : Int) : Nat × Int :=
  let k := a / (fxLn2 : Int)
  let r := (a - k * (fxLn2 : Int)).toNat
  (fxExpSum r 150 0 fxOne, k)

/-- e^a as a fixed-point natural number, floored. -/
def fxExpNat (a : Int) : Nat := let (t, k) := fxExp a; shiftZ t k

/-- The odd series of atanh in fixed point: terms z^(2i+1)/(2i+1). -/
def fxAtanhSum (z2 : Nat) : Nat → Nat → Nat → Nat
  | 0, _, _ => 0
  | fuel + 1, i, p => p / (2 * i + 1) + fxAtanhSum z2 fuel (i + 1) (p * z2 / fxOne)

/-- A finite value as a fixed-point integer; exact for every FP32 value. -/
def toFx (s : Bool) (m : Nat) (e : Int) : Int :=
  let u : Int := (shiftZ m (e + fxP) : Nat)
  if s then -u else u

/-- A fixed-point irrational as a value with a sticky bit below its last place. -/
def ofFx (s : Bool) (n : Nat) : FV := .fin s (2 * n + 1) (-641)

/-- EXP (Table 5-3, Table 5-4). -/
def texp (a : FV) : FV :=
  match a with
  | .nan => .nan
  | .inf s => if s then .zero else .inf false
  | .fin s m e =>
    if m == 0 then .fin false 1 0
    else if magLt 128 0 m e then (if s then .zero else .inf false)
    else let (t, k) := fxExp (toFx s m e); .fin false (2 * t + 1) (k - 641)

/-- LOG (Table 5-3, Table 5-4). -/
def tlog (a : FV) : FV :=
  match a with
  | .nan => .nan
  | .inf s => if s then .nan else .inf false
  | .fin s m e =>
    if m == 0 then .inf true
    else if s then .nan
    else
      let k := floorLog2 m e
      let y := shiftZ m (e - k + fxP)
      let z := (y - fxOne) * fxOne / (y + fxOne)
      let l : Int := 2 * (fxAtanhSum (z * z / fxOne) 210 0 z : Nat) + k * (fxLn2 : Int)
      if y == fxOne && k == 0 then .zero else ofFx (decide (l < 0)) l.natAbs

/-- TANH (Table 5-3, Table 5-4). -/
def ttanh (a : FV) : FV :=
  match a with
  | .nan => .nan
  | .inf s => .fin s 1 0
  | .fin s m e =>
    if m == 0 then .fin s 0 0
    else if magLt 32 0 m e then .fin s 1 0
    else let x := fxExpNat (2 * toFx false m e); quotV s (x - fxOne) (x + fxOne) 0

/-- SIGMOID (Table 5-3, Table 5-4). -/
def tsigmoid (a : FV) : FV :=
  match a with
  | .nan => .nan
  | .inf s => if s then .zero else .fin false 1 0
  | .fin s m e =>
    if m == 0 then .fin false 1 (-1)
    else if magLt 160 0 m e then (if s then .zero else .fin false 1 0)
    else quotV false fxOne (fxOne + fxExpNat (toFx (!s) m e)) 0

/-- SILU, rounded only at its end (Table 5-3, Table 5-4). -/
def tsilu (a : FV) : FV :=
  match a with
  | .nan => .nan
  | .inf s => if s then .fin true 0 0 else .inf false
  | .fin s m e =>
    if m == 0 then .fin s 0 0
    else if magLt 256 0 m e then (if s then .fin true 0 0 else .fin false m e)
    else quotV s (m * fxOne) (fxOne + fxExpNat (toFx (!s) m e)) e

/-- The series a^(2n+1)/(1*3*...*(2n+1)) of the normal integral, in fixed point. -/
def fxPhiSum (a2 : Nat) : Nat → Nat → Nat → Nat
  | 0, _, _ => 0
  | fuel + 1, n, t => t + fxPhiSum a2 fuel (n + 1) (t * a2 / fxOne / (2 * n + 3))

/-- GELU, rounded only at its end (Table 5-3, Table 5-4). -/
def tgelu (a : FV) : FV :=
  match a with
  | .nan => .nan
  | .inf s => if s then .fin true 0 0 else .inf false
  | .fin s m e =>
    if m == 0 then .fin s 0 0
    else if magLt 16 0 m e then (if s then .fin true 0 0 else .fin false m e)
    else
      let x := (toFx false m e).toNat
      let x2 := x * x / fxOne
      let phi := fxExpNat (-((x2 / 2 : Nat) : Int)) * fxOne / isqrt (2 * fxPi * fxOne)
      let tail := phi * fxPhiSum x2 1100 0 x / fxOne
      let half := fxOne / 2
      let p := if s then half - tail else half + tail
      .fin s (m * (2 * p + 1)) (e - 641)

end Sys2Proof.Machine
end

