-- ==== Sys2Proof/Machine/Temper.lean ====
section
/-!
DEFINITION. Sys2Proof/Machine/Temper.lean: chain records, stages, passes, reductions and writebacks (R143 to R161), and the V slot.
-/

namespace Sys2Proof.Machine

/-! Chain records (Tables 5-1 and 5-2). -/

/-- A stage. -/
structure Stage where
  op : Nat
  bsel : Nat
  boff : Nat
  imm : Word32
  deriving DecidableEq, Repr

/-- A chain record; the default is the identity chain (R104, R144). -/
structure Chain where
  stages : List Stage := []
  redOp : Nat := 0
  redAxis : Nat := 0
  redTap : Nat := 0
  redAcc : Bool := false
  redDst : Nat := 0
  maskKind : Nat := 0
  maskOff : Nat := 0
  srcFmt : Nat := 0
  deriving DecidableEq, Repr

/-- Bits of stage i of a record. -/
def stageBits (n i : Nat) : Nat := bits n (64 + 56 * i + 55) (64 + 56 * i)

/-- A stage read from its 56 bits. -/
def stageOf (v : Nat) : Stage := { op := bits v 55 50, bsel := bits v 49 48, boff := 1024 * bits v 47 35, imm := BitVec.ofNat 32 v }

/-- A chain record read from its 512 bits. -/
def chainOf (n : Nat) : Chain :=
  { stages := (List.range (min 8 (bits n 59 56))).map (fun i => stageOf (stageBits n i)), redOp := bits n 55 52, redAxis := bits n 51 50,
    redTap := bits n 49 46, redAcc := bit n 45, redDst := 1024 * bits n 44 32, maskKind := bits n 31 30, maskOff := 1024 * bits n 29 17,
    srcFmt := bits n 16 15 }

/-- Whether a stage operation is binary (Table 5-3). -/
def stageBinary (op : Nat) : Bool := (decide (1 ≤ op) && decide (op ≤ 7)) || op == 0x15

/-- Whether a stage keeps Tables 5-2 and 5-3. -/
def stageOk (v : Nat) : Bool :=
  let op := bits v 55 50
  decide (1 ≤ op) && decide (op ≤ 0x15) && bits v 34 32 == 0 &&
    (if stageBinary op then bits v 49 48 != 0 || bits v 47 35 == 0 else bits v 49 48 == 0 && bits v 47 35 == 0 && bits v 31 0 == 0)

/-- Whether a record passes the validation of R150. -/
def chainOk (n : Nat) : Bool :=
  let k := bits n 59 56
  let op := bits n 55 52
  bits n 63 60 == 0 && decide (k ≤ 8) && decide (op ≤ 7) && bits n 51 50 != 3 && bits n 31 30 != 3 && bits n 16 15 != 3 && bits n 14 0 == 0 &&
    (List.range 8).all (fun i => if i < k then stageOk (stageBits n i) else stageBits n i == 0) && decide (bits n 49 46 ≤ k) &&
    (op != 0 || bits n 51 32 == 0) && (bits n 31 30 != 0 || bits n 29 17 == 0) && !((op == 5 || op == 6) && bits n 51 50 == 2)

/-! Stage operations (R149). -/

def fOne : Word32 := 0x3F800000#32
def fNegZero (a : Word32) : Bool := a == 0x80000000#32
def fIsNan (a : Word32) : Bool := (f32V a).isNan
def fLt (a b : Word32) : Bool := (f32V a).lt (f32V b)
def fPos (a : Word32) : Bool := fLt 0#32 a

/-- MIN and MAX of Table 5-3. -/
def fMin (a b : Word32) : Word32 :=
  if fIsNan a || fIsNan b then f32Nan else if fLt a b then a else if fLt b a then b else if fNegZero a then a else b
def fMax (a b : Word32) : Word32 :=
  if fIsNan a || fIsNan b then f32Nan else if fLt a b then b else if fLt b a then a else if fNegZero a then b else a

/-- One stage operation on one lane (Table 5-3). -/
def stageFn (op : Nat) (a b : Word32) : Word32 :=
  let v := f32V a
  match op with
  | 0x01 => fadd a b
  | 0x02 => fsub a b
  | 0x03 => fsub b a
  | 0x04 => fmul a b
  | 0x05 => fdiv a b
  | 0x06 => fMin a b
  | 0x07 => fMax a b
  | 0x08 => toF32 v.abs
  | 0x09 => toF32 v.negate
  | 0x0A => fmul a a
  | 0x0B => fdiv fOne a
  | 0x0C => toF32 ((f32V fOne).div v.sqrt)
  | 0x0D => fsqrt a
  | 0x0E => toF32 (texp v)
  | 0x0F => toF32 (tlog v)
  | 0x10 => toF32 (ttanh v)
  | 0x11 => toF32 (tsigmoid v)
  | 0x12 => toF32 (tsilu v)
  | 0x13 => toF32 (tgelu v)
  | 0x14 => if v.isNan then f32Nan else if fPos a then a else 0#32
  | _ => if v.isNan then f32Nan else if fPos a then (if fIsNan b then f32Nan else b) else 0#32

/-! Reductions (R156, R157). -/

def redIsArg (op : Nat) : Bool := op == 5 || op == 6

/-- A reduction record: value and count or index. -/
abbrev RedRec := Word32 × Nat

/-- Whether a record is empty (R156). -/
def redEmpty (op : Nat) (r : RedRec) : Bool := if redIsArg op then r.2 == max32 else r.2 == 0

/-- The identity of an op (Table 5-5). -/
def redIdentity (op : Nat) : RedRec :=
  match op with
  | 2 => (fOne, 0)
  | 3 => (0xFF800000#32, 0)
  | 4 => (0x7F800000#32, 0)
  | 5 => (0xFF800000#32, max32)
  | 6 => (0x7F800000#32, max32)
  | _ => (0#32, 0)

/-- Whether a value is preferred by an ARG op, and whether two count as the same (R157). -/
def argBetter (op : Nat) (x hi : Word32) : Bool :=
  (fIsNan x && !fIsNan hi) || (!fIsNan x && !fIsNan hi && (if op == 5 then fLt hi x else fLt x hi))
def argSame (x hi : Word32) : Bool := (fIsNan x && fIsNan hi) || (f32V x).eqv (f32V hi)

/-- One element's turn in `reduce` (R157): record and compensation. An ARG index past 32 bits is compared whole and stored by its low 32 bits (entry
110). -/
def redStep (op : Nat) (s : RedRec × Word32) (e : Word32 × Nat) : RedRec × Word32 :=
  let (d, lo) := s
  let n := if redIsArg op then d.2 else satAdd 32 d.2 1
  match op with
  | 1 => let p := compAdd (d.1, lo) e.1; ((p.1, n), p.2)
  | 2 => ((fmul d.1 e.1, n), lo)
  | 3 => ((fMax d.1 e.1, n), lo)
  | 4 => ((fMin d.1 e.1, n), lo)
  | 7 => ((if e.1.toNat % 2 ^ 31 == 0 then d.1 else BitVec.ofNat 32 (satAdd 32 d.1.toNat 1), n), lo)
  | _ =>
    if d.2 == max32 || argBetter op e.1 d.1 || (argSame e.1 d.1 && decide (e.2 < d.2)) then ((e.1, e.2), lo) else (d, lo)

/-- reduce (R157). -/
def redRun (op : Nat) (d : RedRec) (e : List (Word32 × Nat)) : RedRec :=
  let d := if redEmpty op d then redIdentity op else d
  let (r, lo) := e.foldl (redStep op) (d, 0#32)
  if op == 1 then (fadd r.1 lo, r.2) else r

/-- A record's bytes, and the record of its bytes. -/
def redBytes (r : RedRec) : List Byte := leBytes 4 r.1.toNat ++ leBytes 4 r.2
def redOf (b : List Byte) : RedRec := (BitVec.ofNat 32 (leNat (b.take 4)), leNat ((b.drop 4).take 4))

/-! Passes (R143 to R155). -/

/-- One pass: its slot, where its rows come from and go. A VRUN names its source offset; a writeback holds its rows. -/
structure Pass where
  slot : Nat := 3
  chain : Chain
  out : Option TDesc
  m0 : Nat
  n0 : Nat
  rows : Nat
  lanes : Nat
  vals : List (List Word32) := []
  src : Option Nat := none
  skip : Option SkipPass := none
  segments : Nat := 0
  flags : Nat := 0
  status : Nat := 0
  deriving DecidableEq, Repr

/-- Bytes of one source row of a VRUN (Table 5-1). -/
def Chain.srcBytes (ch : Chain) : Nat := if ch.srcFmt == 0 then 512 else 256

/-- Records that the reduction writes, as a number of 8-byte records. -/
def Pass.records (p : Pass) : Nat :=
  if p.chain.redOp == 0 then 0 else match p.chain.redAxis with | 0 => p.rows | 1 => 128 | _ => 1

/-- The scratch ranges that a pass reads. -/
def Pass.reads (p : Pass) : List (Nat × Nat) :=
  let b := p.chain.stages.map (fun s =>
    match s.bsel with
    | 1 => (s.boff + 4 * p.n0, 512)
    | 2 => (s.boff + 4 * p.m0, 4 * p.rows)
    | 3 => (s.boff, 512 * p.rows)
    | _ => (0, 0))
  let m := match p.chain.maskKind with
    | 1 => [(p.chain.maskOff, 16 * p.rows)]
    | 2 => [(p.chain.maskOff, 16)]
    | _ => []
  let s := match p.src with | some a => [(a, p.chain.srcBytes * p.rows)] | none => []
  (if p.rows == 0 then [] else b ++ m) ++ s

/-- Every scratch range that a pass reads or writes, but its output (R152). -/
def Pass.ranges (p : Pass) : List (Nat × Nat) := p.reads ++ [(p.chain.redDst, 8 * p.records)]

/-- A write of a pass that is due at a beat: of its reduction's record in scratch, or through its output descriptor. -/
structure Due where
  beat : Nat
  record : Bool
  piece : Piece
  deriving DecidableEq, Repr

/-- What a pass has done so far: writes that are due; rows' results; counted values by row; converted values; whether a record came out empty. -/
structure PassAcc where
  due : List Due := []
  outs : List (Nat × List Word32) := []
  taps : List (Nat × List (Nat × Word32)) := []
  conv : List (Nat × Nat × Word32 × OutElem) := []
  empty : Bool := false
  live : List Nat := []
  deriving DecidableEq, Repr

/-- Writes of a beat below `t` made, in order. -/
def flushDue (h slot : Nat) (out : Option TDesc) (t : Nat) (due : List Due) : OpM Unit :=
  (due.filter (fun w => decide (w.beat < t))).forM (fun w =>
    if w.record then writeScratch h w.piece.addr w.piece.data
    else match out with
      | some d => storePiece h slot d w.piece
      | none => pure ())

/-- Whether a row's lanes count in the statistics of a pass into a tensor: all do (R161), but for the padding of MX blocks that run along the rows
(R39). -/
def TDesc.rowCounts (d : TDesc) (m : Nat) : Bool := decide (m < d.rows) || !d.fmt.isMx || d.blockDim == 0

/-- Whether an element lies inside a tensor: what lies outside is not written (R77). -/
def TDesc.holds (d : TDesc) (m n : Nat) : Bool := decide (m < d.rows) && decide (n < d.ext0)

/-- FP32 values of a scratch range. -/
def scratchWords (h off n : Nat) : OpM (List Word32) := do
  let b ← readScratch h off (4 * n)
  pure (wordsOf b)

/-- One row's second operands: a column vector as read at the pass's start, a row vector's value, a companion row (R151). -/
def operandRow (h : Nat) (p : Pass) (i : Nat) (s : Stage × List Word32) : OpM (List Word32) := do
  match s.1.bsel with
  | 0 => pure (List.replicate 128 s.1.imm)
  | 1 => pure s.2
  | 2 => do
    let v ← scratchWords h (s.1.boff + 4 * (p.m0 + i)) 1
    pure (List.replicate 128 (v.headD 0#32))
  | _ => scratchWords h (s.1.boff + 512 * i) 128

/-- The values of a row after each stage, the input first; a skipped lane's stage 0 gives +0, or its input is +0 in REPLAY (R189). -/
def stageRow (p : Pass) (inp : List Word32) (ops : List (Stage × List Word32)) : List (List Word32) :=
  let skipped (j : Nat) : Bool := match p.skip with | some s => s.lanes.getD j false | none => false
  let replay := match p.skip with | some s => s.replay | none => false
  let inp := inp.mapIdx (fun j a => if replay && skipped j then 0#32 else a)
  let rec go : Nat → List Word32 → List (Stage × List Word32) → List (List Word32)
    | _, v, [] => [v]
    | k, v, (s, b) :: rest =>
      let w := (v.zip b).mapIdx (fun j ab => if k == 0 && !replay && skipped j then 0#32 else stageFn s.op ab.1 ab.2)
      v :: go (k + 1) w rest
  go 0 inp ops

/-- Rows of the pass that leave together with row i as its group's last: the row alone, or its MX group along the rows (R155). -/
def groupRows (d : TDesc) (p : Pass) (i : Nat) : List Nat :=
  if d.fmt.isMx && d.blockDim != 0 then
    let same := (List.range p.rows).filter (fun k => d.blockOf d.blockDim (p.m0 + k) p.n0 == d.blockOf d.blockDim (p.m0 + i) p.n0)
    if same.all (fun k => decide (k ≤ i)) then same else []
  else [i]

/-- The input values of a row (R143). -/
def inputRow (h : Nat) (p : Pass) (i : Nat) : OpM (List Word32) := do
  match p.src with
  | none => pure (p.vals.getD i [])
  | some a => do
    let b ← readScratch h (a + p.chain.srcBytes * i) p.chain.srcBytes
    if p.chain.srcFmt == 0 then pure (wordsOf b)
    else
      let f : Fmt := if p.chain.srcFmt == 1 then .bf16 else .fp16
      pure ((unpackCodes 16 128 0 b).map (fun e => toF32 (decodeElem f 0 e)))

/-- The counted lanes of a row: active, and under its mask (R157). -/
def countedLanes (p : Pass) (mask : List Byte) : List Nat :=
  (List.range (min 128 p.lanes)).filter (fun j => p.chain.maskKind == 0 || bit (mask.getD (j / 8) 0#8).toNat (j % 8))

/-- One row of a pass, at beat i: reads first, and of the writes only those of earlier beats before them (entry 106); of the row's own writes the output first,
the record last (entry 107). What the tensor does not hold is not written, and as padding of an MX block neither scaled nor counted (R39, R46, R161). -/
def passRow (h : Nat) (p : Pass) (cols : List (Stage × List Word32)) (laneMask : List Byte) (seed step : Nat) (a : PassAcc) (i : Nat) :
    OpM PassAcc := do
  flushDue h p.slot p.out i a.due
  let t := i + 3 + p.chain.stages.length
  let inp ← inputRow h p i
  let ops ← cols.mapM (fun s => do
    let b ← operandRow h p i s
    pure (s.1, b))
  let mask ← if p.chain.maskKind == 1 then readScratch h (p.chain.maskOff + 16 * i) 16 else pure laneMask
  let start ← if p.chain.redOp != 0 && p.chain.redAxis == 0 && p.chain.redAcc then (do
      let b ← readScratch h (p.chain.redDst + 8 * i) 8
      pure (redOf b))
    else pure (redIdentity p.chain.redOp)
  let vs := stageRow p inp ops
  let last := (vs.getLastD []).take p.lanes
  let tap := vs.getD p.chain.redTap []
  let counted := (countedLanes p mask).map (fun j => (j, tap.getD j 0#32))
  let row := redRun p.chain.redOp start (counted.map (fun e => (e.2, p.n0 + e.1)))
  let isRow := p.chain.redOp != 0 && p.chain.redAxis == 0
  let outs := a.outs ++ [(i, last)]
  let placed := match p.out with
    | none => []
    | some d =>
      let rows := groupRows d p i
      let l := (rows.map (fun k => ((outs.find? (fun o => o.1 == k)).map (fun o => o.2)).getD [])).zip rows
      let el := (l.flatMap (fun q => q.1.mapIdx (fun j v => (p.m0 + q.2, p.n0 + j, v)))).filter (fun e => d.rowCounts e.1)
      (el.zip (convList d d.fmt d.blockDim seed step el)).map (fun q => (q.1.1, q.1.2.1, q.1.2.2, q.2.2.2))
  let w := match p.out with
    | none => []
    | some d =>
      let elems := (placed.filter (fun e => d.holds e.1 e.2.1)).map (fun e => (e.1, e.2.1, e.2.2.2))
      elemWrites d elems ++ scaleWrites d d.blockDim elems
  let mode := match p.out with | some d => d.keep | none => 0
  update (fun c => c.keepBytes h mode (pieceBytes w))
  let due := a.due.filter (fun q => decide (i ≤ q.beat)) ++ (if mode == 2 then [] else w.map (fun q => { beat := t, record := false, piece := q })) ++
    (if isRow then [{ beat := t, record := true, piece := { addr := p.chain.redDst + 8 * i, data := redBytes row } }] else [])
  let first := vs.getD 1 []
  let live := (List.range 128).map (fun j => a.live.getD j 0 + b2n ((first.getD j 0#32).toNat % 2 ^ 31 != 0))
  pure { due := due, outs := outs, taps := a.taps ++ [(i, counted)], conv := a.conv ++ placed,
         empty := a.empty || (isRow && redEmpty p.chain.redOp row), live := live }

/-- A pass (R143). Its answer is, per lane, the rows whose stage-0 result was not a zero (R189). Its sources and records are checked before its first row, its
output row by row: rows before one that would leave the scratch window stay written (entry 109). -/
def runPass (h : Nat) (p : Pass) : OpM (List Nat) := do
  p.ranges.forM (fun r => checkScratch h r.1 r.2)
  let c ← get
  let x := c.hearth h
  match p.out with
  | some d =>
    require (p.rows == 0 || !d.fmt.isMx || d.wholeBlocks d.blockDim p.m0 p.rows p.n0 p.lanes) stFormat d.base
  | none => pure ()
  let cols ← p.chain.stages.mapM (fun s => do
    let v ← if s.bsel == 1 && p.rows != 0 then scratchWords h (s.boff + 4 * p.n0) 128 else pure []
    pure (s, v))
  let laneMask ← if p.chain.maskKind == 2 && p.rows != 0 then readScratch h p.chain.maskOff 16 else pure []
  let ends := p.chain.redOp != 0 && p.chain.redAxis != 0
  let starts ← if ends && p.chain.redAcc then (do
      let b ← readScratch h p.chain.redDst (8 * p.records)
      pure ((chunks 8 b).map redOf))
    else pure (List.replicate p.records (redIdentity p.chain.redOp))
  let a ← (List.range p.rows).foldlM (passRow h p cols laneMask x.seed x.step) {}
  flushDue h p.slot p.out (p.rows + 16) a.due
  let recs := if !ends then []
    else if p.chain.redAxis == 1 then
      starts.mapIdx (fun j d => redRun p.chain.redOp d
        (a.taps.flatMap (fun r => (r.2.filter (fun e => e.1 == j)).map (fun e => (e.2, p.m0 + r.1)))))
    else starts.map (fun d => redRun p.chain.redOp d (a.taps.flatMap (fun r => r.2.map (fun e => (e.2, 0)))))
  let recs := if p.rows == 0 && p.chain.redAcc then starts else recs
  (if ends then writeScratch h p.chain.redDst (recs.flatMap redBytes) else pure ())
  let empty := a.empty || (ends && recs.any (redEmpty p.chain.redOp))
  update (fun c => if empty then c.bump (kHth h 5) else c)
  match p.out with
  | none => pure ()
  | some d =>
    if p.rows == 0 then pure ()
    else do
      let l := sortBy (fun (u v : Nat × Nat × Word32 × OutElem) => u.1 < v.1 || (u.1 == v.1 && u.2.1 < v.2.1)) a.conv
      let g := gaugeWith d.fmt.isMx d.holds (l.map (fun e => (e.1, e.2.1, e.2.2.1))) (l.map (fun e => (e.1, e.2.1, e.2.2.2)))
      update (fun c => c.feedStats d x.step g)
      let flags := flagIf (d.rounding == 2) gfSr (flagIf g.nanBlock gfNanBlock (flagIf d.stale gfStale (flagIf empty gfEmpty p.flags)))
      putGauge h p.slot d p.m0 p.n0 g p.segments flags p.status
  pure a.live

/-! Where chain records lie (R106, R144). -/

/-- Bytes of a Hearth's lesson memory. -/
def readLesson (h off n : Nat) : OpM (List Byte) := do
  senseAll (.lesson h) ((List.range n).map (off + ·))
  let c ← get
  pure (memRange (fun _ => 0#8) (c.hearth h).lesson off n)

/-- The valid image that holds a word address (R141). -/
def Hearth.imageAt (x : Hearth) (w : Nat) : Option LessonImage := x.images.find? (fun i => decide (i.off + 8 ≤ 2 * w) && decide (2 * w < i.off + i.len))

/-- The image of the run in progress: that of its card's entry. -/
def Hearth.image (x : Hearth) : Option LessonImage := x.imageAt (x.cardField 319 304)

/-- Bytes of a Hearth's lesson memory as they stand, errors of the code aside. -/
def Hearth.lessonBytes (x : Hearth) (off n : Nat) : List Byte := memRange (fun _ => 0#8) x.lesson off n

/-- Where chain record n of an image lies. -/
def Hearth.chainOff (x : Hearth) (i : LessonImage) (n : Nat) : Nat := roundUp (i.off + 8 + 2 * (leNat (x.lessonBytes i.off 8) % 2 ^ 15)) 64 + 64 * n

/-- The chain of a record number of the run's image, or the identity chain (R144). -/
def Hearth.chainAt (x : Hearth) (r : Option Nat) : Chain :=
  match r, x.image with
  | some n, some i => chainOf (leNat (x.lessonBytes (x.chainOff i n) 64))
  | _, _ => {}

/-- The same, read by a unit. -/
def readChain (h : Nat) (r : Option Nat) : OpM Chain := do
  let c ← get
  match r, (c.hearth h).image with
  | some n, some i => do
    let _ ← readLesson h i.off 8
    let _ ← readLesson h ((c.hearth h).chainOff i n) 64
    pure ((c.hearth h).chainAt r)
  | _, _ => pure {}

/-- The active lanes of a writeback (R153). -/
def activeLanes (d : TDesc) (n0 : Nat) : Nat := min 128 (d.ext0 - n0)

/-! The V slot. -/

/-- VDEF (R119). -/
def vdefOp (h chain record : Nat) : OpM Unit :=
  update (fun c => c.modHearth h (fun x => { x with chains := kvPut x.chains chain record }))

/-- VLEN (R153). -/
def vlenOp (h reg : Nat) : OpM Unit :=
  update (fun c => c.modHearth h (fun x => { x with vlen := min 128 (x.reg reg).toNat }))

/-- VRUN (R119, R153, R154). -/
def vrunOp (h : Nat) (f : VrunF) : OpM Unit := do
  let c ← get
  let x := c.hearth h
  let ch ← readChain h (kvGet x.chains f.chain)
  let m0 := (x.reg f.m0).toNat
  let n0 := (x.reg f.n0).toNat
  let out := if f.out == 7 then none else some (x.desc f.out)
  let lanes := match out with | some d => min x.vlen (d.ext0 - n0) | none => x.vlen
  let _ ← runPass h { chain := ch, out := out, m0 := m0, n0 := n0, rows := (x.reg f.rows).toNat, lanes := lanes,
                      src := some (x.scratchOff f.src f.idx 15) }

/-! Writebacks (R59, R80, R145, R189). -/

/-- The counts of a skip pass added to the quiet record (R189). The header's tag decides, once per group for the rows. -/
def skipCounts (h : Nat) (s : SkipPass) (n0 rows lanes : Nat) (live : List Nat) : OpM Unit := do
  let c ← get
  let x := c.hearth h
  let comp := x.desc (x.pairDescs 1).1
  let p := x.step % 2
  let aux := comp.base + comp.auxOffset * 4096
  let who : Who := { c.who h comp with slot := 2 }
  let tag ← if s.replay then pure [] else readLocal who aux 64
  let hn := leNat tag
  if s.replay then pure ()
  else if bits hn (32 * p + 31) (32 * p) != x.step then update (fun c => if s.first then c.bump (kHth h 12) else c)
  else do
    (if s.first then storeTo who vcReq (aux + 8 + 4 * p) (leBytes 4 (bits hn (64 + 32 * p + 31) (64 + 32 * p) + rows)) else pure ())
    let arr := aux + 4096 + p * (4 * roundUp s.extent 1024) + 4 * n0
    let b ← readLocal who arr (4 * lanes)
    storeTo who vcReq arr ((wordsOf b).mapIdx (fun j v => leBytes 4 (v.toNat + live.getD j 0))).flatten

/-- The mask record of a skip pass (Table 6-9), at the output's aux area. Its mode in REPLAY is 0b11, the card's code: the model's choice (entry 142). -/
def maskRecord (h : Nat) (d : TDesc) (b : Binding) (s : SkipPass) : OpM Unit := do
  let c ← get
  let x := c.hearth h
  let m := (s.lanes.mapIdx (fun j v => b2n v <<< j)).foldl (· + ·) 0
  storeVia h 2 { d with keep := 0 } (d.base + d.auxOffset * 4096 + 32 * x.tileIndex d b.m0 b.n0)
    (leBytes 32 (place m 128 0 + place x.step 32 128 + place d.tensorId 32 160 + place x.skipMode 2 192 + place x.tileHeight 11 194))

/-- A writeback that is no split part, or the closer's combined one (R59, R95). -/
def plainWriteback (h : Nat) (w : Writeback) : OpM Unit := do
  let c ← get
  let x := c.hearth h
  let d := x.desc w.binding.out
  let ch ← readChain h w.binding.record
  let lanes := activeLanes d w.binding.n0
  let live ← runPass h { slot := 2, chain := ch, out := some d, m0 := w.binding.m0, n0 := w.binding.n0, rows := w.values.length, lanes := lanes, vals := w.values,
                         skip := w.skip, segments := w.segments, flags := w.flags, status := w.status }
  match w.skip with
  | none => pure ()
  | some s => do
    maskRecord h d w.binding s
    skipCounts h s w.binding.n0 w.values.length lanes live

/-- The pairs of a segment's bytes: rows of 128 hi values and 128 lo values (R55, R94). -/
def segmentOf (rows : Nat) (b : List Byte) : List (List (Word32 × Word32)) :=
  (List.range rows).map (fun j =>
    let r := wordsOf ((b.drop (1024 * j)).take 1024)
    (r.take 128).zip (r.drop 128))

/-- The bytes of a segment. -/
def segmentBytes (s : List (List (Word32 × Word32))) : List Byte :=
  s.flatMap (fun r => bytesOfWords (r.map (fun p => p.1)) ++ bytesOfWords (r.map (fun p => p.2)))

/-- Closed values of rows of segments in order (R56). -/
def closeSegments (rows : Nat) (segs : List (List (List (Word32 × Word32)))) : List (List Word32) :=
  (List.range rows).map (fun i => (List.range 128).map (fun j => closeGroup (segs.map (fun s => (s.getD i []).getD j (0#32, 0#32)))))

/-- The closer combines all segments, writes the tile back and resets the arrival word (R95). -/
def splitCombine (h : Nat) (w : Writeback) (headers data : List Byte) : OpM Unit := do
  let c ← get
  let x := c.hearth h
  let rows := w.values.length
  let hs := (chunks 64 headers).map leNat
  let segs := (chunks (max 1 (rows * 1024)) data).map (segmentOf rows)
  let flags := hs.foldl (fun f n => Nat.lor f (bits n 71 64)) 0
  let d := x.desc w.binding.out
  plainWriteback h { w with values := closeSegments rows segs, segments := (hs.map (fun n => bits n 87 80)).foldl (· + ·) 0, flags := flags,
                            pairs := [], binding := w.binding }
  storeTo { c.who h d with slot := 2 } vcReq x.splitArea (leBytes 8 0)

/-- The closer with all headers: they are judged, and with every part's sum there it combines them (R96, R97). -/
def splitChecked (h : Nat) (w : Writeback) (headers : List Byte) : OpM Unit := do
  if ← splitJudge h w headers then do
    let c ← get
    let x := c.hearth h
    match ← readRanges { c.who h (x.desc w.binding.out) with slot := 2 } (.splitRead h w headers) (splitRanges x w headers) with
    | some b => splitCombine h w headers b
    | none => pure ()
  else pure ()

/-- A part after its arrival (R94, R95). -/
def splitArrived (h : Nat) (w : Writeback) (old : Nat) : OpM Unit := do
  match ← splitLast h w old with
  | some headers => splitChecked h w headers
  | none => pure ()

/-- A split part's slot written and its arrival made (R94). -/
def splitWriteback (h : Nat) (w : Writeback) : OpM Unit := do
  let c ← get
  let x := c.hearth h
  let d := x.desc w.binding.out
  let a := x.splitSlot (splitPart w.binding.split)
  storeVia h 2 d a (splitHeader x w.binding w.values.length w.fmt w.flags w.terms w.pairs.length w.status)
  (w.pairs.mapIdx (fun i s => (i, s))).forM (fun (q : Nat × List (List (Word32 × Word32))) =>
    storeVia h 2 d (a + 64 + q.1 * w.values.length * 1024) (segmentBytes q.2))
  match ← splitArrive h w with
  | some v => splitArrived h w v
  | none => pure ()

/-- The oldest waiting writeback of a Hearth (R145). -/
def writebackOp (h : Nat) (w : Writeback) : OpM Unit :=
  if w.binding.split != 0 then splitWriteback h w else plainWriteback h w

/-- Whether the oldest writeback of a Hearth can run: the Temper runs passes one at a time, in the order of issue (R145). A split part's arrival and a
closer's reads keep the Temper's next pass. -/
def Core.writebackReady (c : Core) (h : Nat) : Bool :=
  let x := c.hearth h
  x.running && !c.splitBusy h && match x.wbq with
    | w :: _ => !x.waitq.any (fun i => slotOf i.op == 3 && decide (i.seq < w.seq))
    | [] => false

/-- The oldest writeback of a Hearth done; its rows, and its item's footprint with the last of them, are free (R87, R90; entry 100). A fault of it is one of
the A slot's operation that closed the group (entry 68). -/
def Core.runWriteback (c : Core) (h : Nat) : Core :=
  match (c.hearth h).wbq with
  | [] => c
  | w :: rest =>
    let take (c : Core) : Core := c.modHearth h (fun x => ({ x with wbq := rest } : Hearth).freeFootprint w.base)
    c.fenced h (fun p => decide (w.seq ≤ p.upTo)) ((take c).perform h 2 (fun _ => c) (do
      senseWord (.queue (qWrite h)) 0
      writebackOp h w))

end Sys2Proof.Machine
end

