-- ==== Sys2Proof/Machine/Skip.lean ====
section
/-!
DEFINITION. Sys2Proof/Machine/Skip.lean: speculative skipping (R179 to R190): lane maps, the judge, replayed masks, what a skip group
writes back.
-/

namespace Sys2Proof.Machine

/-! Rounding toward plus infinity (R185, R186). -/

def addUp (a b : Word32) : Word32 := toF32Up ((f32V a).add (f32V b))
def mulUp (a b : Word32) : Word32 := toF32Up ((f32V a).mul (f32V b))

/-- The companion descriptor of a skip run (R164), and its aux area (R180, R190). -/
def Hearth.companion (x : Hearth) : TDesc := x.desc (x.pairDescs 1).1
def Hearth.auxArea (x : Hearth) : Nat := x.companion.base + x.companion.auxOffset * 4096

/-- Bytes of one count array of a quiet record (R180). -/
def countBytes (extent : Nat) : Nat := 4 * roundUp extent 1024

/-- lane_map (R182) from the predictions: chosen, probe set, forced. -/
def splitLanes (live quiet : List Nat) : List Nat × List Nat × List Bool :=
  let order := live.map (fun j => (j, true)) ++ quiet.map (fun j => (j, false))
  ((order.take 128).map (fun p => p.1), (order.drop 128).map (fun p => p.1), (order.drop 128).map (fun p => p.2))

/-- The lane map of a SAFE or FAST span, from the slot of step s - 1 (R182). -/
def quietMap (h n0 extent width : Nat) : OpM LaneMap := do
  let c ← get
  let x := c.hearth h
  let who := c.who h x.companion
  let hd ← readLocal who x.auxArea 64
  let n := leNat hd
  let prev := (x.step + 2 ^ 32 - 1) % 2 ^ 32
  let p := prev % 2
  let rows := bits n (64 + 32 * p + 31) (64 + 32 * p)
  let valid := bits n (32 * p + 31) (32 * p) == prev && rows != 0
  let counts ← if valid then (do
      let b ← readLocal who (x.auxArea + 4096 + p * countBytes extent + 4 * n0) (4 * width)
      pure ((wordsOf b).map (fun w => w.toNat)))
    else pure []
  update (fun c => if valid then c else c.bump (kHth h 11))
  let quiet (j : Nat) : Bool := valid && decide (counts.getD j 0 * 65536 ≤ bits n 143 128 * rows)
  let (a, b, f) := splitLanes ((List.range width).filter (fun j => !quiet j)) ((List.range width).filter quiet)
  pure { n0 := n0, extent := extent, width := width, chosen := a, probe := b, forced := f }

/-- The records of column tile q of a REPLAY span: the lanes that every one of them skips, or none (R190). A tile height of 0 in row block 0's record
is a mismatch: the model's choice (entry 143). -/
def replayTile (h n0 q : Nat) : OpM Nat := do
  let c ← get
  let x := c.hearth h
  let d := x.companion
  let tiles := ceilDiv d.ext0 128
  let read (b : Nat) : OpM Nat := do
    let a := x.auxArea + 32 * (b * tiles + n0 / 128 + q)
    checkGlobal a
    require (c.isLocal a) stFormat
    require (match c.place (a % 2 ^ 48) 32 with | .ok (.stacked s) => c.dram.backed s 32 | .ok (.hub _) => true | _ => false) stFormat
    let r ← readLocal (c.who h d) a 32
    pure (leNat r)
  let first ← read 0
  let ht := bits first 204 194
  let rest ← if ht == 0 then pure [] else ((List.range (ceilDiv d.rows ht - 1)).map (· + 1)).mapM read
  let all := first :: rest
  if ht != 0 && all.all (fun r => bits r 191 160 == d.tensorId && bits r 159 128 == x.step) then
    pure (all.foldl (fun m r => Nat.land m (bits r 127 0)) (2 ^ 128 - 1))
  else do
    update (fun c => c.bump (kHth h 9))
    pure 0

/-- The lane map of a REPLAY span: computed neurons take lanes in ascending order, the rest of them catch rounds (R190). -/
def replayMap (h n0 extent width : Nat) : OpM LaneMap := do
  let masks ← (List.range (ceilDiv width 128)).mapM (replayTile h n0)
  let computed := (List.range width).filter (fun j => !bit (masks.getD (j / 128) 0) (j % 128))
  let (a, b, f) := splitLanes computed []
  pure { n0 := n0, extent := extent, width := width, chosen := a, probe := b, forced := f }

/-- The lane map of a span, formed if the Hearth does not hold it; it holds 16 (R182). Of 16 the one formed first gives way: the model's
choice (entry 140). -/
def laneMap (h n0 : Nat) (kinner : Bool) : OpM LaneMap := do
  let c ← get
  let x := c.hearth h
  match x.laneMaps.find? (fun m => m.n0 == n0) with
  | some m => pure m
  | none => do
    let st := x.desc (x.pairDescs 0).1
    let extent := if kinner then st.rows else st.ext0
    let width := min (128 * x.skipSpan) (extent - n0)
    let m ← if x.skipMode == 3 then replayMap h n0 extent width else quietMap h n0 extent width
    update (fun c => c.modHearth h (fun x => { x with laneMaps := (x.laneMaps ++ [m]).drop (x.laneMaps.length - 15) }))
    pure m

/-! The judge (R186). -/

/-- c of R186: 2 + 8(n + 4)2^-24 rounded toward plus infinity. -/
def judgeFactor (n : Nat) : Word32 := toF32Up (.fin false (2 ^ 22 + n + 4) (-21))

/-- Whether a value is at most zero; NaN is not. -/
def fNonPos (a : Word32) : Bool := !fIsNan a && !fPos a

/-- One row's part in the judging of a probe: whether it opens, whether it calls in FAST. -/
def judgeRow (s tau : Word32) (p a : Word32) : Bool × Bool :=
  (!fNonPos (addUp p (mulUp a s)), !fLt p tau)

/-- called_back of probe k (R186): called, and whether it goes out unguarded. -/
def judgeProbe (mode : Nat) (sp : SkipPart) (factor tau : Word32) (k : Nat) : Bool × Bool :=
  if sp.map.forced.getD k false then (true, false)
  else if mode == 3 then (false, false)
  else
    let s := toF32Up ((sp.sigma.getD k .zero).mul (f32V factor))
    let rows := (sp.probes.zip sp.absSum).map (fun r => judgeRow s tau (r.1.getD k 0#32) r.2)
    let isOpen := rows.any (fun r => r.1)
    let call := if mode == 1 then isOpen else rows.any (fun r => r.2)
    (call, mode == 2 && isOpen && !call)

/-- A closed skip group judged (R186). -/
def judgeGroup (h g : Nat) (gr : Group) (sp : SkipPart) : OpM Unit := do
  let c ← get
  let x := c.hearth h
  let tau ← if x.skipMode == 3 then pure 0#32 else (do
    let hd ← readLocal (c.who h x.companion) x.auxArea 64
    pure (BitVec.ofNat 32 (bits (leNat hd) 191 160)))
  let res := (List.range sp.map.probe.length).map (judgeProbe x.skipMode sp (judgeFactor gr.total) tau)
  let called := (sp.map.probe.zip res).filter (fun p => p.2.1)
  let ung := (res.filter (fun r => r.2)).length
  let forcedN := (sp.map.forced.filter (fun b => b)).length
  let sp := { sp with judged := true, called := sortBy (fun a b => decide (a < b)) (called.map (fun p => p.1)), forcedCount := forcedN, unguarded := ung }
  set ((c.bumpBy (kHth h 10) ung).modHearth h (fun x => { x with groups := kvPut x.groups g { gr with skip := some sp } }))

/-! Writeback (R189). -/

/-- The value of neuron j of a row: its main lane, its catch round, or none for a skipped one. -/
def skipValue (sp : SkipPart) (main : List (Word32 × Word32)) (caught : List Word32) (j : Nat) : Option Word32 :=
  match sp.map.chosen.findIdx? (· == j) with
  | some l => let p := main.getD l (0#32, 0#32); some (fadd p.1 p.2)
  | none => match sp.called.findIdx? (· == j) with
    | some k => some (caught.getD k 0#32)
    | none => none

/-- The passes of a skip group: one writeback per column tile of the span that lies within N. `caught` holds, by row, the closed values
of the called-back neurons; `seq` is the place of its ACATCH in the order of issue. -/
def skipPasses (mode seq : Nat) (gr : Group) (sp : SkipPart) (caught : List (List Word32)) : List Writeback :=
  (List.range (ceilDiv sp.map.width 128)).map (fun q =>
    let val (i l : Nat) : Option Word32 :=
      if 128 * q + l < sp.map.width then skipValue sp (gr.acc.getD i []) (caught.getD i []) (128 * q + l) else some 0#32
    { binding := { gr.binding with n0 := gr.binding.n0 + 128 * q }, base := gr.base, slots := gr.rows * gr.slotsPerRow,
      values := (List.range gr.rows).map (fun i => (List.range 128).map (fun l => (val i l).getD 0#32)), segments := 1, flags := gr.flags,
      fmt := gr.fmt, terms := gr.total, seq := seq,
      skip := some { lanes := (List.range 128).map (fun l => (val 0 l).isNone), extent := sp.map.extent, replay := mode == 3, first := q == 0 } })

end Sys2Proof.Machine
end

