-- ==== Sys2Proof/Machine/Anvil.lean ====
section
/-!
DEFINITION. Sys2Proof/Machine/Anvil.lean: the A slot: stationary loads, streams, accumulation groups and their closing (R71 to R102,
R115 to R118), windows (R165, R166), skip groups (R179 to R189) and the catch-up pass.
-/

namespace Sys2Proof.Machine

/-! Pairings. -/

/-- The 16-bit operand formats, and the plain FP8 ones. -/
def Fmt.is16 (f : Fmt) : Bool := f == .bf16 || f == .fp16
def Fmt.isFp8 (f : Fmt) : Bool := f == .e4m3 || f == .e5m2
def Fmt.isMx8 (f : Fmt) : Bool := f == .mx8e4 || f == .mx8e5

/-- The pairings of Table 2-2. -/
def pairAllowed (a b : Fmt) (acc : Nat) : Bool := (a.isFp8 && b.isFp8) || (a.isMx && b.isMx) || (a.is16 && b.is16 && acc != 2)

/-- K positions of a beat (Table 3-1, R73). -/
def kPerBeat (acc : Nat) (a b : Fmt) : Nat :=
  if a.is16 then 128 else if a.isFp8 || a.isMx8 || b.isMx8 then (if acc == 2 then 512 else 256) else 512

/-- The pairings of narrow-K mode (R100). -/
def narrowAllowed (a b : Fmt) (acc : Nat) : Bool := acc != 2 && ((a.isFp8 && b.isFp8) || (a.isMx8 && b.isMx8))

/-- The stationary and streaming descriptors of a pair, as resolved. -/
def Hearth.pairT (x : Hearth) (p : Nat) : TDesc × TDesc := (x.desc (x.pairDescs p).1, x.desc (x.pairDescs p).2)

/-- K and N extents of a stationary tensor (R77). -/
def TDesc.kExt (d : TDesc) (kinner : Bool) : Nat := if kinner then d.ext0 else d.rows
def TDesc.nExt (d : TDesc) (kinner : Bool) : Nat := if kinner then d.rows else d.ext0

/-! Stationary tiles. -/

/-- Bytes of a staged stationary tile of `kp` positions and 128 columns at (k0, n0) of its tensor (R75, R111). -/
def TDesc.tileBytes (d : TDesc) (kinner : Bool) (kp k0 n0 : Nat) : Nat :=
  if kinner then stagedBytes d.fmt (d.blockDim == 0) (d.rowGroups n0 128) kp else stagedBytes d.fmt (d.blockDim == 0) (d.rowGroups k0 kp) 128

/-- The codes of a staged stationary tile by column. -/
def TDesc.tileCols (d : TDesc) (kinner : Bool) (kp k0 n0 : Nat) (b : List Byte) : List (List (Nat × Nat)) :=
  if kinner then stagedCodes d.fmt (d.blockDim == 0) (d.rowGroups n0 128) kp b
  else transposeTile 128 (stagedCodes d.fmt (d.blockDim == 0) (d.rowGroups k0 kp) 128 b)

/-- The values of a column at neuron n: +0 beyond the tensor's extents (R77). -/
def TDesc.colVals (d : TDesc) (kinner : Bool) (k0 n : Nat) (col : List (Nat × Nat)) : List FV :=
  col.mapIdx (fun i e => if k0 + i < d.kExt kinner && n < d.nExt kinner then d.value e else .zero)

/-- Values numbered by the streaming element they meet. -/
def numbered (l : List FV) : List (Nat × FV) := l.mapIdx (fun i v => (i, v))

/-- A staged tile read from scratch. -/
def readTile (h : Nat) (d : TDesc) (kinner : Bool) (kp k0 n0 off : Nat) : OpM (List (List (Nat × Nat))) := do
  checkScratch h off (d.tileBytes kinner kp k0 n0)
  let b ← readScratch h off (d.tileBytes kinner kp k0 n0)
  pure (d.tileCols kinner kp k0 n0 b)

/-- The tiles of a span that lie one after another, each on a KiB boundary (R183). -/
def readTiles (h : Nat) (d : TDesc) (kinner : Bool) (kp k0 : Nat) : Nat → Nat → Nat → OpM (List (List (Nat × Nat)))
  | 0, _, _ => pure []
  | t + 1, n0, off => do
    let a ← readTile h d kinner kp k0 n0 off
    let b ← readTiles h d kinner kp k0 t (n0 + 128) (roundUp (off + d.tileBytes kinner kp k0 n0) 1024)
    pure (a ++ b)

/-- The columns of a span staged as tiles of 128 columns (R183). -/
def readSpan (h : Nat) (d : TDesc) (kinner : Bool) (kp k0 n0 off width : Nat) : OpM (List (List (Nat × Nat))) :=
  readTiles h d kinner kp k0 (ceilDiv width 128) n0 off

/-- An entry of the narrow-K table (R118): k_extent, stream_off and stat_off; none where a reserved bit is set or the extent is past
64, for which the spec names no outcome: the model faults with ST_FORMAT (entry 103). -/
def narrowEntry (n : Nat) : Option (Nat × Nat × Nat) :=
  if bits n 127 39 == 0 && bits n 31 29 == 0 && bits n 15 13 == 0 && decide (bits n 38 32 ≤ 64) then
    some (bits n 38 32, bits n 28 16, bits n 12 0)
  else none

/-- The narrow-K table of the card. -/
def narrowTable (h : Nat) : OpM (List (Nat × Nat × Nat)) := do
  let c ← get
  let a := 1024 * (c.hearth h).cardField 396 384
  checkScratch h a 64
  let b ← readScratch h a 64
  match (chunks 16 b).mapM (fun e => narrowEntry (leNat e)) with
  | some l => pure l
  | none => failWith stFormat

/-! Windows (R165, R166). -/

/-- Largest window of a pairing (Table 6-3). -/
def windowLimit (f : Fmt) : Nat := if f.is16 then 1024 else if f.isMx then 1792 else 2048

/-- A half of a window as staged: kind, rows, columns and its bytes after the header. -/
structure HalfView where
  kind : Nat
  n : Nat
  rows : Nat
  cols : Nat
  at_ : Nat
  deriving DecidableEq, Repr

/-- The staging header of a half (Table 6-6). -/
def readHalf (h off : Nat) : OpM HalfView := do
  checkScratch h off 64
  let b ← readScratch h off 64
  let n := leNat b
  require (decide (bits n 7 0 ≤ 2)) stFormat
  pure { kind := bits n 7 0, n := bits n 23 16, rows := bits n 47 32, cols := bits n 63 48, at_ := off + 64 }

/-- One row's slots of an N:M half: kept positions with their codes, then fillers; `w0` is the half's first window position and `w` the
filler's. -/
def nmSlots (n w0 w : Nat) (vals : List Nat) (masks : List Byte) : List (Nat × Option Nat) :=
  (masks.mapIdx (fun g m =>
    let kept := (List.range 8).filter (fun b => bit m.toNat b)
    (List.range n).map (fun s => match kept[s]? with
      | some b => (w0 + 8 * g + b, some (vals.getD (g * n + s) 0))
      | none => (w, none)))).flatten

/-- A column of a window: its slots (position, code and scale, none for a filler), and for an observed window its non-zero blocks. -/
structure WinCol where
  slots : List (Nat × Option (Nat × Nat))
  blocks : List Nat
  deriving DecidableEq, Repr

/-- The columns of a staged half, whose rows start at neuron n0. -/
def halfCols (h : Nat) (d : TDesc) (v : HalfView) (n0 w0 w : Nat) : OpM (List WinCol) := do
  if v.kind == 1 then do
    let vb := ceilDiv (v.cols * v.n / 8 * d.fmt.elemBits) 8
    let rb := vb + v.cols / 8
    checkScratch h v.at_ (rb * v.rows)
    let b ← readScratch h v.at_ (rb * v.rows)
    pure ((chunks (max 1 rb) b).map (fun r =>
      let codes := unpackCodes d.fmt.elemBits (v.cols * v.n / 8) 0 (r.take vb)
      { slots := (nmSlots v.n w0 w codes (r.drop vb)).map (fun (s : Nat × Option Nat) => (s.1, s.2.map (fun c => (c, 127)))), blocks := [] }))
  else do
    let n := stagedBytes d.fmt (d.blockDim == 0) (d.rowGroups n0 v.rows) v.cols
    checkScratch h v.at_ n
    let b ← readScratch h v.at_ n
    let bm ← if v.kind == 2 then (do
        let a := roundUp (v.at_ + n) 1024
        checkScratch h a (v.cols / 64 * v.rows)
        readScratch h a (v.cols / 64 * v.rows))
      else pure []
    pure ((stagedCodes d.fmt (d.blockDim == 0) (d.rowGroups n0 v.rows) v.cols b).mapIdx (fun i r =>
      let mine := leNat ((bm.drop (i * (v.cols / 64))).take (v.cols / 64))
      { slots := r.mapIdx (fun j e => (w0 + j, some e)), blocks := ((List.range (v.cols / 8)).filter (bit mine)).map (w0 / 8 + ·) }))

/-- The rounds of one column as (streaming element, code and scale) lists (R166). -/
def colRounds (kind kp rounds w : Nat) (c : WinCol) : List (List (Nat × Option (Nat × Nat))) :=
  if kind == 2 then
    (List.range rounds).map (fun q =>
      let bs := (c.blocks.drop (q * (kp / 8))).take (kp / 8)
      let l := bs.flatMap (fun b => (c.slots.drop (8 * b)).take 8)
      l ++ List.replicate (kp - l.length) (w, none))
  else
    (List.range rounds).map (fun q =>
      let l := (c.slots.drop (q * kp)).take kp
      l ++ List.replicate (kp - l.length) (w, none))

/-- Number of rounds (Table 6-4). -/
def windowRounds (kind kp w n : Nat) (cols : List WinCol) : Nat :=
  match kind with
  | 1 => ceilDiv (w * n / 8) kp
  | 2 => max 1 (ceilDiv ((cols.map (fun c => c.blocks.length)).foldl max 0) (kp / 8))
  | _ => w / kp

/-- Whether staged half b is the second half of the window that half a begins: only a window of more than 1,024 columns has two, and none of a 16-bit
pair does (R173, Table 6-3; entry 99). -/
def followsHalf (f : Fmt) (a b : WindowHalf) : Bool :=
  b.desc == a.desc && b.row0 == a.row0 && b.rows == a.rows && b.col0 == a.col0 + a.cols && (b.scratch == a.next || b.scratch == a.alt) &&
    decide (1024 < a.cols + b.cols) && !f.is16

/-- A window loaded into the shadow plane (R165, R166). Positions beyond the tensor's K extent are left out. -/
def loadWindow (h : Nat) (d strm : TDesc) (f : AloadF) (off k0 n0 : Nat) : OpM Plane := do
  require f.kinner stFormat
  let c ← get
  let x := c.hearth h
  let kp := kPerBeat x.accFormat d.fmt strm.fmt
  let v1 ← readHalf h off
  let second : Option WindowHalf := match x.windows.find? (fun (w : WindowHalf) => w.scratch == off) with
    | some a => x.windows.find? (followsHalf d.fmt a)
    | none => none
  let v2 ← match second with
    | some b => (do
        let v ← readHalf h b.scratch
        pure (some v))
    | none => pure none
  let w := v1.cols + (match v2 with | some v => v.cols | none => 0)
  require (w % 256 == 0 && w != 0 && decide (w ≤ windowLimit d.fmt)) stFormat
  require (match v2 with | some v => v.kind == v1.kind && v.n == v1.n && v.rows == v1.rows | none => true) stFormat
  let a ← halfCols h d v1 n0 0 w
  let b ← match v2 with
    | some v => halfCols h d v n0 v1.cols w
    | none => pure []
  let cols := a.mapIdx (fun i p => match b[i]? with
    | some q => { slots := p.slots ++ q.slots, blocks := p.blocks ++ q.blocks : WinCol }
    | none => p)
  let r := windowRounds v1.kind kp w v1.n cols
  let per := (List.range 128).map (fun j => colRounds v1.kind kp r w (cols.getD j ⟨[], []⟩))
  let kx := d.kExt true
  let entry (j : Nat) (e : Nat × Option (Nat × Nat)) : Option (Nat × FV) :=
    if e.1 < w && kx ≤ k0 + e.1 then none
    else some (e.1, match e.2 with | some s => if n0 + j < d.nExt true then d.value s else .zero | none => .zero)
  pure { loaded := true, k0 := k0, n0 := n0, width := w, kinner := true, window := true,
         rounds := (List.range r).map (fun q => per.mapIdx (fun j rs => (rs.getD q []).filterMap (entry j))) }

/-! ALOAD. -/

/-- The shadow scale of an element as a value: 0xFF counts as plus infinity (R185). -/
def shadowScale (s : Nat) : FV := if s == 0xFF then .inf false else .fin false 1 ((s : Int) - 127)

/-- The larger of two values. -/
def fvMax (a b : FV) : FV := if a.lt b then b else a

/-- The probe plane of a SAFE or FAST run (R183, R185). -/
def loadProbe (h : Nat) (f : AloadF) (off k0 n0 : Nat) : OpM Unit := do
  let c ← get
  let x := c.hearth h
  if x.probeNext.isSome then throw { cls := clsHold, status := stOk } else pure ()
  let (st, sm) := x.pairT 0
  let comp := x.companion
  let kp := kPerBeat x.accFormat st.fmt sm.fmt
  let m ← match x.laneMaps.find? (fun m => m.n0 == n0) with
    | some m => pure m
    | none => laneMap h n0 f.kinner
  let span ← readSpan h comp f.kinner kp k0 n0 off m.width
  let cols := m.probe.map (fun j => comp.colVals f.kinner k0 (n0 + j) (span.getD j []))
  let sig := m.probe.map (fun j =>
    (((span.getD j []).take (comp.kExt f.kinner - k0)).map (fun e => shadowScale e.2)).foldl fvMax .zero)
  update (fun c => c.modHearth h (fun x => { x with probeNext := some { k0 := k0, n0 := n0, cols := cols, sigma := sig } }))

/-- ALOAD: the shadow plane filled from staged bytes (R74 to R77, R101, R115, R165, R183). Its narrow bit alone makes it narrow, whatever the card's
narrow_k (entry 102). -/
def aloadOp (h : Nat) (f : AloadF) : OpM Unit := do
  let c ← get
  let x := c.hearth h
  let off := x.scratchOff f.scratch f.idx 14
  let k0 := (x.reg f.k0).toNat
  let n0 := (x.reg f.n0).toNat
  checkScratch h off 0
  if x.skipMode != 0 && f.pair == 1 then
    if x.skipMode == 3 then failWith stFormat else loadProbe h f off k0 n0
  else do
    if x.shadow.isSome then throw { cls := clsHold, status := stOk } else pure ()
    let (st, sm) := x.pairT f.pair
    require (pairAllowed st.fmt sm.fmt x.accFormat) stFormat
    let kp := kPerBeat x.accFormat st.fmt sm.fmt
    let p ← if f.narrow then (do
        require (narrowAllowed st.fmt sm.fmt x.accFormat) stFormat
        let tab ← narrowTable h
        let segs ← tab.mapM (fun e => do
          if e.1 == 0 then pure (List.replicate 128 (numbered (List.replicate 64 .zero)))
          else do
            let cols ← readTile h st f.kinner 64 k0 n0 (off + 1024 * e.2.2)
            pure (cols.map (fun col => numbered (col.mapIdx (fun i v => if i < e.1 then st.value v else .zero)))))
        pure { loaded := true, k0 := k0, n0 := n0, width := kp, kinner := f.kinner, narrow := true, rounds := segs : Plane })
      else if f.pair == 0 && (x.pattern != 0 || x.observe) && st.compress then loadWindow h st sm f off k0 n0
      else if x.skipMode != 0 then (do
        let m ← laneMap h n0 f.kinner
        let span ← readSpan h st f.kinner kp k0 n0 off m.width
        let cols := (List.range 128).map (fun l => match m.chosen[l]? with
          | some j => st.colVals f.kinner k0 (n0 + j) (span.getD j [])
          | none => List.replicate kp FV.zero)
        pure { loaded := true, k0 := k0, n0 := n0, width := kp, kinner := f.kinner, rounds := [cols.map numbered] : Plane })
      else (do
        let cols ← readTile h st f.kinner kp k0 n0 off
        pure { loaded := true, k0 := k0, n0 := n0, width := kp, kinner := f.kinner,
               rounds := [cols.mapIdx (fun j col => numbered (st.colVals f.kinner k0 (n0 + j) col))] : Plane })
    update (fun c => c.modHearth h (fun x => { x with shadow := some p }))

/-! Groups. -/

/-- Slots of one row and the base alignment of the groups of a run (Table 3-4, R184). -/
def Hearth.groupSlots (x : Hearth) : Nat × Nat := if x.skipMode != 0 then (32, 4) else rowSlots x.accFormat (bit x.card 107)

/-- Whether two slot ranges overlap. -/
def slotsMeet (a n b m : Nat) : Bool := decide (a < b + m) && decide (b < a + n)

/-- Checks of the split word of a binding (R117, R93). -/
def splitWordOk (w : Nat) (narrow : Bool) : Bool :=
  w == 0 || (!narrow && decide (1 ≤ bits w 7 0) && decide (bits w 7 0 ≤ 63) && decide (bits w 15 8 ≤ bits w 7 0) && bits w 31 16 == 0)

/-- The chain's stage 0, if it has one. -/
def firstStage (h : Nat) (b : Binding) : OpM Nat := do
  let ch ← readChain h b.record
  pure (match ch.stages with | s :: _ => s.op | [] => 0)

/-- An open of a group with a footprint: the rules of a skip group, then Table 3-5's, then the row count, whose status the spec does not name (R83, R86,
R92, R117, R179; entry 101). -/
def openGroup (h g base rows : Nat) (narrow : Bool) : OpM Unit := do
  let c ← get
  let x := c.hearth h
  let (spr, al) := x.groupSlots
  let n := rows * spr
  require (x.skipMode == 0 || decide (rows ≤ 512)) stFormat
  require ((kvGet x.groups g).isNone && base % al == 0 && decide (base + n ≤ 16384)) stSlotBusy
  require (!x.groups.any (fun p => slotsMeet base n p.2.base (p.2.rows * p.2.slotsPerRow))) stSlotBusy
  (if x.lentRun.isSome then requireLent (decide (15360 ≤ base)) else require (!c.lending h || decide (base + n ≤ 15360)) stSlotBusy)
  require (decide (1 ≤ rows) && decide (rows ≤ 1024)) stFormat
  let b := (kvGet x.bindings g).getD {}
  require (splitWordOk b.split narrow) stFormat
  let skip ← if x.skipMode == 0 then pure none else (do
    require b.noSplit stFormat
    let s0 ← firstStage h b
    require (x.skipMode == 3 || s0 == 0x14 || s0 == 0x15) stFormat
    let kin := match x.shadow with | some p => p.kinner | none => x.current.kinner
    let m ← laneMap h b.n0 kin
    pure (some { map := m, probes := List.replicate rows (m.probe.map (fun _ => 0#32)), absSum := List.replicate rows 0#32,
                 sigma := m.probe.map (fun _ => FV.zero), tiles := [] : SkipPart }))
  let gr : Group := { base := base, rows := rows, slotsPerRow := spr, fmt := x.accFormat, fold := bit x.card 107,
                      binding := b, acc := List.replicate rows (List.replicate 128 (0#32, 0#32)), skip := skip }
  update (fun c => (c.freshSpan (.accum h) (256 * base) (256 * n)).modHearth h (fun x => { x with groups := kvPut x.groups g gr }))

/-- An open group. -/
def groupAt (h g : Nat) : OpM Group := do
  let c ← get
  match kvGet (c.hearth h).groups g with
  | some gr => pure gr
  | none => failWith stSlotBusy

/-- A group's new state. -/
def putGroup (h g : Nat) (gr : Group) : OpM Unit := update (fun c => c.modHearth h (fun x => { x with groups := kvPut x.groups g gr }))

/-- The words of a group's footprint in the accumulator store are read (R81, R82). -/
def senseGroup (h : Nat) (gr : Group) : OpM Unit := senseSpan (.accum h) (256 * gr.base) (256 * (gr.rows * gr.slotsPerRow))

/-- A group gone from the store. -/
def dropGroup (h g : Nat) : OpM Unit := update (fun c => c.modHearth h (fun x => { x with groups := kvDel x.groups g }))

/-- An FP16 code as FP32 (R58, R59). -/
def f16to32 (w : Word32) : Word32 := toF32 (decodeElem .fp16 0 w.toNat)

/-- The address of a group's closed segment i (R55). -/
def Hearth.segAddr (x : Hearth) (rows i : Nat) : Nat := 1024 * x.cardField 364 352 + i * rows * 1024

/-- Closed segments that a group may store (R55). -/
def Hearth.segRoom (x : Hearth) (rows : Nat) : Nat := min 63 (x.cardField 381 368 / rows)

/-- A group's segments in order, the open one last. -/
def groupSegments (h : Nat) (gr : Group) : OpM (List (List (List (Word32 × Word32)))) := do
  let c ← get
  let x := c.hearth h
  let l ← (List.range gr.closedSegs).mapM (fun i => do
    let b ← readScratch h (x.segAddr gr.rows i) (gr.rows * 1024)
    pure (segmentOf gr.rows b))
  pure (l ++ [gr.acc])

/-- The closed values of an FP32 or FP16 group (Table 2-5). -/
def plainClosed (gr : Group) (p : Word32 × Word32) : Word32 :=
  if gr.fmt == 1 then p.1 else if gr.fold then fadd p.2 (f16to32 p.1) else f16to32 p.1

/-- A group that names no output gone without a writeback: counted as abandoned, its rows free (R117). -/
def abandonGroup (h g : Nat) (gr : Group) : OpM Unit := do
  dropGroup h g
  update (fun c => (c.bump (kHth h 2)).modHearth h (fun x => x.freeFootprint gr.base))

/-- A group closed: judged in a skip run, abandoned with no output, or queued for its writeback (R80, R87, R94, R117, R186). -/
def closeOp (h g : Nat) : OpM Unit := do
  let gr ← groupAt h g
  match gr.skip with
  | some sp => do
    require (!sp.judged) stFormat
    senseGroup h gr
    judgeGroup h g gr sp
  | none =>
  if gr.binding.out == 7 then abandonGroup h g gr
  else do
    senseGroup h gr
    let c ← get
    let seq := (c.hearth h).seq
    let segs ← if gr.fmt == 0 then groupSegments h gr else pure [gr.acc.map (fun r => r.map (fun p => (plainClosed gr p, 0#32)))]
    let vals := if gr.fmt == 0 then closeSegments gr.rows segs else gr.acc.map (fun r => r.map (plainClosed gr))
    dropGroup h g
    let w : Writeback := { binding := gr.binding, base := gr.base, slots := gr.rows * gr.slotsPerRow, values := vals, segments := gr.closedSegs + 1,
                           flags := flagIf (gr.closedSegs != 0) gfSegmented gr.flags, fmt := gr.fmt, terms := gr.total,
                           pairs := if gr.binding.split == 0 then [] else segs, seq := seq }
    update (fun c => c.modHearth h (fun x => { x with wbq := x.wbq ++ [w] }))

/-! Streaming. -/

/-- Staged streaming rows of a width; above 1,024 elements they lie as two tiles, the second at the first KiB boundary after the first: the model's choice
(R111, R166; entry 139). -/
def streamRows (h : Nat) (d : TDesc) (off width rows : Nat) : OpM (List (List FV)) := do
  let part (a w : Nat) : OpM (List (List FV)) := do
    let n := rows * stagedRowBytes d.fmt true w
    checkScratch h a n
    let b ← readScratch h a n
    pure ((stagedCodes d.fmt true (rows32 rows) w b).map (fun r => r.map d.value))
  if width ≤ 1024 then part off width
  else do
    let l ← part off 1024
    let r ← part (roundUp (off + rows * stagedRowBytes d.fmt true 1024) 1024) (width - 1024)
    pure ((l.zip r).map (fun p => p.1 ++ p.2))

/-- One column's partial sum before rounding (R43): positions from `cover` up are not covered; a filler meets the value 1 (entry 28). -/
def partialSum (cover width : Nat) (row : List FV) (col : List (Nat × FV)) : FV :=
  FV.sum ((col.filter (fun e => decide (e.1 < cover) || e.1 == width)).map (fun e => (row.getD e.1 (.fin false 1 0)).mul e.2))

/-- A partial rounded to the accumulator's working format and added to an element (R43, R53, R85). -/
def addPartial (fmt : Nat) (p : Word32 × Word32) (v : FV) : Word32 × Word32 :=
  match fmt with
  | 0 => compAdd p (toF32 v)
  | 1 => (fadd p.1 (toF32 v), 0#32)
  | _ =>
    let l : FpLayout := ⟨5, 10, 15, 0⟩
    let t := l.roundCode .rne v
    (BitVec.ofNat 32 (l.roundCode .rne ((l.decode p.1.toNat).add (l.decode t))), p.2)

/-- Rows streamed against rounds of columns into a group's elements, round by round (R84, R166). -/
def accumulate (fmt cover width : Nat) (rounds : List (List (List (Nat × FV)))) (rows : List (List FV)) (acc : List (List (Word32 × Word32))) :
    List (List (Word32 × Word32)) :=
  (acc.zip rows).map (fun ar => rounds.foldl (fun a cols => (a.zip cols).map (fun pc => addPartial fmt pc.1 (partialSum cover width ar.2 pc.2))) ar.1)

/-- 128 columns of +0. -/
def zeroCols (k : Nat) : List (List (Nat × FV)) := List.replicate 128 (numbered (List.replicate k .zero))

/-- A plane's rounds as a stream that is not narrow sees them. -/
def Plane.whole (p : Plane) (kp : Nat) : List (List (List (Nat × FV))) :=
  if !p.loaded then [zeroCols kp]
  else if p.narrow then
    [(List.range 128).map (fun j => (p.rounds.mapIdx (fun s cols => (cols.getD j []).map (fun e => (64 * s + e.1, e.2)))).flatten)]
  else p.rounds

/-- Array rows 64s to 64s + 63 of a plane (R101). -/
def Plane.segment (p : Plane) (s : Nat) : List (List (Nat × FV)) :=
  if !p.loaded then zeroCols 64
  else if p.narrow then p.rounds.getD s []
  else (p.rounds.getD 0 []).map (fun col => (col.filter (fun e => e.1 / 64 == s)).map (fun e => (e.1 - 64 * s, e.2)))

/-- K extent of the stationary tensor under a plane; with nothing loaded the dimension that the streaming tensor's innermost one matches
(R116; entry 29). -/
def Plane.kLimit (p : Plane) (st sm : TDesc) : Nat :=
  if p.loaded then st.kExt p.kinner else if sm.ext0 == st.ext0 then st.ext0 else st.rows

/-- The plane that a stream uses: a loaded shadow plane becomes current first (R74). -/
def promotePlanes (h : Nat) : OpM Plane := do
  let c ← get
  let x := c.hearth h
  let cur := x.shadow.getD x.current
  set (c.setHearth h { x with current := cur, shadow := none,
                              probeCur := match x.probeNext with | some p => some p | none => x.probeCur, probeNext := none })
  pure cur

/-- LONG_SUM set and counted once for a group (R57). -/
def longSum (h : Nat) (gr : Group) : OpM Group := do
  if bit gr.flags gfLongSum then pure gr
  else do
    update (fun c => c.bump (kHth h 4))
    pure { gr with flags := flagIf true gfLongSum gr.flags }

/-- The boundary that falls due before a stream of `n` terms (R55, R57, R58, R84, R89, R179). -/
def groupBoundary (h g n : Nat) (narrow : Bool) : OpM Unit := do
  let gr ← groupAt h g
  senseGroup h gr
  let c ← get
  let x := c.hearth h
  if gr.skip.isSome then require (decide (gr.total + n ≤ 2 ^ 22)) stFormat
  else if gr.fmt == 0 && decide (2 ^ 22 < gr.terms + n) then
    if bit x.card 106 && decide (gr.closedSegs < x.segRoom gr.rows) then do
      let a := x.segAddr gr.rows gr.closedSegs
      checkScratch h a (gr.rows * 1024)
      writeScratch h a (segmentBytes gr.acc)
      putGroup h g { gr with closedSegs := gr.closedSegs + 1, terms := 0, acc := gr.acc.map (fun r => r.map (fun _ => (0#32, 0#32))) }
    else do
      let gr ← longSum h gr
      putGroup h g gr
  else if gr.fmt == 1 && decide (2 ^ 22 < gr.terms + n) then do
    let gr ← longSum h gr
    putGroup h g gr
  else if gr.fmt == 2 && decide (4096 < gr.terms + n) then
    if gr.fold then
      putGroup h g { gr with terms := 0, flags := flagIf true gfFolded gr.flags,
                             acc := gr.acc.map (fun r => r.map (fun p => (0#32, fadd p.2 (f16to32 p.1)))) }
    else do
      putGroup h g { gr with flags := flagIf true gfForced gr.flags }
      closeOp h g
      openGroup h g gr.base gr.rows narrow
  else pure ()

/-- One stream's terms and sums added to a group. -/
def streamInto (h g n cover width : Nat) (rounds : List (List (List (Nat × FV)))) (rows : List (List FV)) : OpM Unit := do
  let gr ← groupAt h g
  putGroup h g { gr with acc := accumulate gr.fmt cover width rounds rows gr.acc, terms := gr.terms + n, total := gr.total + n }

/-- The skip part of a stream (R183, R185). -/
def streamSkip (h g cover : Nat) (p : Plane) (rows : List (List FV)) : OpM Unit := do
  let gr ← groupAt h g
  let c ← get
  let x := c.hearth h
  match gr.skip with
  | none => pure ()
  | some sp => do
    require (!sp.judged && p.loaded && !p.narrow && p.n0 == sp.map.n0) stFormat
    let probing := x.skipMode != 3
    let pc := x.probeCur
    require (!probing || sp.map.probe.isEmpty || (match pc with | some q => q.n0 == p.n0 && q.k0 == p.k0 | none => false)) stFormat
    let cols := match pc with | some q => if probing then q.cols else [] | none => []
    let sig := match pc with | some q => q.sigma | none => []
    let probes := (sp.probes.zip rows).map (fun r => (r.1.zip cols).map (fun q =>
      fadd q.1 (toF32 (FV.sum (((r.2.take cover).zip q.2).map (fun xw => xw.1.mul xw.2))))))
    let abs := (sp.absSum.zip rows).map (fun r => addUp r.1 (toF32Up (FV.sum ((r.2.take cover).map FV.abs))))
    let sp := if probing then { sp with probes := if sp.map.probe.isEmpty then sp.probes else probes, absSum := abs,
                                        sigma := if sp.map.probe.isEmpty then sp.sigma else (sp.sigma.zip sig).map (fun q => fvMax q.1 q.2) } else sp
    putGroup h g { gr with skip := some { sp with tiles := sp.tiles ++ [(p.k0, p.kinner)] } }

/-- Checks that a stream which opens nothing may use a group (Table 3-5). -/
def checkStream (h g rows : Nat) : OpM Unit := do
  let gr ← groupAt h g
  require (gr.rows == rows) stSlotBusy
  require (match gr.skip with | some sp => !sp.judged | none => true) stFormat

/-- ASTREAM (R84, R101, R102, R115, R116, R166, R185). An open whose rows are still being written back waits (Table 3-5). -/
def astreamOp (h : Nat) (f : AstreamF) : OpM Unit := do
  let c ← get
  let x := c.hearth h
  let off := x.scratchOff f.scratch f.idx 14
  let rows := (x.reg f.rows).toNat
  let base := (x.reg f.base).toNat
  let (st, sm) := x.pairT f.pair
  checkScratch h off 0
  require (pairAllowed st.fmt sm.fmt x.accFormat && (x.skipMode == 0 || f.pair == 0)) stFormat
  require (!f.narrow || narrowAllowed st.fmt sm.fmt x.accFormat) stFormat
  let kp := kPerBeat x.accFormat st.fmt sm.fmt
  let gs := if f.narrow then [f.g, f.g + 1, f.g + 2, f.g + 3] else [f.g]
  (if f.opens && gs.length * rows * x.groupSlots.1 != 0 && x.wbq.any (fun w => slotsMeet base (gs.length * rows * x.groupSlots.1) w.base w.slots) then
    throw { cls := clsHold, status := stOk } else pure ())
  (gs.mapIdx (fun j g => (j, g))).forM (fun (p : Nat × Nat) =>
    if f.opens then openGroup h p.2 (base + p.1 * rows * x.groupSlots.1) rows f.narrow else checkStream h p.2 rows)
  let grs ← gs.mapM (groupAt h)
  require ((grs.map (fun g => g.fmt)).eraseDups.length == 1) stSlotBusy
  let pl ← promotePlanes h
  if f.narrow then do
    require (grs.all (fun g => g.skip.isNone)) stFormat
    let tab ← narrowTable h
    ((gs.zip tab).mapIdx (fun j p => (j, p))).forM (fun (q : Nat × Nat × Nat × Nat × Nat) => do
      let (j, g, e) := q
      let data ← if e.1 == 0 then pure (List.replicate rows (List.replicate 64 FV.zero)) else streamRows h sm (off + 1024 * e.2.1) 64 rows
      groupBoundary h g 64 true
      streamInto h g 64 64 64 [pl.segment j] data)
  else do
    let width := if pl.loaded then pl.width else kp
    let cover := min width (pl.kLimit st sm - pl.k0)
    let data ← streamRows h sm off width rows
    groupBoundary h f.g cover false
    streamSkip h f.g cover pl data
    streamInto h f.g cover cover width (pl.whole kp) data
  if f.closes then gs.forM (closeOp h) else pure ()

/-- ABIND: output, chain in force, coordinates and split word latched (R117, R119). -/
def abindOp (h : Nat) (f : AbindF) : OpM Unit :=
  update (fun c => c.modHearth h (fun x =>
    let b : Binding := { out := f.out, record := kvGet x.chains f.chain, m0 := (x.reg f.m0).toNat, n0 := (x.reg f.n0).toNat,
                         split := (x.reg f.split).toNat, noSplit := f.split == 0 }
    { x with bindings := kvPut x.bindings f.g b }))

/-- ACLOSE (R87). -/
def acloseOp (h : Nat) (f : AcloseF) : OpM Unit := do
  let gs := if f.narrow then [f.g, f.g + 1, f.g + 2, f.g + 3] else [f.g]
  let grs ← gs.mapM (groupAt h)
  require ((grs.map (fun g => (g.fmt, g.rows))).eraseDups.length == 1) stSlotBusy
  gs.forM (closeOp h)

/-! ACATCH (R188). -/

/-- The covered positions of a main tile. -/
def tilePositions (st : TDesc) (kp : Nat) (t : Nat × Bool) : List Nat := List.range (min kp (st.kExt t.2 - t.1))

/-- The memory ranges of one neuron's column in one main tile: elements, then the scale byte of each position of an MX tensor. -/
def columnRanges (st : TDesc) (kp n : Nat) (t : Nat × Bool) : List (Nat × Nat) :=
  let ps := tilePositions st kp t
  let eb := st.fmt.elemBits / 8
  let pos (i : Nat) : Nat × Nat := if t.2 then (n, t.1 + i) else (t.1 + i, n)
  let el := if t.2 then (if ps.isEmpty then [] else [(st.rowAddr n + t.1 * eb, ps.length * eb)]) else ps.map (fun i => (st.rowAddr (t.1 + i) + n * eb, eb))
  el ++ if st.fmt.isMx then ps.map (fun i => (st.scalePlane + st.blockOf st.blockDim (pos i).1 (pos i).2, 1)) else []

/-- The values of a column from its bytes. -/
def columnValues (st : TDesc) (kp : Nat) (t : Nat × Bool) (b : List Byte) : List FV :=
  let n := (tilePositions st kp t).length
  let eb := st.fmt.elemBits
  (unpackCodes eb n 0 (b.take (n * eb / 8))).mapIdx (fun i e => st.value (e, if st.fmt.isMx then (b.getD (n * eb / 8 + i) 0#8).toNat else 127))

/-- Bytes fetched for one column. -/
def columnSize (st : TDesc) (kp : Nat) (t : Nat × Bool) : Nat :=
  let n := (tilePositions st kp t).length
  n * st.fmt.elemBits / 8 + if st.fmt.isMx then n else 0

/-- Byte strings of given sizes, one after another. -/
def splitSizes : List Nat → List Byte → List (List Byte)
  | [], _ => []
  | n :: r, b => b.take n :: splitSizes r (b.drop n)

/-- The catch rounds and the writeback of a judged group, with the fetched columns in hand; the fetch buffers hold free bytes
afterwards (entry 30). -/
def acatchFinish (h : Nat) (f : AcatchF) (regs : List (Nat × Word32)) (seq : Nat) (data : List Byte) : OpM Unit := do
  sensePath h
  let gr ← groupAt h f.g
  let c ← get
  let x := c.hearth h
  let list := { x with regs := regs : Hearth }.scratchOff f.list f.idx 14
  let (st, sm) := x.pairT 0
  let kp := kPerBeat x.accFormat st.fmt sm.fmt
  senseGroup h gr
  match gr.skip with
  | none => failWith stFormat
  | some sp => do
    let plan ← readScratch h list 8
    let xoff := 1024 * bits (leNat plan) 12 0
    let stride := 1024 * bits (leNat plan) 28 16
    let buf := 1024 * bits (leNat plan) 44 32
    let caught ← if sp.called.isEmpty then pure [] else (do
      let pieces := splitSizes (sp.tiles.flatMap (fun t => sp.called.map (fun _ => columnSize st kp t))) data
      let cols := chunks sp.called.length pieces
      checkScratch h buf (2 * 65536)
      update (fun c => c.modHearth h (fun x => { x with scratch := memClear x.scratch buf (2 * 65536) }))
      let start : List (List (Word32 × Word32)) := List.replicate gr.rows (sp.called.map (fun _ => (0#32, 0#32)))
      let acc ← ((sp.tiles.zip cols).mapIdx (fun i p => (i, p))).foldlM (fun (acc : List (List (Word32 × Word32))) (q : Nat × (Nat × Bool) × List (List Byte)) => do
        let (i, t, bs) := q
        let rows ← streamRows h sm (xoff + i * stride) kp gr.rows
        let vals := bs.map (fun b => numbered (columnValues st kp t b))
        pure (accumulate 0 (tilePositions st kp t).length kp [vals] rows acc)) start
      pure (acc.map (fun r => r.map (fun p => fadd p.1 p.2))))
    if gr.binding.out == 7 then abandonGroup h f.g gr
    else do
      dropGroup h f.g
      update (fun c => c.modHearth h (fun x => { x with wbq := x.wbq ++ skipPasses x.skipMode seq gr sp caught }))

/-- ACATCH: the plan filled in, the called-back columns fetched, then the catch rounds; of pair 0 whatever its pair bit says (entry 104). -/
def acatchOp (h : Nat) (f : AcatchF) : OpM Unit := do
  let gr ← groupAt h f.g
  let c ← get
  let x := c.hearth h
  let list := x.scratchOff f.list f.idx 14
  let (st, sm) := x.pairT 0
  let kp := kPerBeat x.accFormat st.fmt sm.fmt
  match gr.skip with
  | none => failWith stFormat
  | some sp => do
    require sp.judged stFormat
    let n := sp.called.length
    checkScratch h list (64 + 2 * n)
    writeScratch h (list + 16) (leBytes 4 n ++ leBytes 4 sp.forcedCount ++ leBytes 4 sp.unguarded ++ leBytes 4 (ceilDiv n 128))
    writeScratch h (list + 64) (sp.called.flatMap (fun j => leBytes 2 j))
    let ranges := sp.tiles.flatMap (fun t => sp.called.flatMap (fun j => columnRanges st kp (sp.map.n0 + j) t))
    ranges.forM (fun r => checkWindow h r.1 r.2)
    match ← readRanges (c.who h st) (.acatch h f x.regs x.seq) ranges with
    | some b => acatchFinish h f x.regs x.seq b
    | none => pure ()

end Sys2Proof.Machine
end

