-- ==== Sys2Proof/Machine/Tongs.lean ====
section
/-!
DEFINITION. Sys2Proof/Machine/Tongs.lean: the T and S slots (R110 to R114, R505), windows and compressed forms (R169 to R174), indices out of
range (R175 to R178), and the commands that stand for one store or load of a window.
-/

namespace Sys2Proof.Machine

/-! Parts of rows. -/

/-- Byte strings cut after given sizes, none for the rest. -/
def cutSizes (sizes : List Nat) (b : List Byte) : List (List Byte) := splitSizes sizes b

/-- Where columns `col0` on of row m lie: address, bytes and elements; nothing outside the tensor (R77, R99). -/
def TDesc.rowPart (d : TDesc) (m col0 cols : Nat) : Nat × Nat × Nat :=
  let n := if m < d.rows then min cols (d.ext0 - col0) else 0
  let sb := col0 * d.fmt.elemBits
  if n == 0 then (0, 0, 0) else (d.rowAddr m + sb / 8, ceilDiv (sb + n * d.fmt.elemBits) 8 - sb / 8, n)

/-- The codes of a row part from its bytes, with +0 up to `cols` (R111). -/
def TDesc.rowCodes (d : TDesc) (m col0 cols : Nat) (b : List Byte) : List Nat :=
  let n := (d.rowPart m col0 cols).2.2
  unpackCodes d.fmt.elemBits n (col0 * d.fmt.elemBits % 8) b ++ List.replicate (cols - n) 0

/-- Where the scale bytes of the blocks along a row part lie, or those of its single columns (R40, R111). -/
def TDesc.scalePart (d : TDesc) (m col0 cols : Nat) : Nat × Nat :=
  let n := (d.rowPart m col0 cols).2.2
  if !d.fmt.isMx || n == 0 then (0, 0)
  else (d.scalePlane + d.blockOf d.blockDim m col0, if d.blockDim == 0 then ceilDiv n 32 else n)

/-- Scale bytes filled up with 127 (R111). -/
def padScales (n : Nat) (b : List Byte) : List Byte := b ++ List.replicate (n - b.length) (BitVec.ofNat 8 127)

/-! TLOAD. -/

/-- The operands of a TLOAD or TSTORE as read at issue. -/
structure TileArgs where
  d : TDesc
  row0 : Nat
  col0 : Nat
  rows : Nat
  cols : Nat
  off : Nat

/-- Operands of a TLOAD (Table 4-4). -/
def Hearth.tloadArgs (x : Hearth) (f : TloadF) : TileArgs :=
  { d := x.desc f.desc, row0 := (x.reg f.row0).toNat, col0 := (x.reg f.col0).toNat, rows := (x.reg f.rows).toNat, cols := 32 * (f.cols32 + 1),
    off := x.scratchOff f.scratch f.idx 13 }

/-- The row groups of a tile. -/
def TileArgs.groups (t : TileArgs) : List Nat := t.d.rowGroups t.row0 t.rows

/-- A row of each row group of a tile: its blocks are those that the tile's scale bytes name where blocks do not run along the rows. -/
def TileArgs.groupFirst (t : TileArgs) : List Nat := (List.range (groupCount t.groups)).map (fun g => t.row0 + t.groups.findIdx (· == g))

/-- The memory ranges of a tile: rows, then scales. -/
def TileArgs.ranges (t : TileArgs) : List (Nat × Nat) :=
  let ms := (List.range t.rows).map (t.row0 + ·)
  (ms.map (fun m => let p := t.d.rowPart m t.col0 t.cols; (p.1, p.2.1))) ++
    (if !t.d.fmt.isMx then [] else (if t.d.blockDim == 0 then ms else t.groupFirst).map (fun m => t.d.scalePart m t.col0 t.cols))

/-- A tile as it is staged, from the bytes of its ranges (R111). -/
def TileArgs.staged (t : TileArgs) (transpose : Bool) (data : List Byte) : List Byte :=
  let parts := cutSizes (t.ranges.map (fun r => r.2)) data
  let ms := (List.range t.rows).map (t.row0 + ·)
  let codes := (ms.zip parts).map (fun p => t.d.rowCodes p.1 t.col0 t.cols p.2)
  let sc := parts.drop t.rows
  let w := t.d.fmt.elemBits
  if transpose then ((transposeTile t.cols codes).map (packCodes w)).flatten
  else if !t.d.fmt.isMx then (codes.map (packCodes w)).flatten
  else if t.d.blockDim == 0 then ((codes.zip sc).map (fun p => packCodes w p.1 ++ padScales (t.cols / 32) p.2)).flatten
  else (codes.map (packCodes w)).flatten ++ (sc.map (padScales t.cols)).flatten

/-- Bytes of a tile in scratch. -/
def TileArgs.size (t : TileArgs) (f : Fmt) : Nat := stagedBytes f (t.d.blockDim == 0) t.groups t.cols

/-- Whether a TLOAD stages a window (R173). -/
def Hearth.windowLoad (x : Hearth) (d : TDesc) : Bool := (x.pattern != 0 || x.observe) && d.compress

/-! The aux area (R114). -/

/-- Bytes from the base to the end of the element plane. -/
def TDesc.span (d : TDesc) : Nat := (d.ext1 - 1) * d.stride1 + (d.ext2 - 1) * d.stride2 + (d.ext3 - 1) * d.stride3 + d.rowBytes

/-- Number of MX blocks with blocks along `dim` (R40). -/
def TDesc.blockCount (d : TDesc) (dim : Nat) : Nat :=
  let e (j x : Nat) := if dim == j then ceilDiv x 32 else x
  e 0 d.ext0 * e 1 d.ext1 * e 2 d.ext2 * e 3 d.ext3

/-- The second MX copy, at the aux area's start: with blocks along dimension 1 it has dimensions 0 and 1 exchanged, packed, and blocks along its own
innermost dimension (R250; entry 111); else it has the main tensor's layout, with its blocks along alt_block_dim (R114). -/
def TDesc.altDesc (d : TDesc) : TDesc :=
  let b := d.base + d.auxOffset * 4096
  let rb := ceilDiv (d.ext1 * d.fmt.elemBits) 8
  if d.altDim == 1 then
    { d with base := b, ext0 := d.ext1, ext1 := d.ext0, stride1 := rb, stride2 := rb * d.ext0, stride3 := rb * d.ext0 * d.ext2, blockDim := 0 }
  else { d with base := b, blockDim := d.altDim }

/-- Where element (m, n) of a tensor's view lies in the view with dimensions 0 and 1 exchanged. -/
def TDesc.exchanged (d : TDesc) (m n : Nat) : Nat × Nat :=
  let (i0, i1, i2, i3) := d.coord m n
  (i0 + d.ext0 * (i2 + d.ext2 * i3), i1)

/-- Whether a second copy is written. -/
def TDesc.hasAlt (d : TDesc) : Bool := d.altCopy && d.fmt.isMx

/-- End of the second copy, which has the main tensor's size. -/
def TDesc.altEnd (d : TDesc) : Nat :=
  let a := d.base + d.auxOffset * 4096
  if d.hasAlt then roundUp (a + max d.span (d.scalePlane - d.base + d.blockCount d.blockDim)) 4096 else a

/-- The FP4 shadow as a packed MXFP4 tensor, and the start of its scale plane (R179). -/
def TDesc.shadowDesc (d : TDesc) : TDesc :=
  let rb := ceilDiv d.ext0 2
  { d with base := d.altEnd, code := 9, rounding := 0, nonSat := false, picked := false, stride1 := rb, stride2 := rb * d.ext1,
           stride3 := rb * d.ext1 * d.ext2, scale := 0, k := 0 }
def TDesc.shadowScales (d : TDesc) : Nat := roundUp (d.altEnd + ceilDiv d.ext0 2 * d.rows) 4096

/-- Start of the compressed form. -/
def TDesc.compAt (d : TDesc) : Nat := if d.shadow then roundUp (d.shadowScales + d.blockCount d.blockDim) 4096 else d.altEnd

/-- Lines of a row, and the planes of a compressed form (R169). -/
def TDesc.lines (d : TDesc) : Nat := ceilDiv d.ext0 256
def TDesc.tagAt (d : TDesc) (m l : Nat) : Nat := d.compAt + 16 * (m * d.lines + l)
def TDesc.maskPlane (d : TDesc) : Nat := roundUp (d.compAt + 16 * d.rows * d.lines) 4096
def TDesc.maskAt (d : TDesc) (m l : Nat) : Nat := d.maskPlane + 32 * (m * d.lines + l)
def TDesc.lineValues (d : TDesc) (n : Nat) : Nat := 32 * n * d.fmt.elemBits / 8
def TDesc.valueAt (d : TDesc) (n m l : Nat) : Nat := roundUp (d.maskPlane + 32 * d.rows * d.lines) 4096 + d.lineValues n * (m * d.lines + l)

/-- The (row, line) pairs that a tile covers inside the tensor. -/
def TileArgs.lineList (t : TileArgs) : List (Nat × Nat) :=
  let ls := (List.range (ceilDiv (t.col0 + t.cols) 256 - t.col0 / 256)).map (t.col0 / 256 + ·)
  ((List.range t.rows).map (t.row0 + ·)).flatMap (fun m => if m < t.d.rows then (ls.filter (fun l => decide (l < t.d.lines))).map (fun l => (m, l)) else [])

/-- Whether a tag line names a tensor and a step (R170, R174). -/
def tagNames (d : TDesc) (step n : Nat) : Bool := d.tensorId != 0 && bits n 31 0 == d.tensorId && bits n 63 32 == step

/-! Windows (R173, R174). -/

/-- Bytes that a half takes after its start, by kind. -/
def windowEnd (t : TileArgs) (n kind : Nat) : Nat :=
  let dense := t.off + 64 + t.size t.d.fmt
  match kind with
  | 1 => t.off + 64 + t.rows * (t.cols * n / 8 * t.d.fmt.elemBits / 8 + t.cols / 8)
  | 2 => roundUp dense 1024 + t.rows * (t.cols / 64)
  | _ => dense

/-- The operands of a staged half. -/
def Hearth.halfArgs (x : Hearth) (w : WindowHalf) : TileArgs :=
  { d := x.desc w.desc, row0 := w.row0, col0 := w.col0, rows := w.rows, cols := w.cols, off := w.scratch }

/-- The lines of one row of a window, none where the row or the line lies outside the tensor. -/
def TileArgs.rowLines (t : TileArgs) (m : Nat) : List (Option Nat) :=
  (List.range (t.cols / 256)).map (fun l => if m < t.d.rows && t.col0 / 256 + l < t.d.lines then some (t.col0 / 256 + l) else none)

/-- The memory ranges that a half is staged from, by kind. -/
def TileArgs.windowRanges (t : TileArgs) (n kind : Nat) : List (Nat × Nat) :=
  let ms := (List.range t.rows).map (t.row0 + ·)
  let per (f : Nat → Nat → List (Nat × Nat)) := ms.flatMap (fun m => (t.rowLines m).flatMap (fun l => match l with | some l => f m l | none => []))
  match kind with
  | 1 => per (fun m l => [(t.d.valueAt n m l, t.d.lineValues n)]) ++ per (fun m l => [(t.d.maskAt m l, 32)])
  | 2 => t.ranges ++ per (fun m l => [(t.d.tagAt m l + 8, 4)])
  | _ => t.ranges

/-- Pieces of one size dealt out to the lines that exist, and zeros to the others. -/
def dealLines (t : TileArgs) (size : Nat) (b : List Byte) : List (List Byte) :=
  let ls := ((List.range t.rows).map (t.row0 + ·)).map t.rowLines
  (ls.foldl (fun (acc : List (List Byte) × List Byte) row =>
    let r := row.foldl (fun (a : List Byte × List Byte) l =>
      match l with
      | some _ => (a.1 ++ a.2.take size, a.2.drop size)
      | none => (a.1 ++ List.replicate size 0#8, a.2)) ([], acc.2)
    (acc.1 ++ [r.1], r.2)) ([], b)).1

/-- The staging header (Table 6-6). -/
def stagingHeader (kind cause n rows cols : Nat) : List Byte :=
  leBytes 64 (place kind 8 0 + place cause 8 8 + place n 8 16 + place rows 16 32 + place cols 16 48)

/-- A half as it lies in scratch, from the bytes of its ranges. Of a dense one the header's n is 0 in an N:M run too: the model's choice (R173; entry 141). -/
def TileArgs.windowStaged (t : TileArgs) (n kind cause : Nat) (data : List Byte) : List Byte :=
  let hd := stagingHeader kind cause (if kind == 1 then n else 0) t.rows t.cols
  match kind with
  | 1 =>
    let lines := (t.lineList).length
    let vals := dealLines t (t.d.lineValues n) (data.take (lines * t.d.lineValues n))
    let masks := dealLines t 32 (data.drop (lines * t.d.lineValues n))
    hd ++ ((vals.zip masks).map (fun p => p.1 ++ p.2)).flatten
  | 2 =>
    let dense := t.staged false (data.take ((t.ranges.map (fun r => r.2)).foldl (· + ·) 0))
    let bm := (dealLines t 4 (data.drop ((t.ranges.map (fun r => r.2)).foldl (· + ·) 0))).flatten
    let gap := roundUp (t.off + 64 + dense.length) 1024 - (t.off + 64 + dense.length)
    hd ++ dense ++ List.replicate gap 0#8 ++ bm
  | _ => hd ++ t.staged false data

/-- A half's record, with its boundaries. -/
def Hearth.halfRecord (x : Hearth) (t : TileArgs) (desc kind : Nat) : WindowHalf :=
  let form := if x.pattern != 0 then 1 else 2
  { scratch := t.off, next := roundUp (windowEnd t x.patternN kind) 1024, alt := roundUp (windowEnd t x.patternN (if kind == 0 then form else 0)) 1024,
    kind := kind, desc := desc, row0 := t.row0, col0 := t.col0, rows := t.rows, cols := t.cols }

/-- The padding between a dense tile and its bitmaps is not written. -/
def writeStaged (h : Nat) (t : TileArgs) (kind : Nat) (b : List Byte) : OpM Unit :=
  if kind == 2 then do
    let n := 64 + t.size t.d.fmt
    writeScratch h t.off (b.take n)
    writeScratch h (roundUp (t.off + n) 1024) (b.drop (roundUp (t.off + n) 1024 - t.off))
  else writeScratch h t.off b

/-- Half `w` staged from its bytes. -/
def windowArrived (h : Nat) (w : WindowHalf) (cause : Nat) (data : List Byte) : OpM Unit := do
  sensePath h
  let c ← get
  let x := c.hearth h
  let t := x.halfArgs w
  writeStaged h t w.kind (t.windowStaged x.patternN w.kind cause data)

/-- Half `w` read from memory and staged. -/
def stageHalf (h : Nat) (w : WindowHalf) (cause : Nat) : OpM Unit := do
  let c ← get
  let x := c.hearth h
  let t := x.halfArgs w
  let rs := t.windowRanges x.patternN w.kind
  checkScratch h w.scratch (windowEnd t x.patternN w.kind - w.scratch)
  rs.forM (fun r => checkWindow h r.1 r.2)
  update (fun c => c.modHearth h (fun x =>
    { x with windows := x.windows.filter (fun v => decide (v.next ≤ w.scratch) || decide (w.next ≤ v.scratch)) ++ [w] }))
  match ← readRanges (c.who h t.d) (.window h w cause) rs with
  | some b => windowArrived h w cause b
  | none => pure ()

/-- The tags of a window in hand: it is staged in its form or as a dense fallback, with its other half (R174). Where the first half, staged as dense, reaches
past the second half's place, the second lies at the first KiB boundary after it (entry 31). -/
def windowTags (h : Nat) (f : TloadF) (regs : List (Nat × Word32)) (tags : List Byte) : OpM Unit := do
  let c ← get
  let x := { c.hearth h with regs := regs : Hearth }
  let t := x.tloadArgs f
  let ns := (chunks 16 tags).map leNat
  let form := if x.pattern != 0 then 1 else 2
  let own := if ns.any (fun n => !tagNames t.d x.step n) then 1 else if ns.any (fun n => bit n 96) then 2 else 0
  let me := x.halfRecord t f.desc (if own == 0 then form else 0)
  match x.windows.find? (fun a => followsHalf t.d.fmt a me) with
  | none => do
    update (fun c => if own == 0 then c else c.bump (kHth h 9))
    stageHalf h me own
  | some a =>
    if a.kind == 0 then stageHalf h (x.halfRecord (if t.off < a.next then { t with off := a.next } else t) f.desc 0) (if own == 0 then 3 else own)
    else if own == 0 then stageHalf h me 0
    else do
      update (fun c => c.bump (kHth h 9))
      let first := x.halfRecord (x.halfArgs a) a.desc 0
      let t := if t.off < first.next then { t with off := first.next } else t
      stageHalf h first 3
      stageHalf h (x.halfRecord t f.desc 0) own

/-- A TLOAD of a window whose tags do not come in time: ones over its destination (Table 14-9). -/
def windowOnes (h : Nat) (f : TloadF) (regs : List (Nat × Word32)) : OpM Unit := do
  let c ← get
  let x := { c.hearth h with regs := regs : Hearth }
  let t := x.tloadArgs f
  writeScratch h t.off (List.replicate (windowEnd t x.patternN (if x.pattern != 0 then 1 else 2) - t.off) 0xFF#8)

/-- A TLOAD's bytes in hand. -/
def tloadArrived (h : Nat) (f : TloadF) (regs : List (Nat × Word32)) (data : List Byte) : OpM Unit := do
  sensePath h
  let c ← get
  let x := { c.hearth h with regs := regs : Hearth }
  let t := x.tloadArgs f
  if x.windowLoad t.d then windowTags h f regs data else writeScratch h t.off (t.staged f.transpose data)

/-- TLOAD (R110, R111, R173, R505). -/
def tloadOp (h : Nat) (f : TloadF) : OpM Unit := do
  let c ← get
  let x := c.hearth h
  let t := x.tloadArgs f
  require (!(f.transpose && t.d.fmt.isMx)) stFormat t.d.base
  checkScratch h t.off (if x.windowLoad t.d then 0 else t.size t.d.fmt)
  require (t.rows == 0 || t.d.readAligned t.row0 t.col0) stFormat t.d.base
  let rs ← if x.windowLoad t.d then (do
      require (!f.transpose && t.col0 % 256 == 0 && t.cols % 256 == 0) stFormat t.d.base
      pure (t.lineList.map (fun p => (t.d.tagAt p.1 p.2, 16))))
    else pure t.ranges
  rs.forM (fun r => checkWindow h r.1 r.2)
  match ← readRanges (c.who h t.d) (.tload h f x.regs) rs with
  | some b => tloadArrived h f x.regs b
  | none => pure ()

/-! TGATHER, TFILL. -/

/-- The row numbers of a gather or scatter: none where one is out of range (R175). -/
def indexRows (d : TDesc) (ib : List Byte) (count : Nat) : List (Option Nat) :=
  (unpackCodes 32 count 0 ib).map (fun i => if i < 2 ^ 31 && i < d.rows then some i else none)

/-- Rows out of range counted, with a notice; under strict the first one is a fault and ends the operation (R175 to R177). -/
def countRange (h bad : Nat) : OpM Unit := do
  let c ← get
  if bad == 0 then pure ()
  else do
    set (c.bumpBy (kHth h 8) (if (c.hearth h).strict then 1 else bad))
    if (c.hearth h).strict then failWith stIndexRange else notePending h stIndexRange

/-- The ranges of gathered rows: each row's elements and its scales (R111). -/
def gatherRanges (d : TDesc) (col0 cols : Nat) (ms : List (Option Nat)) : List (Nat × Nat) :=
  ms.flatMap (fun m => match m with
    | some m => let p := d.rowPart m col0 cols; [(p.1, p.2.1), d.scalePart m col0 cols]
    | none => [(0, 0), (0, 0)])

/-- Gathered rows as they are staged. -/
def gatherStaged (d : TDesc) (col0 cols : Nat) (ms : List (Option Nat)) (data : List Byte) : List Byte :=
  let parts := chunks 2 (cutSizes ((gatherRanges d col0 cols ms).map (fun r => r.2)) data)
  ((ms.zip parts).map (fun (p : Option Nat × List (List Byte)) =>
    let codes := match p.1 with
      | some m => d.rowCodes m col0 cols (p.2.getD 0 [])
      | none => List.replicate cols 0
    packCodes d.fmt.elemBits codes ++
      (if d.fmt.isMx then padScales (if d.blockDim == 0 then cols / 32 else cols) (p.2.getD 1 []) else []))).flatten

/-- Bytes of one gathered row. -/
def gatherRowBytes (d : TDesc) (cols : Nat) : Nat :=
  ceilDiv (cols * d.fmt.elemBits) 8 + if d.fmt.isMx then (if d.blockDim == 0 then cols / 32 else cols) else 0

/-- A TGATHER's bytes in hand. -/
def tgatherArrived (h : Nat) (f : TindexF) (regs : List (Nat × Word32)) (data : List Byte) : OpM Unit := do
  sensePath h
  let c ← get
  let x := { c.hearth h with regs := regs : Hearth }
  let d := x.desc f.desc
  let count := (x.reg f.count).toNat
  let ib ← readScratch h (1024 * f.index) (4 * count)
  writeScratch h (1024 * f.scratch) (gatherStaged d (x.reg f.col0).toNat (32 * (f.cols32 + 1)) (indexRows d ib count) data)

/-- TGATHER (R110, R111, R175). -/
def tgatherOp (h : Nat) (f : TindexF) : OpM Unit := do
  let c ← get
  let x := c.hearth h
  let d := x.desc f.desc
  let count := (x.reg f.count).toNat
  let col0 := (x.reg f.col0).toNat
  let cols := 32 * (f.cols32 + 1)
  checkScratch h (1024 * f.index) (4 * count)
  checkScratch h (1024 * f.scratch) (gatherRowBytes d cols * count)
  require (count == 0 || !d.fmt.isMx || d.blockDim != 0 || col0 % 32 == 0) stFormat d.base
  let ib ← readScratch h (1024 * f.index) (4 * count)
  let ms := indexRows d ib count
  countRange h (ms.filter Option.isNone).length
  let rs := gatherRanges d col0 cols ms
  rs.forM (fun r => checkWindow h r.1 r.2)
  match ← readRanges (c.who h d) (.tgather h f x.regs) rs with
  | some b => tgatherArrived h f x.regs b
  | none => pure ()

/-- TFILL: the pattern repeated over the range (Table 4-4). -/
def tfillOp (h : Nat) (f : TfillF) : OpM Unit := do
  checkScratch h (1024 * f.scratch) (1024 * f.length)
  writeScratch h (1024 * f.scratch) (List.replicate (512 * f.length) (leBytes 2 f.pattern)).flatten

/-! TSTORE. -/

/-- Operands of a TSTORE (Table 4-5). -/
def Hearth.tstoreArgs (x : Hearth) (f : TstoreF) : TileArgs :=
  { d := x.desc f.desc, row0 := (x.reg f.row0).toNat, col0 := (x.reg f.col0).toNat, rows := (x.reg f.rows).toNat, cols := 32 * (f.cols32 + 1),
    off := x.scratchOff f.scratch f.idx 13 }

/-- The source formats that a TSTORE takes (R113). -/
def sourceOk (src : Option Fmt) (target : Fmt) : Bool :=
  match src with
  | some f => f == target || f == .fp32 || f == .bf16 || f == .fp16
  | none => false

/-- The elements of a tile that lie inside the tensor. -/
def TileArgs.inside {α : Type} (t : TileArgs) (rows : List (List α)) : List (Nat × Nat × α) := placeTile t.d t.row0 t.col0 t.cols rows

/-- A code as it was stored, counted as no outcome. -/
def rawElem (e : Nat × Nat) : OutElem := { code := e.1, scale := e.2, outc := {} }

/-- The real value of a written element as FP32 (exact: every format but FP32 is narrower, and FP32 is copied). -/
def outValue (d : TDesc) (e : OutElem) : FV := d.value (e.code, e.scale)

/-- A store of converted values into an auxiliary MX tensor `a`, whole blocks only (R114, R505): its writes. The values are converted as elements of the
main tensor's view (R49) under the settings of `d`, with blocks along `dim`; `swap` tells that the tensor has dimensions 0 and 1 exchanged. -/
def auxWrites (t : TileArgs) (d : TDesc) (dim : Nat) (a : TDesc) (swap : Bool) (seed step : Nat) (plane : Nat) (vals : List (Nat × Nat × Word32)) :
    OpM (List Piece) := do
  require (t.rows == 0 || t.d.wholeBlocks dim t.row0 t.rows t.col0 t.cols) stFormat a.base
  let out := convList d d.fmt dim seed step vals
  let out := if !swap then out
    else sortBy (fun (u v : Nat × Nat × OutElem) => u.1 < v.1 || (u.1 == v.1 && u.2.1 < v.2.1)) (out.map (fun e => let p := t.d.exchanged e.1 e.2.1; (p.1, p.2, e.2.2)))
  let sc := (scaleWrites { a with base := 0, scale := 0, picked := false } a.blockDim out).map (fun w => { w with addr := plane + w.addr })
  pure (elemWrites a out ++ sc)

/-! Compressed forms (R169 to R172). -/

/-- Whether an element is plus or minus zero; NaN is not. -/
def outZero (d : TDesc) (e : OutElem) : Bool := (outValue d e).isZero

/-- The order in which pruning keeps elements: NaN first, then larger magnitude, then lower position (R172). -/
def pruneBefore (d : TDesc) (a b : Nat × OutElem) : Bool :=
  let x := (outValue d a.2).abs
  let y := (outValue d b.2).abs
  if x.isNan != y.isNan then x.isNan else if y.lt x then true else if x.lt y then false else decide (a.1 < b.1)

/-- The elements of one row and 8-element group. -/
def groupElems (elems : List (Nat × Nat × OutElem)) (m g : Nat) : List (Nat × OutElem) :=
  (elems.filter (fun e => e.1 == m && e.2.1 / 8 == g)).map (fun e => (e.2.1, e.2.2))

/-- The (row, group) pairs of a list of placed elements. -/
def groupKeys (elems : List (Nat × Nat × OutElem)) : List (Nat × Nat) := (elems.map (fun e => (e.1, e.2.1 / 8))).eraseDups

/-- The columns of a row that pruning drops to reach N non-zeros in every group (R172). -/
def prunedCols (d : TDesc) (n : Nat) (elems : List (Nat × Nat × OutElem)) : List (Nat × Nat) :=
  (groupKeys elems).flatMap (fun k =>
    let nz := (groupElems elems k.1 k.2).filter (fun e => !outZero d e.2)
    ((sortBy (pruneBefore d) nz).drop n).map (fun e => (k.1, e.1)))

/-- The tag line (Table 6-5). -/
def tagBytes (d : TDesc) (step bm : Nat) (dense : Bool) : List Byte :=
  leBytes 16 (place d.tensorId 32 0 + place step 32 32 + place bm 32 64 + place (b2n dense) 1 96)

/-- How much of a group or line the tile covers: all of its elements inside the tensor, or some. -/
def TileArgs.coversAll (t : TileArgs) (a n : Nat) : Bool := decide (t.col0 ≤ a) && (decide (a + n ≤ t.col0 + t.cols) || decide (t.d.ext0 ≤ t.col0 + t.cols))
def TileArgs.meets (t : TileArgs) (a n : Nat) : Bool := decide (a < t.col0 + t.cols) && decide (t.col0 < a + n)

/-- A line of a bitmap form written (R170). A block that the tile covers in part keeps its bit where it was set: the model's choice (entry 137). -/
def bitmapLine (t : TileArgs) (step : Nat) (elems : List (Nat × Nat × OutElem)) (m l old : Nat) : List (Nat × List Byte) :=
  let hit := tagNames t.d step old
  let blk (b : Nat) : Bool :=
    let a := 256 * l + 8 * b
    let nz := (groupElems elems m (a / 8)).any (fun e => !outZero t.d e.2)
    let was := if hit then bit old (64 + b) else !t.coversAll (256 * l) 256
    if t.coversAll a 8 && t.meets a 8 then nz else if t.meets a 8 then nz || was else was
  let bm := ((List.range 32).map (fun b => b2n (blk b) <<< b)).foldl (· + ·) 0
  [(t.d.tagAt m l, tagBytes t.d step bm (hit && bit old 96))]

/-- A line of an N:M form written (R170). A group that the tile covers in part leaves the line dense (entry 33). -/
def nmLine (t : TileArgs) (n step : Nat) (elems : List (Nat × Nat × OutElem)) (m l old : Nat) : List (Nat × List Byte) :=
  let hit := tagNames t.d step old
  let whole := t.coversAll (256 * l) 256
  if !hit && !whole then [(t.d.tagAt m l, tagBytes t.d step 0 true)]
  else
    let gs := (List.range 32).filter (fun g => if hit then t.meets (256 * l + 8 * g) 8 else true)
    let partly := gs.any (fun g => t.meets (256 * l + 8 * g) 8 && !t.coversAll (256 * l + 8 * g) 8)
    let kept (g : Nat) : List (Nat × OutElem) := (groupElems elems m (32 * l + g)).filter (fun e => !outZero t.d e.2)
    let mask (g : Nat) : Nat := ((kept g).map (fun e => 1 <<< (e.1 % 8))).foldl (· + ·) 0
    let codes (g : Nat) : List Nat := let k := (kept g).map (fun e => e.2.code); (k ++ List.replicate (n - k.length) 0).take n
    let vb := n * t.d.fmt.elemBits / 8
    (t.d.tagAt m l, tagBytes t.d step 0 (hit && bit old 96 || partly)) ::
      gs.map (fun g => (t.d.maskAt m l + g, leBytes 1 (mask g))) ++ gs.map (fun g => (t.d.valueAt n m l + g * vb, packCodes t.d.fmt.elemBits (codes g)))

/-- A TSTORE with the tag lines it needs in hand (R112 to R114, R170, R172). -/
def tstoreArrived (h : Nat) (f : TstoreF) (regs : List (Nat × Word32)) (tags : List Byte) : OpM Unit := do
  let c ← get
  let x := { c.hearth h with regs := regs : Hearth }
  let t := x.tstoreArgs f
  let d := t.d
  let src := (fmtOfCode f.srcFmt).getD .fp32
  let raw := src == d.fmt
  let (r, k) := if f.transpose then (t.cols, t.rows) else (t.rows, t.cols)
  let gs := if f.transpose then rows32 r else t.groups
  let b ← readScratch h t.off (stagedBytes src (d.blockDim == 0) gs k)
  let tile := stagedCodes src (d.blockDim == 0) gs k b
  let tile := t.inside (if f.transpose then transposeTile t.rows tile else tile)
  let vals := tile.map (fun e => (e.1, e.2.1, if raw then toF32 (d.value e.2.2) else toF32 (decodeElem src 0 e.2.2.1)))
  let out := if raw then tile.map (fun e => (e.1, e.2.1, rawElem e.2.2)) else convList d d.fmt d.blockDim x.seed x.step vals
  (if raw then pure () else update (fun c => c.feedStats d x.step (gaugeOf d.fmt.isMx vals out)))
  let n := x.patternN
  let form := d.compress && (x.pattern != 0 || x.observe)
  let drop := if form && x.pattern != 0 then prunedCols d n out else []
  let violated := x.strict && !drop.isEmpty
  (if violated then do
      update (fun c => c.bump (kHth h 6))
      notePending h stFormat
    else update (fun c => c.bumpBy (kHth h 7) drop.length))
  let out := if violated then out else out.map (fun e => if drop.contains (e.1, e.2.1) then (e.1, e.2.1, { e.2.2 with code := 0 }) else e)
  let alt ← if d.hasAlt then auxWrites t d d.altDim d.altDesc (d.altDim == 1) x.seed x.step d.altDesc.scalePlane vals else pure []
  let sh ← if d.shadow then auxWrites t d.shadowDesc d.blockDim d.shadowDesc false x.seed x.step d.shadowScales (out.map (fun e => (e.1, e.2.1, toF32 (outValue d e.2.2)))) else pure []
  let lines := if form then (t.lineList.zip ((chunks 16 tags).map leNat)).flatMap (fun (p : (Nat × Nat) × Nat) =>
      if violated then [(d.tagAt p.1.1 p.1.2, tagBytes d x.step 0 true)]
      else if x.pattern != 0 then nmLine t n x.step out p.1.1 p.1.2 p.2
      else bitmapLine t x.step out p.1.1 p.1.2 p.2) else []
  storeKept h 1 d (elemWrites d out ++ scaleWrites d d.blockDim out ++ alt ++ sh ++ lines.map (fun p => { addr := p.1, data := p.2 }))

/-- TSTORE: its checks, then the tag lines that a compressed form updates. -/
def tstoreOp (h : Nat) (f : TstoreF) : OpM Unit := do
  let c ← get
  let x := c.hearth h
  let t := x.tstoreArgs f
  let src := fmtOfCode f.srcFmt
  require (sourceOk src t.d.fmt && !(f.transpose && t.d.fmt.isMx)) stFormat t.d.base
  let s := src.getD .fp32
  checkScratch h t.off (if f.transpose then stagedBytes s false (rows32 t.cols) t.rows else t.size s)
  require (t.rows == 0 || !t.d.fmt.isMx || t.d.wholeBlocks t.d.blockDim t.row0 t.rows t.col0 t.cols) stFormat t.d.base
  let rs := if t.d.compress && (x.pattern != 0 || x.observe) then t.lineList.map (fun p => (t.d.tagAt p.1 p.2, 16)) else []
  rs.forM (fun r => checkWindow h r.1 r.2)
  match ← readRanges (c.who h t.d) (.tstore h f x.regs) rs with
  | some b => tstoreArrived h f x.regs b
  | none => pure ()

/-! TSCATTER. -/

/-- A scatter into a tensor's rows (R112, R175, R505). -/
def plainScatter (h : Nat) (f : TindexF) : OpM Unit := do
  let c ← get
  let x := c.hearth h
  let d := x.desc f.desc
  let count := (x.reg f.count).toNat
  let col0 := (x.reg f.col0).toNat
  let cols := 32 * (f.cols32 + 1)
  let rb := stagedRowBytes d.fmt true cols
  require (!d.fmt.isMx || (d.blockDim == 0 && (count == 0 || d.wholeBlocks 0 0 1 col0 cols))) stFormat d.base
  checkScratch h (1024 * f.index) (4 * count)
  checkScratch h (1024 * f.scratch) (rb * count)
  let ib ← readScratch h (1024 * f.index) (4 * count)
  let b ← readScratch h (1024 * f.scratch) (rb * count)
  let ms := indexRows d ib count
  countRange h (ms.filter Option.isNone).length
  ((ms.zip (stagedCodes d.fmt true (rows32 count) cols b))).forM (fun (p : Option Nat × List (Nat × Nat)) =>
    match p.1 with
    | none => pure ()
    | some m =>
      let el := (p.2.mapIdx (fun j e => (m, col0 + j, rawElem e))).filter (fun e => decide (e.2.1 < d.ext0))
      storeElems h 1 d 0 el)

/-- TSCATTER: into a tensor, its Smithy's scatter buffer (R232) or a hash table (R240). -/
def tscatterOp (h : Nat) (f : TindexF) : OpM Unit := do
  let c ← get
  let d := (c.hearth h).desc f.desc
  match c.place (d.base % 2 ^ 48) 1 with
  | .ok (.combine s off) =>
    if !c.isLocal d.base then plainScatter h f
    else if s == h / 4 && off < 0x200000 then combineOp h f
    else do
      refuseLent h
      failWith stFormat d.base
  | .ok (.hashTbl _ _) => hashOp h f
  | _ => plainScatter h f

end Sys2Proof.Machine
end

