-- ==== Sys2Proof/WellFormed.lean ====
section
/-!
DEFINITION. Sys2Proof/WellFormed.lean: the operands that the spec admits in each command: field widths, unit numbers, ports.
-/

namespace Sys2Proof

/-- Whether a number fits an unsigned field. -/
def fits (w v : Nat) : Bool := decide (v < 2 ^ w)

/-- Whether every number of a list fits a field. -/
def allFit (w : Nat) (l : List Nat) : Bool := l.all (fits w)

/-- Tallies of a scope (Table 11-1). -/
def scopeSize (scope : Nat) : Nat := match scope with | 0 => 64 | 1 => 256 | 2 => 65536 | _ => 0

/-- Physical Hearths (R1), Smithies (R16), host ports (R425), Farger ports (R369), stacked channels (R17). -/
def isHearth (h : Nat) : Bool := decide (h < 88)
def isSmithy (s : Nat) : Bool := decide (s < 22)
def isHostPort (q : Nat) : Bool := decide (q < 2)
def isPort (p : Nat) : Bool := decide (p < 32)
def isChannel (c : Nat) : Bool := decide (c < 64)

/-- A slot of a ring of a port (Table 15-2). -/
def Origin.wf (o : Origin) : Bool := isHostPort o.port && decide (o.ring < 64) && fits 16 o.slot

/-- A descriptor's fields (Tables 15-4 and 15-5). -/
def Desc.wf (d : Desc) : Bool :=
  fits 32 d.tag && fits 16 d.path && fits 67 d.rsv && allFit 64 [d.a, d.b, d.l, d.p, d.q] && allFit 32 [d.ka, d.kb]

/-- A Tally operation's fields (Table 4-8). -/
def TallyF.wf (f : TallyF) : Bool := decide (f.index < scopeSize f.scope) && allFit 4 [f.n, f.dev] && fits 16 f.imm

/-- The fields of a slot (Tables 4-4 to 4-9). -/
def SlotOp.wf : SlotOp → Bool
  | .tload f => decide (f.desc < 7) && allFit 4 [f.row0, f.col0, f.rows] && fits 5 f.cols32 && fits 13 f.scratch
  | .tgather f => decide (f.desc < 7) && allFit 13 [f.index, f.scratch] && allFit 4 [f.count, f.col0] && fits 5 f.cols32
  | .tfill f => allFit 13 [f.scratch, f.length] && decide (f.length ≠ 0) && fits 16 f.pattern
  | .tstore f => decide (f.desc < 7) && allFit 4 [f.row0, f.col0, f.rows, f.srcFmt] && fits 5 f.cols32 && fits 13 f.scratch
  | .tscatter f => decide (f.desc < 7) && allFit 13 [f.index, f.scratch] && allFit 4 [f.count, f.col0] && fits 5 f.cols32
  | .aload f => fits 1 f.pair && fits 13 f.scratch && allFit 4 [f.k0, f.n0]
  | .astream f => fits 1 f.pair && allFit 4 [f.g, f.base, f.rows] && fits 13 f.scratch && (!f.narrow || decide (f.g ≤ 12))
  | .abind f => allFit 4 [f.g, f.chain, f.m0, f.n0, f.split] && fits 3 f.out
  | .aclose f => fits 4 f.g && (!f.narrow || decide (f.g ≤ 12))
  | .acatch f => fits 1 f.pair && fits 4 f.g && fits 13 f.list
  | .vdef c r => fits 4 c && fits 10 r
  | .vrun f => allFit 4 [f.chain, f.rows, f.m0, f.n0] && fits 13 f.src && fits 3 f.out
  | .vlen r => fits 4 r
  | .wait f => f.wf && f.dev == 0
  | .signal f => f.wf
  | .sub f => f.wf && f.dev == 0
  | .roll f => fits 8 f.ctx && decide (f.red < 3) && fits 17 f.payload
  | .fence => true
  | .loop f => allFit 4 [f.count, f.index] && fits 15 f.endW && fits 16 f.imm
  | .brk f => fits 4 f.reg && decide (f.cond < 3) && f.target == 0
  | .jump f => fits 4 f.reg && decide (f.cond < 3) && fits 15 f.target
  | .alu f => allFit 4 [f.d, f.a, f.b] && fits 3 f.fn && fits 24 f.imm24
  | .li d i => fits 4 d && fits 32 i
  | .ldx d o => fits 4 d && fits 23 o && o % 4 == 0
  | .take r => fits 2 r

/-- A transaction's fields (Table 14-2). -/
def Txn.wf (t : Txn) : Bool :=
  allFit 16 [t.src, t.dst, t.tag] && allFit 64 [t.addr, t.opndA, t.opndB] && allFit 32 [t.key, t.seq, t.ackSeq] && decide (1 ≤ t.len) &&
    decide (t.len ≤ 4096) && fits 1 t.tenant && allFit 8 [t.op, t.status, t.aop]

/-- The header fields of a frame (Table 13-2). -/
def Credits.wf (r : Credits) : Bool := fits 2 r.creditVc && fits 14 r.credit
def Returns.wf (r : Returns) : Bool := fits 16 r.ack && r.toCredits.wf
def Head.wf (w : Head) : Bool := isPort w.port && fits 16 w.seq && w.toReturns.wf

/-- A frame (Table 13-2): at most 64 payload units. -/
def Frame.wf (f : Frame) : Bool := f.txn.wf && decide (f.data.length ≤ 4096) && fits 4 f.hops && fits 2 f.vc

def PullF.wf (f : PullF) : Bool := allFit 16 [f.layer, f.expert, f.requester, f.epoch, f.slot] && allFit 32 [f.step, f.revision]
def GranuleF.wf (f : GranuleF) : Bool := allFit 16 [f.layer, f.slot, f.epoch, f.holder] && fits 32 f.index && decide (f.data.length ≤ 4096) &&
  f.members.all (fun m => allFit 16 [m.1, m.2.1, m.2.2])
def TokenF.wf (f : TokenF) : Bool :=
  allFit 16 [f.layer, f.microBatch, f.expert, f.origin, f.epoch] && allFit 32 [f.step, f.revision, f.returnRow, f.weight]
def AnswerF.wf (f : AnswerF) : Bool := allFit 16 [f.holder, f.epoch] && fits 32 f.returnRow
def ContribF.wf (f : ContribF) : Bool := fits 20 f.matrix && fits 4 f.round && fits 16 f.sender && fits 32 f.chunk && allFit 32 f.rows && decide (f.vals.length ≤ 8192)
def GatherF.wf (f : GatherF) : Bool := fits 20 f.matrix && allFit 32 [f.step, f.index] && fits 16 f.sender && decide (f.data.length ≤ 4096)
def RollMsg.wf (f : RollMsg) : Bool := allFit 8 [f.ctx, f.gen] && fits 16 f.sender && decide (f.red < 3) && fits 1 f.tenant && f.payload.length == 64

def Agent.wf : Agent → Bool
  | .hearth h => isHearth h
  | .host o => o.wf

/-- Lanes of a port (Table 13-1). -/
def laneList (p : Nat) (l : List Nat) : Bool := l.all (fun i => decide (i < if 24 ≤ p then 4 else 8))

def TrainMsg.wf (p : Nat) : TrainMsg → Bool
  | .version r l => fits 8 r && laneList p l
  | .identity n q k d => fits 16 n && fits 3 q && decide (k < 32) && fits 64 d
  | .credit u => u.length == 4 && allFit 14 u

def TrainEvent.wf (p : Nat) : TrainEvent → Bool
  | .lanesReady l => laneList p l
  | .aligned l => laneList p l
  | _ => true

/-- One reading for each Hearth and layer. -/
def Readings.wf (r : Readings) : Bool :=
  r.hearths.length == 88 && r.layers.length == 16 && allFit 8 r.hearths && allFit 8 r.layers && allFit 12 [r.avg1ms, r.beatRate] && fits 16 r.inputMv

def BootFindings.wf (f : BootFindings) : Bool := f.badRows.all (fun r => isChannel r.1 && decide (r.2 < 3145728 + 63)) && f.badHearths.all isHearth

def Image.wf (i : Image) : Bool := decide (1 ≤ i.kind) && decide (i.kind ≤ 4) && fits 32 i.version && i.signature.length == 512

/-- The operands that each command may have. A 64-byte record is one number; the kind of a batch or snapshot descriptor stands in the record
that it names. -/
def Instr.WellFormed : Instr → Bool
  | .opLessonLoad o d => o.wf && d.wf
  | .opCard o d => o.wf && d.wf
  | .opRun o d => o.wf && d.wf && !d.lend
  | .opRunLend o d => o.wf && d.wf && d.lend
  | .opCopy o d => o.wf && d.wf
  | .opFill o d => o.wf && d.wf
  | .opSignal o d => o.wf && d.wf
  | .opSignalSub o d => o.wf && d.wf
  | .opRoll o d => o.wf && d.wf
  | .forwardBatch o d => o.wf && d.wf
  | .backwardBatch o d => o.wf && d.wf
  | .releaseBatch o d => o.wf && d.wf
  | .cancelBatch o d => o.wf && d.wf
  | .opCrucibleStep o d => o.wf && d.wf
  | .snapshotTake o d => o.wf && d.wf
  | .snapshotRestore o d => o.wf && d.wf
  | .opSeat o d => o.wf && d.wf
  | .tload h f => isHearth h && (SlotOp.tload f).wf
  | .tgather h f => isHearth h && (SlotOp.tgather f).wf
  | .tfill h f => isHearth h && (SlotOp.tfill f).wf
  | .tstore h f => isHearth h && (SlotOp.tstore f).wf
  | .tscatter h f => isHearth h && (SlotOp.tscatter f).wf
  | .aload h f => isHearth h && (SlotOp.aload f).wf
  | .astream h f => isHearth h && (SlotOp.astream f).wf
  | .abind h f => isHearth h && (SlotOp.abind f).wf
  | .aclose h f => isHearth h && (SlotOp.aclose f).wf
  | .acatch h f => isHearth h && (SlotOp.acatch f).wf
  | .groupWriteback h => isHearth h
  | .vdef h c r => isHearth h && (SlotOp.vdef c r).wf
  | .vrun h f => isHearth h && (SlotOp.vrun f).wf
  | .vlen h r => isHearth h && (SlotOp.vlen r).wf
  | .wait h f => isHearth h && (SlotOp.wait f).wf
  | .waitSatisfied h => isHearth h
  | .signal h f => isHearth h && (SlotOp.signal f).wf
  | .sub h f => isHearth h && (SlotOp.sub f).wf
  | .roll h f => isHearth h && (SlotOp.roll f).wf
  | .fence h => isHearth h
  | .loop h f => isHearth h && (SlotOp.loop f).wf
  | .brk h f => isHearth h && (SlotOp.brk f).wf
  | .jump h f => isHearth h && (SlotOp.jump f).wf
  | .alu h f => isHearth h && (SlotOp.alu f).wf
  | .li h d i => isHearth h && (SlotOp.li d i).wf
  | .ldx h d o => isHearth h && (SlotOp.ldx d o).wf
  | .take h r => isHearth h && (SlotOp.take r).wf
  | .timetableItemTaken h => isHearth h
  | .runEnd h => isHearth h
  | .lentItemTake h => isHearth h
  | .lentBudgetExpiry h => isHearth h
  | .routerRecord r => fits 512 r
  | .timetablePost r => fits 2 r
  | .intakeTimeout e => fits 16 e
  | .pullRequest w f => w.wf && f.wf
  | .mergeWindowClose l e s => allFit 16 [l, e] && fits 32 s
  | .granule w f => w.wf && f.wf
  | .token w f => w.wf && f.wf
  | .answer w f => w.wf && f.wf
  | .frameRecord h r => isHearth h && fits 512 r
  | .combineScatter h f => isHearth h && (SlotOp.tscatter f).wf
  | .scatterChunk s b => isSmithy s && decide (b < 16)
  | .closeRecord h r => isHearth h && fits 512 r
  | .frameDrain s => isSmithy s
  | .hashScatter h f => isHearth h && (SlotOp.tscatter f).wf
  | .mergeRecord a r => a.wf && fits 512 r
  | .announce a r => a.wf && fits 1024 r
  | .contrib w f => w.wf && f.wf
  | .gatherGranule w f => w.wf && f.wf
  | .rollArrivalMsg w f => w.wf && f.wf
  | .rollResultMsg w f => w.wf && f.wf
  | .rollCallClose c => fits 8 c
  | .rollCallTimeout c => fits 8 c
  | .tallyWindowStore a o l k w => a.wf && decide (o < 0x80000) && decide (1 ≤ l) && decide (l ≤ 4096) && fits 32 k && fits 64 w
  | .tallyWindowLoad h o l k d => isHearth h && decide (o < 0x80000) && decide (1 ≤ l) && decide (l ≤ 4096) && fits 32 k && fits 23 d
  | .atomicRecord a o r => a.wf && decide (o < 0x1000) && fits 512 r
  | .poolRequest t r => fits 1 t && fits 512 r
  | .poolFree t r => fits 1 t && fits 512 r
  | .poolSetInitDone p => decide (p < 16)
  | .loadRequest w t => w.wf && t.wf
  | .storeRequest w t d => w.wf && t.wf && d.length == t.len
  | .atomicRequest w t => w.wf && t.wf
  | .signalRequest w t => w.wf && t.wf
  | .lineUnitWrite l => fits 42 l
  | .dataResponse w t d => w.wf && t.wf && decide (d.length ≤ 4096)
  | .doneResponse w t => w.wf && t.wf
  | .resultResponse w t => w.wf && t.wf
  | .progress w h e => w.wf && allFit 16 [h, e]
  | .progressTimer o e => allFit 16 [o, e]
  | .fabResendTimer d => fits 16 d
  | .fabTimeout d t => allFit 16 [d, t]
  | .replayEntryEvict s q => fits 16 s && fits 32 q
  | .frameForward w f => w.wf && f.wf
  | .badFrame p l => isPort p && laneList p l
  | .ackFrame p r => isPort p && r.wf
  | .ackTimer p => isPort p
  | .nakFrame p r => isPort p && r.wf
  | .laneRateWindow p l _ => isPort p && laneList p [l]
  | .laneSet w l => w.wf && laneList w.port l
  | .idleFrame p a v n => isPort p && fits 16 a && fits 2 v && fits 14 n
  | .creditFrame p a r => isPort p && fits 16 a && r.wf
  | .trainFrame p m => isPort p && m.wf p
  | .basePage p _ _ => isPort p
  | .portTraining p e => isPort p && e.wf p
  | .trainingTimeout p => isPort p
  | .peerSignalLost p => isPort p
  | .restartWave w n o s d => w.wf && allFit 16 [n, o, d] && fits 8 s
  | .warmResetEnd => true
  | .snapshotDrainTimeout => true
  | .refreshTick c => isChannel c
  | .patrolScrubStep c => isChannel c
  | .layerTemperature d l t => fits 1 d && decide (l < 8) && fits 8 t
  | .regulatorTick r => r.wf
  | .thermalTrip h => isHearth h
  | .inputCutoff => true
  | .coldStart => true
  | .enableHigh f => f.wf
  | .enableLow => true
  | .perstDeassert q => isHostPort q
  | .perstAssert q => isHostPort q
  | .pcieLinkDown q => isHostPort q
  | .heartbeatTimeout q => isHostPort q
  | .configRequest q => isHostPort q
  | .sqTail q r v => isHostPort q && decide (r < 64) && fits 64 v
  | .cqHead q r v => isHostPort q && decide (r < 64) && fits 64 v
  | .msixUnmask q v => isHostPort q && decide (v < 66)
  | .pciRingEnable w q r v => isHostPort w && isHostPort q && decide (r < 64) && fits 64 v
  | .pciHeartbeat w q v => isHostPort w && isHostPort q && fits 64 v
  | .jobStart w => isHostPort w
  | .jobEnd w => isHostPort w
  | .mgtFaultClear w v => isHostPort w && fits 64 v
  | .mgtSvnCommit w v => isHostPort w && fits 64 v
  | .mgtDeviceIdWrite w v => isHostPort w && fits 64 v
  | .poolSetEnable w v => isHostPort w && fits 64 v
  | .farPortRetrain w v => isHostPort w && fits 64 v
  | .hubFabTeardown w v => isHostPort w && fits 64 v
  | .registerWrite w o _ v => isHostPort w && decide (o < 0x1000000) && fits 64 v
  | .setDeviceId v => fits 16 v
  | .setPowerCap v => fits 12 v
  | .getBootStatus => true
  | .getRetirement => true
  | .getEvents => true
  | .mctpControl _ => true
  | .pldmSensor _ => true
  | .pldmFirmwareUpdate i => i.wf
  | .getVersion => true
  | .getCapabilities => true
  | .negotiateAlgorithms a h => allFit 32 [a, h]
  | .getDigests => true
  | .getCertificate s o l => fits 8 s && allFit 16 [o, l]
  | .challenge s n => fits 8 s && n.length == 32
  | .getMeasurements i _ n => fits 8 i && n.length == 32
  | .spdmUnsupported c => fits 8 c
  | .pcieLinkUp q m f => isHostPort q && [4, 8, 16].contains m.width && decide (3 ≤ m.gen) && decide (m.gen ≤ 6) && f.wf
  | .lostHostReadTimeout _ => true
  | .hostReadCompletion _ _ _ => true

end Sys2Proof
end

