-- ==== Sys2Proof/Machine/Code.lean ====
section
/-!
DEFINITION. Sys2Proof/Machine/Code.lean: Lesson images: long words and slots (R106 to R121), their validation (R132, R135, R150), loading
(R134), and the check of a layer card at a run's start (R69, R141, R164).
-/

namespace Sys2Proof.Machine

/-! Slots (Tables 4-4 to 4-9). -/

/-- The T slot. -/
def decodeT (v : Nat) : Option SlotOp :=
  match bits v 47 42 with
  | 1 => if bits v 41 39 == 7 || bits v 6 0 != 0 then none else
      some (.tload { desc := bits v 41 39, row0 := bits v 38 35, col0 := bits v 34 31, rows := bits v 30 27, cols32 := bits v 26 22,
                     scratch := bits v 21 9, transpose := bit v 8, idx := bit v 7 })
  | 2 => if bits v 41 39 == 7 then none else
      some (.tgather { desc := bits v 41 39, index := bits v 38 26, count := bits v 25 22, cols32 := bits v 21 17, scratch := bits v 16 4,
                       col0 := bits v 3 0 })
  | 3 => if bits v 28 16 == 0 then none else some (.tfill { scratch := bits v 41 29, length := bits v 28 16, pattern := bits v 15 0 })
  | _ => none

/-- The S slot. -/
def decodeS (v : Nat) : Option SlotOp :=
  match bits v 47 42 with
  | 1 => if bits v 41 39 == 7 || bits v 2 0 != 0 then none else
      some (.tstore { desc := bits v 41 39, row0 := bits v 38 35, col0 := bits v 34 31, rows := bits v 30 27, cols32 := bits v 26 22,
                      scratch := bits v 21 9, transpose := bit v 8, srcFmt := bits v 7 4, idx := bit v 3 })
  | 2 => if bits v 41 39 == 7 then none else
      some (.tscatter { desc := bits v 41 39, index := bits v 38 26, count := bits v 25 22, cols32 := bits v 21 17, scratch := bits v 16 4,
                        col0 := bits v 3 0 })
  | _ => none

/-- The A slot; narrow streams and closes name four groups (R118). -/
def decodeA (v : Nat) : Option SlotOp :=
  match bits v 47 42 with
  | 1 => if bits v 16 0 != 0 then none else
      some (.aload { pair := bits v 41 41, kinner := bit v 40, narrow := bit v 39, scratch := bits v 38 26, k0 := bits v 25 22,
                     n0 := bits v 21 18, idx := bit v 17 })
  | 2 => if bits v 11 0 != 0 || (bit v 40 && decide (12 < bits v 39 36)) then none else
      some (.astream { pair := bits v 41 41, narrow := bit v 40, g := bits v 39 36, opens := bit v 35, closes := bit v 34,
                       scratch := bits v 33 21, base := bits v 20 17, rows := bits v 16 13, idx := bit v 12 })
  | 3 => if bits v 18 0 != 0 then none else
      some (.abind { g := bits v 41 38, out := bits v 37 35, chain := bits v 34 31, m0 := bits v 30 27, n0 := bits v 26 23,
                     split := bits v 22 19 })
  | 4 => if bits v 36 0 != 0 || (bit v 37 && decide (12 < bits v 41 38)) then none else
      some (.aclose { g := bits v 41 38, narrow := bit v 37 })
  | 5 => if bits v 22 0 != 0 then none else
      some (.acatch { pair := bits v 41 41, g := bits v 40 37, list := bits v 36 24, idx := bit v 23 })
  | _ => none

/-- The V slot. -/
def decodeV (v : Nat) : Option SlotOp :=
  match bits v 47 42 with
  | 1 => if bits v 27 0 != 0 then none else some (.vdef (bits v 41 38) (bits v 37 28))
  | 2 => if bits v 8 0 != 0 then none else
      some (.vrun { chain := bits v 41 38, rows := bits v 37 34, src := bits v 33 21, out := bits v 20 18, m0 := bits v 17 14,
                    n0 := bits v 13 10, idx := bit v 9 })
  | 3 => if bits v 37 0 != 0 then none else some (.vlen (bits v 41 38))
  | _ => none

/-- The fields of a Tally operation. -/
def tallyF (v : Nat) : TallyF := { scope := bits v 41 40, index := bits v 39 24, n := bits v 23 20, dev := bits v 19 16, imm := bits v 15 0 }

/-- The Y slot. -/
def decodeY (v : Nat) : Option SlotOp :=
  let f := tallyF v
  let ok := decide (f.index < scopeSize f.scope)
  match bits v 47 42 with
  | 1 => if ok && f.dev == 0 then some (.wait f) else none
  | 2 => if ok then some (.signal f) else none
  | 3 => if ok && f.dev == 0 then some (.sub f) else none
  | 4 => if bits v 33 32 == 3 || bits v 14 0 != 0 then none else some (.roll { ctx := bits v 41 34, red := bits v 33 32, payload := bits v 31 15 })
  | 5 => if bits v 41 0 != 0 then none else some .fence
  | _ => none

/-- The C slot. -/
def decodeC (v : Nat) : Option SlotOp :=
  match bits v 47 42 with
  | 1 => if bits v 18 16 != 0 then none else
      some (.loop { count := bits v 41 38, index := bits v 37 34, endW := bits v 33 19, imm := bits v 15 0 })
  | 2 => if bits v 37 36 == 3 || bits v 35 0 != 0 then none else some (.brk { reg := bits v 41 38, cond := bits v 37 36, target := 0 })
  | 3 => if bits v 37 36 == 3 || bits v 20 0 != 0 then none else
      some (.jump { reg := bits v 41 38, cond := bits v 37 36, target := bits v 35 21 })
  | 4 => if bits v 1 0 != 0 then none else
      some (.alu { d := bits v 41 38, a := bits v 37 34, b := bits v 33 30, fn := bits v 29 27, imm := bit v 26, imm24 := bits v 25 2 })
  | 5 => if bits v 5 0 != 0 then none else some (.li (bits v 41 38) (bits v 37 6))
  | 6 => if bits v 14 0 != 0 || bits v 37 15 % 4 != 0 then none else some (.ldx (bits v 41 38) (bits v 37 15))
  | 7 => if bits v 39 0 != 0 then none else some (.take (bits v 41 40))
  | _ => none

/-- A slot by its place in the word: 0 T, 1 S, 2 A, 3 V, 4 Y, 5 C (R107, R109). -/
def decodeSlot (k v : Nat) : Option SlotOp :=
  match k with
  | 0 => decodeT v | 1 => decodeS v | 2 => decodeA v | 3 => decodeV v | 4 => decodeY v | _ => decodeC v

/-- The 48 bits of a Tally operation under an opcode (Table 4-8). -/
def encodeTally (op : Nat) (f : TallyF) : Nat :=
  place op 6 42 + place f.scope 2 40 + place f.index 16 24 + place f.n 4 20 + place f.dev 4 16 + place f.imm 16 0

/-- The 48 bits of an operation in its slot (Tables 4-4 to 4-9). -/
def encodeSlot : SlotOp → Nat
  | .tload f => place 1 6 42 + place f.desc 3 39 + place f.row0 4 35 + place f.col0 4 31 + place f.rows 4 27 + place f.cols32 5 22 +
      place f.scratch 13 9 + place (b2n f.transpose) 1 8 + place (b2n f.idx) 1 7
  | .tgather f => place 2 6 42 + place f.desc 3 39 + place f.index 13 26 + place f.count 4 22 + place f.cols32 5 17 + place f.scratch 13 4 +
      place f.col0 4 0
  | .tfill f => place 3 6 42 + place f.scratch 13 29 + place f.length 13 16 + place f.pattern 16 0
  | .tstore f => place 1 6 42 + place f.desc 3 39 + place f.row0 4 35 + place f.col0 4 31 + place f.rows 4 27 + place f.cols32 5 22 +
      place f.scratch 13 9 + place (b2n f.transpose) 1 8 + place f.srcFmt 4 4 + place (b2n f.idx) 1 3
  | .tscatter f => place 2 6 42 + place f.desc 3 39 + place f.index 13 26 + place f.count 4 22 + place f.cols32 5 17 + place f.scratch 13 4 +
      place f.col0 4 0
  | .aload f => place 1 6 42 + place f.pair 1 41 + place (b2n f.kinner) 1 40 + place (b2n f.narrow) 1 39 + place f.scratch 13 26 +
      place f.k0 4 22 + place f.n0 4 18 + place (b2n f.idx) 1 17
  | .astream f => place 2 6 42 + place f.pair 1 41 + place (b2n f.narrow) 1 40 + place f.g 4 36 + place (b2n f.opens) 1 35 +
      place (b2n f.closes) 1 34 + place f.scratch 13 21 + place f.base 4 17 + place f.rows 4 13 + place (b2n f.idx) 1 12
  | .abind f => place 3 6 42 + place f.g 4 38 + place f.out 3 35 + place f.chain 4 31 + place f.m0 4 27 + place f.n0 4 23 + place f.split 4 19
  | .aclose f => place 4 6 42 + place f.g 4 38 + place (b2n f.narrow) 1 37
  | .acatch f => place 5 6 42 + place f.pair 1 41 + place f.g 4 37 + place f.list 13 24 + place (b2n f.idx) 1 23
  | .vdef c r => place 1 6 42 + place c 4 38 + place r 10 28
  | .vrun f => place 2 6 42 + place f.chain 4 38 + place f.rows 4 34 + place f.src 13 21 + place f.out 3 18 + place f.m0 4 14 + place f.n0 4 10 +
      place (b2n f.idx) 1 9
  | .vlen r => place 3 6 42 + place r 4 38
  | .wait f => encodeTally 1 f
  | .signal f => encodeTally 2 f
  | .sub f => encodeTally 3 f
  | .roll f => place 4 6 42 + place f.ctx 8 34 + place f.red 2 32 + place f.payload 17 15
  | .fence => place 5 6 42
  | .loop f => place 1 6 42 + place f.count 4 38 + place f.index 4 34 + place f.endW 15 19 + place f.imm 16 0
  | .brk f => place 2 6 42 + place f.reg 4 38 + place f.cond 2 36
  | .jump f => place 3 6 42 + place f.reg 4 38 + place f.cond 2 36 + place f.target 15 21
  | .alu f => place 4 6 42 + place f.d 4 38 + place f.a 4 34 + place f.b 4 30 + place f.fn 3 27 + place (b2n f.imm) 1 26 + place f.imm24 24 2
  | .li d i => place 5 6 42 + place d 4 38 + place i 32 6
  | .ldx d o => place 6 6 42 + place d 4 38 + place o 23 15
  | .take r => place 7 6 42 + place r 2 40

/-! Long words (R107, R108). -/

/-- A long word: its address, tail class and byte, slots, and the address after it. -/
structure LWord where
  at_ : Nat
  tail : Nat
  tbyte : Nat
  ops : List SlotOp
  next : Nat
  deriving DecidableEq, Repr

/-- Places of the slots that a header byte marks present. -/
def presentSlots (hd : Nat) : List Nat := (List.range 6).filter (fun i => bit hd i)

/-- The word at an address, from the bytes that start there; none where R108 or R109 refuses it or the bytes run out. -/
def decodeWord (w : Nat) (b : List Byte) : Option LWord :=
  let hd := (b.getD 0 0#8).toNat
  let tb := (b.getD 1 0#8).toNat
  let ps := presentSlots hd
  let n := 2 + 6 * ps.length
  let tailOk := match bits hd 7 6 with | 0 => tb == 0 | 1 => decide (tb < 32) | 2 => true | _ => false
  if b.length < n || !tailOk then none
  else match (ps.zip (chunks 6 ((b.drop 2).take (n - 2)))).mapM (fun p => decodeSlot p.1 (leNat p.2)) with
    | some ops => some { at_ := w, tail := bits hd 7 6, tbyte := tb, ops := ops, next := w + n / 2 }
    | none => none

/-- The words of a code of `n` units from an address; none if one of them is refused or runs past the end (R135). -/
def decodeCode : Nat → Nat → List Byte → Option (List LWord)
  | 0, _, b => if b.isEmpty then some [] else none
  | f + 1, w, b =>
    if b.isEmpty then some []
    else match decodeWord w b with
      | none => none
      | some x => (decodeCode f x.next (b.drop (2 * (x.next - w)))).map (fun r => x :: r)

/-! Validation (R132, R135). -/

/-- The loops of a code: address of the LOOP word and of the last word of its body. -/
def loopsOf (ws : List LWord) : List (Nat × Nat) :=
  ws.flatMap (fun w => w.ops.filterMap (fun o => match o with | .loop f => some (w.at_, f.endW) | _ => none))

/-- The loops whose body holds a word, innermost last. -/
def enclosing (ls : List (Nat × Nat)) (w : Nat) : List (Nat × Nat) := ls.filter (fun l => decide (l.1 < w) && decide (w ≤ l.2))

/-- The innermost loop around a word. -/
def innermost (ls : List (Nat × Nat)) (w : Nat) : Option (Nat × Nat) := (enclosing ls w).getLast?

/-- The loop checks of R132 and R135. -/
def loopsOk (ws : List LWord) : Bool :=
  let ls := loopsOf ws
  let isWord (a : Nat) : Bool := ws.any (fun w => w.at_ == a)
  ls.all (fun l => isWord l.2 && decide (l.1 < l.2)) &&
  ls.all (fun l => (enclosing ls l.1).all (fun e => decide (l.2 ≤ e.2))) &&
  ws.all (fun w => decide ((enclosing ls w.at_).length ≤ 4)) &&
  ws.all (fun w => w.ops.all (fun o => match o with
    | .brk _ => (innermost ls w.at_).isSome
    | .jump f => isWord f.target && innermost ls f.target == innermost ls w.at_
    | _ => true)) &&
  match ws.getLast? with
  | none => false
  | some w => w.tail == 2 || w.ops.any (fun o => match o with | .jump f => f.cond == 0 | _ => false)

/-- The descriptors that a slot names. -/
def slotDescs : SlotOp → List Nat
  | .tload f => [f.desc]
  | .tgather f => [f.desc]
  | .tstore f => [f.desc]
  | .tscatter f => [f.desc]
  | .abind f => if f.out == 7 then [] else [f.out]
  | .vrun f => if f.out == 7 then [] else [f.out]
  | _ => []

/-- The pairs that a slot names. -/
def slotPairs : SlotOp → List Nat
  | .aload f => [f.pair]
  | .astream f => [f.pair]
  | .acatch f => [f.pair]
  | _ => []

/-- A mask of the numbers below 8 that a list holds. -/
def maskOf (l : List Nat) : Nat := ((List.range 8).map (fun i => b2n (l.contains i) <<< i)).foldl (· + ·) 0

/-- The words of an image of `len` bytes loaded at `off`, if its header and code are in order. -/
def imageWords (off len : Nat) (b : List Byte) : Option (List LWord) :=
  let hd := leNat (b.take 8)
  let n := 2 * bits hd 14 0
  if len < 8 || bits hd 63 26 != 0 || bit hd 15 || n == 0 || len < 8 + n then none
  else decodeCode n (off / 2 + 4) ((b.drop 8).take n)

/-- An image validated, with its masks (R135). -/
def validateImage (off : Nat) (b : List Byte) : Option LessonImage :=
  let hd := leNat (b.take 8)
  let chains := bits hd 25 16
  let start := roundUp (off + 8 + 2 * bits hd 14 0) 64 - off
  match imageWords off b.length b with
  | none => none
  | some ws =>
    let ops := ws.flatMap (fun w => w.ops)
    if loopsOk ws && (chains == 0 || decide (start + 64 * chains ≤ b.length)) &&
        ops.all (fun o => match o with | .vdef _ r => decide (r < chains) | _ => true) &&
        (List.range chains).all (fun i => chainOk (leNat ((b.drop (start + 64 * i)).take 64))) then
      some { off := off, len := b.length, descMask := maskOf (ops.flatMap slotDescs), pairMask := maskOf (ops.flatMap slotPairs) }
    else none

/-- Bytes written to a Hearth's lesson memory. -/
def writeLesson (h off : Nat) (b : List Byte) : OpM Unit := do
  senseWrite (.lesson h) ((List.range b.length).map (off + ·))
  update (fun c => c.modHearth h (fun x => { x with lesson := memPutAll zeroByte x.lesson off b }))

/-- An image loaded on Hearths and validated (R134, R135): whether every member's passed. A failed load leaves its range invalid on every
member. -/
def loadImage (hs : List Nat) (off : Nat) (b : List Byte) : OpM Bool := do
  hs.forM (fun h => writeLesson h off b)
  let img := validateImage off b
  update (fun c => hs.foldl (fun c h => c.modHearth h (fun x =>
    { x with images := x.images.filter (fun i => decide (i.off + i.len ≤ off) || decide (off + b.length ≤ i.off)) ++ img.toList })) c)
  pure img.isSome

/-! The card (R141, R164). -/

/-- Whether the reserved fields of a card header are 0 (Table 4-12). -/
def cardRsvOk (n : Nat) : Bool :=
  bits n 415 406 == 0 && bits n 399 397 == 0 && bits n 383 382 == 0 && bits n 367 365 == 0 && !bit n 351 && bits n 335 334 == 0 &&
    bits n 303 299 == 0 && bits n 127 126 == 0 && bits n 111 109 == 0

/-- The picker entries of a card's present descriptors: descriptor and entry. -/
def cardPicks (card : Nat) : List (Nat × Nat) :=
  (List.range 7).filterMap (fun d => let t := cardDesc card d; if t.present && t.code == 14 then some (d, t.scale % 4096) else none)

/-- The picks of a card for its step; none while one is held (R69): descriptor, code, scale exponent, and the stale descriptors. -/
def Core.cardPicked (c : Core) (card : Nat) : Option (List (Nat × Nat × Nat) × List Nat) :=
  ((cardPicks card).mapM (fun p => (c.pickResolve p.2 (bits card 95 64)).map (fun r => (p.1, r)))).map (fun l =>
    (l.map (fun r => (r.1, r.2.1, r.2.2.1)), (l.filter (fun r => r.2.2.2)).map (fun r => r.1)))

/-- A Hearth as the units of a run would see its card, with its picks. -/
def Hearth.resolved (x : Hearth) (picks : List (Nat × Nat × Nat) × List Nat) : Hearth := { x with picked := picks.1, stale := picks.2 }

/-- Whether a pair of a resolved card passes R141. -/
def Hearth.pairOk (x : Hearth) (p mask : Nat) : Bool :=
  let (a, b) := x.pairDescs p
  let (st, sm) := x.pairT p
  if p == 1 && x.skipMode != 0 then a != 7 && st.present && b == 7
  else if a == 7 && b == 7 then !bit mask p
  else a != 7 && b != 7 && st.present && sm.present && pairAllowed st.fmt sm.fmt x.accFormat &&
    !(sm.fmt.isMx && sm.blockDim != 0) && (!bit x.card 108 || narrowAllowed st.fmt sm.fmt x.accFormat)

/-- The neuron extent of pair 0 in an image: by the orientation of its first ALOAD of pair 0 (R180; entry 34). -/
def neuronExtent (x : Hearth) (ws : List LWord) : Nat :=
  let k := (ws.flatMap (fun w => w.ops)).findSome? (fun o => match o with | .aload f => if f.pair == 0 then some f.kinner else none | _ => none)
  (x.pairT 0).1.nExt (k.getD false)

/-- Whether a range of this device lies in backed stacked memory or hub SRAM (R164). -/
def Core.localBacked (c : Core) (a n : Nat) : Bool :=
  !badGlobal a && c.isLocal a && match c.place (a % 2 ^ 48) n with
    | .ok (.stacked s) => c.dram.backed s n
    | .ok (.hub _) => true
    | _ => false

/-- R164 on a resolved card. -/
def Core.sparsityOk (c : Core) (x : Hearth) (ws : List LWord) : Bool :=
  let (st, sm) := x.pairT 0
  let fp8 := st.fmt.isFp8 && sm.fmt.isFp8
  let b16 := st.fmt.is16 && sm.fmt.is16
  let mx8 := st.fmt.isMx8 && sm.fmt.isMx8
  let acc32 := decide (x.accFormat ≤ 1)
  let narrow := bit x.card 108
  let pat := x.pattern != 0
  !(pat && x.observe) && !((pat || x.observe) && narrow) && (!pat || ((fp8 || b16) && acc32)) && (!x.observe || ((fp8 || b16 || mx8) && acc32)) &&
    (x.skipMode != 0 || x.cardField 119 118 == 0) &&
    (x.skipMode == 0 ||
      (!pat && !x.observe && !narrow && x.accFormat == 0 && (fp8 || mx8 || b16) && x.companion.present && (x.pairDescs 1).2 == 7 &&
        c.localBacked x.auxArea (if x.skipMode == 3 then 32 else 4096 + countBytes (neuronExtent x ws) + 4 * neuronExtent x ws) &&
        (x.skipMode == 3 || x.companion.code == 9)))

/-- Whether a card passes R141 and R164 against the image that holds its entry. A card with narrow_k names a split group by naming a split area (R93;
entry 98). -/
def cardOk (h : Nat) (picks : List (Nat × Nat × Nat) × List Nat) : OpM Bool := do
  let c ← get
  let x := (c.hearth h).resolved picks
  let n := x.card
  match x.image with
  | none => pure false
  | some img => do
    let b ← readLesson h img.off img.len
    let ws := (imageWords img.off img.len b).getD []
    let present := (List.range 7).filter (fun d => (cardDesc n d).present)
    let (spr, al) := rowSlots x.accFormat (bit n 107)
    let poolB := x.cardField 333 320
    let poolN := x.cardField 350 336
    pure (x.cardField 103 96 == 1 && cardRsvOk n && ws.any (fun w => w.at_ == x.cardField 319 304) &&
      (List.range 7).all (fun d => !bit img.descMask d || present.contains d) &&
      present.all (fun d => c.descOk (cardDesc n d)) && x.accFormat != 3 && decide (1 ≤ x.tileHeight) && decide (x.tileHeight ≤ 1024) &&
      !(bit n 108 && x.splitArea != 0) && x.pairOk 0 img.pairMask && x.pairOk 1 img.pairMask &&
      decide (1024 * (x.cardField 364 352 + x.cardField 381 368) ≤ scratchSize) &&
      (poolN == 0 || (decide (poolB + poolN ≤ 16384) && poolB % al == 0 && spr != 0)) &&
      (!c.lending h || poolN == 0 || decide (poolB + poolN ≤ 15360)) &&
      c.sparsityOk x ws)

end Sys2Proof.Machine
end

