-- ==== Sys2Proof/Machine/Hazards.lean ====
section
/-!
DEFINITION. Sys2Proof/Machine/Hazards.lean: which scratch ranges the work of a Hearth's units reads and writes, and when an operation of a unit may
start (R124, R127, R145, Tables 3-5 and 4-11).
-/

namespace Sys2Proof.Machine

/-! Touches. -/

/-- A scratch range that work reads or writes. -/
structure Touch where
  off : Nat
  n : Nat
  write : Bool := false
  deriving DecidableEq, Repr

/-- Whether two touches may not overtake each other (Table 4-11). -/
def Touch.meets (a b : Touch) : Bool := (a.write || b.write) && granulesMeet a.off a.n b.off b.n

/-- Whether two lists of touches hold two that may not overtake each other. -/
def touchesMeet (l m : List Touch) : Bool := l.any (fun a => m.any a.meets)

/-- All of scratch, for work whose ranges are not known yet. -/
def wholeScratch : Touch := { off := 0, n := scratchSize, write := true }

/-- Where an address names a place in a Hearth's own scratch: all of it from there on (entry 130). -/
def Core.memTouch (c : Core) (h a : Nat) (write : Bool) : List Touch :=
  if a == 0 || badGlobal a || !c.isLocal a then []
  else match c.place (a % 2 ^ 48) 1 with
    | .ok (.scratch k off) => if k == h then [{ off := off, n := scratchSize - off, write := write }] else []
    | _ => []

/-- Bytes of scratch as they stand, errors of the code aside, as a number. -/
def Hearth.peek (x : Hearth) (off n : Nat) : Nat := leNat ((List.range n).map (fun i => (memGet none x.scratch (off + i)).getD 0#8))

/-- Ranges that a table in scratch names: all of scratch while earlier work may still write the table. -/
def viaTable (before : List Touch) (off n : Nat) (l : List Touch) : List Touch :=
  if before.any (fun b => b.write && granulesMeet b.off b.n off n) then [wholeScratch] else { off := off, n := n } :: l

/-! Passes and writebacks. -/

/-- A pass: its sources, its records, and its output and gauge record where they go to scratch. -/
def Core.passTouches (c : Core) (h : Nat) (x : Hearth) (p : Pass) : List Touch :=
  p.reads.map (fun r => { off := r.1, n := r.2 }) ++ [{ off := p.chain.redDst, n := 8 * p.records, write := true }] ++
    match p.out with
    | some d => c.memTouch h d.base true ++ c.memTouch h (x.cardField 191 128) true
    | none => []

/-- The writeback of a group by what its binding gives (R145), through its split area for a split group. -/
def Core.closeTouches (c : Core) (h : Nat) (x : Hearth) (b : Binding) (rows : Nat) : List Touch :=
  if b.out == 7 then []
  else c.passTouches h x { chain := x.chainAt b.record, out := some (x.desc b.out), m0 := b.m0, n0 := b.n0, rows := rows, lanes := 128 } ++
    if b.split == 0 then [] else c.memTouch h x.splitArea true

/-- A writeback that waits, or a split part's that is under way. -/
def Core.writebackTouches (c : Core) (h : Nat) (x : Hearth) (w : Writeback) : List Touch :=
  c.closeTouches h x w.binding w.values.length ++ if w.skip.isSome then c.memTouch h x.auxArea true else []

/-! Operations. -/

/-- The groups of an operation that is narrow or not. -/
def groupsFrom (narrow : Bool) (g : Nat) : List Nat := if narrow then [g, g + 1, g + 2, g + 3] else [g]

/-- The binding and row count with which a group will be open after earlier operations. -/
def Hearth.groupBinding (x : Hearth) (earlier : List Issued) (g : Nat) : Option (Binding × Nat) :=
  let opener (i : Issued) : Option (Binding × Nat) := match i.op with
    | .astream f => if f.opens && (groupsFrom f.narrow f.g).contains g then some ((kvGet i.bindings g).getD {}, ((x.seenBy i).reg f.rows).toNat) else none
    | _ => none
  match earlier.reverse.findSome? opener with
  | some b => some b
  | none => (kvGet x.groups g).map (fun gr => (gr.binding, gr.rows))

/-- Whether an operation closes a group for its writeback (R145, R189): an FP16 stream may close its group before itself (R89). -/
def Hearth.closing (x : Hearth) (op : SlotOp) : Bool :=
  match op with
  | .astream f => x.skipMode == 0 && (f.closes || (x.accFormat == 2 && !bit x.card 107))
  | .aclose _ => x.skipMode == 0
  | .acatch _ => true
  | _ => false

/-- The writebacks that a stream or close gives rise to; in a skip run the header that its judging reads. -/
def Core.closingTouches (c : Core) (h : Nat) (x : Hearth) (earlier : List Issued) (op : SlotOp) : List Touch :=
  let gs := match op with | .astream f => groupsFrom f.narrow f.g | .aclose f => groupsFrom f.narrow f.g | _ => []
  if !x.closing op then if x.skipMode == 0 then [] else c.memTouch h x.auxArea false
  else gs.flatMap (fun g => match x.groupBinding earlier g with | some b => c.closeTouches h x b.1 b.2 | none => [])

/-- The card's segment area (R55), which streams into and closes of compensated groups use. -/
def Hearth.segTouch (x : Hearth) : Touch :=
  { off := 1024 * x.cardField 364 352, n := if x.accFormat == 0 && bit x.card 106 then 1024 * x.cardField 381 368 else 0, write := true }

/-- The tiles of a span, from an offset on. -/
def TDesc.spanTouches (d : TDesc) (kinner : Bool) (kp k0 : Nat) : Nat → Nat → Nat → List Touch
  | 0, _, _ => []
  | t + 1, n0, off =>
    let n := d.tileBytes kinner kp k0 n0
    { off := off, n := n } :: d.spanTouches kinner kp k0 t (n0 + 128) (roundUp (off + n) 1024)

/-- A staged half, from its header to its end in whatever form it is staged. -/
def WindowHalf.touch (a : WindowHalf) : Touch := { off := a.scratch, n := max a.next a.alt - a.scratch }

/-- TLOAD: where it stages, for a window in any form and with the half before it staged again (R174); what it reads of scratch as memory. -/
def Core.tloadTouches (c : Core) (h : Nat) (x : Hearth) (f : TloadF) : List Touch :=
  let t := x.tloadArgs f
  let span (off : Nat) : Nat :=
    let t := { t with off := off }
    max (windowEnd t x.patternN 0) (windowEnd t x.patternN (if x.pattern != 0 then 1 else 2)) - off
  let first := x.windows.filter (fun a => a.desc == f.desc && (a.next == t.off || a.alt == t.off))
  c.memTouch h t.d.base false ++
    if !x.windowLoad t.d then [{ off := t.off, n := t.size t.d.fmt, write := true }]
    else { off := t.off, n := span t.off, write := true } ::
      first.flatMap (fun a => [{ a.touch with write := true }, { off := max a.next a.alt, n := span (max a.next a.alt), write := true }])

/-- TGATHER and TSCATTER: the index list, the rows, and the tensor where it lies in scratch. -/
def Core.indexTouches (c : Core) (h : Nat) (x : Hearth) (f : TindexF) (store : Bool) : List Touch :=
  let d := x.desc f.desc
  let count := (x.reg f.count).toNat
  let cols := 32 * (f.cols32 + 1)
  { off := 1024 * f.index, n := (if store then 16 else 4) * count } ::
    { off := 1024 * f.scratch, n := (if store then stagedRowBytes d.fmt true cols else gatherRowBytes d cols) * count, write := !store } ::
    c.memTouch h d.base store

/-- TSTORE: its tile, and the tensor where it lies in scratch. -/
def Core.tstoreTouches (c : Core) (h : Nat) (x : Hearth) (f : TstoreF) : List Touch :=
  let t := x.tstoreArgs f
  let s := (fmtOfCode f.srcFmt).getD .fp32
  { off := t.off, n := if f.transpose then stagedBytes s false (rows32 t.cols) t.rows else t.size s } :: c.memTouch h t.d.base true

/-- ALOAD: the tile, the span of a skip run, a window's halves, or the segments that the narrow-K table names. -/
def Core.aloadTouches (c : Core) (h : Nat) (x : Hearth) (before : List Touch) (f : AloadF) : List Touch :=
  let off := x.scratchOff f.scratch f.idx 14
  let k0 := (x.reg f.k0).toNat
  let n0 := (x.reg f.n0).toNat
  let (st, sm) := x.pairT f.pair
  let kp := kPerBeat x.accFormat st.fmt sm.fmt
  let nk := 1024 * x.cardField 396 384
  if x.skipMode != 0 then
    let d := if f.pair == 1 then x.companion else st
    let main := (x.pairT 0).1
    let width := min (128 * x.skipSpan) (main.nExt f.kinner - n0)
    let kp := kPerBeat x.accFormat main.fmt (x.pairT 0).2.fmt
    c.memTouch h x.companion.base false ++ d.spanTouches f.kinner kp k0 (ceilDiv width 128) n0 off
  else if f.narrow then
    viaTable before nk 64 ((List.range 4).map (fun j =>
      let e := x.peek (nk + 16 * j) 16
      { off := off + 1024 * bits e 12 0, n := if bits e 38 32 == 0 then 0 else st.tileBytes f.kinner 64 k0 n0 }))
  else if f.pair == 0 && (x.pattern != 0 || x.observe) && st.compress then
    match x.windows.find? (fun a => a.scratch == off) with
    | none => [{ off := off, n := 64 }]
    | some a => a.touch :: { off := a.next, n := 64 } :: { off := a.alt, n := 64 } :: (x.windows.filter (followsHalf st.fmt a)).map WindowHalf.touch
  else [{ off := off, n := st.tileBytes f.kinner kp k0 n0 }]

/-- Staged streaming rows of a width. -/
def streamTouches (d : TDesc) (off width rows : Nat) : List Touch :=
  let n := rows * stagedRowBytes d.fmt true (min width 1024)
  if width ≤ 1024 then [{ off := off, n := n }]
  else [{ off := off, n := n }, { off := roundUp (off + n) 1024, n := rows * stagedRowBytes d.fmt true (width - 1024) }]

/-- The widest plane that a stream of a Hearth can meet. -/
def Hearth.widest (x : Hearth) : Nat :=
  let kp (p : Nat) : Nat := kPerBeat x.accFormat (x.pairT p).1.fmt (x.pairT p).2.fmt
  max (max (kp 0) (kp 1)) (if x.pattern != 0 || x.observe then windowLimit (x.pairT 0).1.fmt else 0)

/-- ASTREAM: its rows, the segment area, and the writebacks that it gives rise to. -/
def Core.astreamTouches (c : Core) (h : Nat) (x : Hearth) (earlier : List Issued) (before : List Touch) (f : AstreamF) : List Touch :=
  let off := x.scratchOff f.scratch f.idx 14
  let rows := (x.reg f.rows).toNat
  let sm := (x.pairT f.pair).2
  let nk := 1024 * x.cardField 396 384
  x.segTouch :: c.closingTouches h x earlier (.astream f) ++
    if f.narrow then
      viaTable before nk 64 ((List.range 4).flatMap (fun j =>
        let e := x.peek (nk + 16 * j) 16
        streamTouches sm (off + 1024 * bits e 28 16) 64 rows))
    else streamTouches sm off x.widest rows

/-- ACATCH: its plan, list, rows and buffers, and its writebacks; all of scratch until its group is judged and its plan is written. -/
def Core.acatchTouches (c : Core) (h : Nat) (x : Hearth) (before : List Touch) (f : AcatchF) : List Touch :=
  let list := x.scratchOff f.list f.idx 14
  let (st, sm) := x.pairT 0
  match (kvGet x.groups f.g).bind (fun gr => (gr.skip).map (fun sp => (gr, sp))) with
  | some (gr, sp) =>
    if !sp.judged then [wholeScratch]
    else
      let plan := x.peek list 8
      let rows := gr.rows * stagedRowBytes sm.fmt true (kPerBeat x.accFormat st.fmt sm.fmt)
      c.memTouch h x.auxArea true ++
        (List.range (ceilDiv sp.map.width 128)).flatMap (fun q => c.closeTouches h x { gr.binding with n0 := gr.binding.n0 + 128 * q } gr.rows) ++
        viaTable before list 64 [{ off := list, n := 64 + 2 * sp.called.length, write := true },
          { off := 1024 * bits plan 12 0, n := sp.tiles.length * 1024 * bits plan 28 16 + rows },
          { off := 1024 * bits plan 44 32, n := 2 * 65536, write := true }]
  | none => [wholeScratch]

/-- What an operation of the units touches, as `x` sees it; `earlier` are the queued operations that issued before it, `before` the touches of the work
that issued before it. -/
def Core.opTouches (c : Core) (h : Nat) (x : Hearth) (earlier : List Issued) (before : List Touch) (op : SlotOp) : List Touch :=
  match op with
  | .tload f => c.tloadTouches h x f
  | .tgather f => c.indexTouches h x f false
  | .tfill f => [{ off := 1024 * f.scratch, n := 1024 * f.length, write := true }]
  | .tstore f => c.tstoreTouches h x f
  | .tscatter f => c.indexTouches h x f true
  | .aload f => c.aloadTouches h x before f
  | .astream f => c.astreamTouches h x earlier before f
  | .aclose f => x.segTouch :: c.closingTouches h x earlier (.aclose f)
  | .acatch f => c.acatchTouches h x before f
  | .vrun f =>
    c.passTouches h x
      { chain := x.chainAt (kvGet x.chains f.chain), out := if f.out == 7 then none else some (x.desc f.out), m0 := (x.reg f.m0).toNat,
        n0 := (x.reg f.n0).toNat, rows := (x.reg f.rows).toNat, lanes := 128, src := some (x.scratchOff f.src f.idx 15) }
  | .ldx _ o => [{ off := o, n := 4 }]
  | _ => []

/-! Work that is not complete. -/

/-- What the rest of an operation touches that waits for bytes. -/
def Core.contTouches (c : Core) (h : Nat) (x : Hearth) (k : Cont) : List Touch :=
  match k with
  | .tload _ f regs => c.tloadTouches h { x with regs := regs } f
  | .tgather _ f regs => c.indexTouches h { x with regs := regs } f false
  | .window _ w _ => [{ w.touch with write := true }]
  | .tstore _ f regs => c.tstoreTouches h { x with regs := regs } f
  | .acatch _ f regs _ => c.acatchTouches h { x with regs := regs } [] f
  | .splitRead _ w _ => c.writebackTouches h x w
  | _ => []

/-- What the work touches that a Hearth's units have started and not completed: transfers, split parts under way, waiting writebacks, a ROLL that has arrived,
whose payload is still written back. -/
def Core.startedTouches (c : Core) (h : Nat) : List Touch :=
  let x := c.hearth h
  (c.fabric.xfers.filter (fun t => t.actor == .hearth h)).flatMap (fun t => c.contTouches h x t.cont) ++
    ((c.fabric.out ++ c.fabric.atomHeld).filter (fun r => r.actor == .hearth h)).flatMap (fun r => match r.use with | .split w => c.writebackTouches h x w | _ => []) ++
    x.wbq.flatMap (c.writebackTouches h x) ++
    x.yq.flatMap (fun o => match o with | .rolled _ p => [{ off := 64 * p, n := 64, write := true }] | _ => [])

/-- The touches of queued operations on top of those of the work before them. -/
def Core.queuedTouches (c : Core) (h : Nat) : List Issued → List Issued → List Touch → List Touch
  | _, [], before => before
  | earlier, i :: l, before =>
    c.queuedTouches h (earlier ++ [i]) l (before ++ c.opTouches h ((c.hearth h).seenBy i) earlier before i.op)

/-- The touches of everything that issued before a place in the order of issue and is not complete. -/
def Core.touchesBefore (c : Core) (h seq : Nat) : List Touch :=
  let x := c.hearth h
  c.queuedTouches h [] (x.waitq.filter (fun i => decide (i.seq < seq))) (c.startedTouches h) ++
    x.yq.flatMap (fun o => match o with | .roll _ _ p prior => if prior.upTo < seq then [{ off := 64 * p, n := 64, write := true }] else [] | _ => [])

/-! When an operation may start. -/

/-- Whether the intake keeps a unit of a Hearth back (R198). -/
def Core.keptBack (c : Core) (h slot : Nat) : Bool := c.bellows.stalled.any (fun x => x.1 == .hearth h && x.2.1 == slot)

/-- Whether an operation of a unit has started and not completed: the Tongs wait for bytes, for a drain that holds a frame record (R231), or for room in the
intake; an ACATCH waits for its columns. -/
def Core.unitBusy (c : Core) (h slot : Nat) : Bool :=
  c.keptBack h slot ||
  c.fabric.xfers.any (fun t => t.actor == .hearth h && t.cont.slot == slot && !t.cont.isSplit) ||
    (slot == 1 && c.smithies.any (fun s => s.2.held.any (fun p => p.1 == h)))

/-- Whether the Temper may take a VRUN of a place in the order of issue: earlier writebacks have their place before it (R145). -/
def Core.temperFree (c : Core) (h seq : Nat) : Bool :=
  let x := c.hearth h
  !x.wbq.any (fun w => decide (w.seq < seq)) && !c.splitBusy h && !x.waitq.any (fun i => decide (i.seq < seq) && x.closing i.op)

/-- Whether an issued operation of a unit may start: the unit has completed the operations that issued to it before, and no earlier work that is not
complete touches a granule of its ranges (R124, R127). -/
def Core.startable (c : Core) (h : Nat) (i : Issued) : Bool :=
  let x := c.hearth h
  let earlier := x.waitq.filter (fun j => decide (j.seq < i.seq))
  !earlier.any (fun j => slotOf j.op == slotOf i.op) && !c.unitBusy h (slotOf i.op) && (slotOf i.op != 3 || c.temperFree h i.seq) &&
    match c.touchesBefore h i.seq with
    | [] => true
    | t :: l => !touchesMeet (t :: l) (c.opTouches h (x.seenBy i) earlier (t :: l) i.op)

/-- Whether an operation that a Hearth issues now starts at once. -/
def Core.startsNow (c : Core) (h : Nat) (op : SlotOp) : Bool := c.startable h ((c.hearth h).issued op)

/-- Whether a store or load of the Tongs of a Hearth outside its queues can be made now: on the words in scratch that it touches nothing is under way. -/
def Core.tongsFree (c : Core) (h slot : Nat) (l : List Touch) : Bool :=
  !c.unitBusy h slot && !(c.hearth h).waitq.any (fun i => slotOf i.op == slot) &&
    (l.isEmpty || !touchesMeet (c.touchesBefore h ((c.hearth h).seq + 1)) l)

/-- Whether earlier work of a Hearth leaves a ROLL its payload (R127). -/
def Core.rollClear (c : Core) (h payload : Nat) (prior : Prior) : Bool :=
  let x := c.hearth h
  let p : List Touch := [{ off := 64 * payload, n := 64, write := true }]
  let d := { c with fabric := { c.fabric with xfers := c.fabric.xfers.filter (fun t => prior.xfers.contains t.id) } }
  let started := (d.modHearth h (fun x => { x with wbq := x.wbq.filter (fun w => decide (w.seq ≤ prior.upTo)), yq := [] })).startedTouches h
  !touchesMeet (d.queuedTouches h [] (x.waitq.filter (fun i => decide (i.seq ≤ prior.upTo))) started) p

/-! Issue. -/

/-- Whether an operation of a unit takes effect at its issue (R117, Table 4-10). -/
def latches : SlotOp → Bool
  | .abind _ => true
  | .vdef _ _ => true
  | .vlen _ => true
  | _ => false

/-- An operation queued behind its unit's work, with what it latched. -/
def Core.queueOp (c : Core) (h : Nat) (i : Issued) : Core := c.modHearth h (fun x => { x with waitq := x.waitq ++ [i] })

/-- An operation of a unit issued: it starts at once, or waits in its unit's queue (R124, R127). -/
def Core.issueNow (c : Core) (h : Nat) (op : SlotOp) (body : OpM Unit) : Core :=
  let i := (c.hearth h).issued op
  let d := c.modHearth h (fun x => { x with seq := i.seq })
  if latches op || c.startable h i then d.perform h (slotOf op) (fun _ => d.queueOp h i) body else d.queueOp h i

/-- An operation issued by its own command. A Hearth that cannot issue it leaves everything as it is (entry 6). -/
def Core.issue (c : Core) (h : Nat) (op : SlotOp) (body : OpM Unit) : Core := if !c.canIssue h op then c else c.issueNow h op body

end Sys2Proof.Machine
end

