-- ==== Sys2Proof/Machine/Units.lean ====
section
/-!
DEFINITION. Sys2Proof/Machine/Units.lean: the commands of the T, S, A and V slots, a group's writeback, and the commands that stand for one store or load
of the Tongs or of a host descriptor.
-/

namespace Sys2Proof.Machine

/-! The T and S slots. -/

/-- TLOAD. -/
def execTload (h : Nat) (f : TloadF) (s : State) : Host.Outcome State Fault Refusal :=
  .next { s with core := s.core.gated (fun c => c.issue h (.tload f) (tloadOp h f)) }

/-- TGATHER. -/
def execTgather (h : Nat) (f : TindexF) (s : State) : Host.Outcome State Fault Refusal :=
  .next { s with core := s.core.gated (fun c => c.issue h (.tgather f) (tgatherOp h f)) }

/-- TFILL. -/
def execTfill (h : Nat) (f : TfillF) (s : State) : Host.Outcome State Fault Refusal :=
  .next { s with core := s.core.gated (fun c => c.issue h (.tfill f) (tfillOp h f)) }

/-- TSTORE. -/
def execTstore (h : Nat) (f : TstoreF) (s : State) : Host.Outcome State Fault Refusal :=
  .next { s with core := s.core.gated (fun c => c.issue h (.tstore f) (tstoreOp h f)) }

/-- TSCATTER. -/
def execTscatter (h : Nat) (f : TindexF) (s : State) : Host.Outcome State Fault Refusal :=
  .next { s with core := s.core.gated (fun c => c.issue h (.tscatter f) (tscatterOp h f)) }

/-- COMBINE_SCATTER: a TSCATTER at the scatter buffer (R232). -/
def execCombineScatter (h : Nat) (f : TindexF) (s : State) : Host.Outcome State Fault Refusal :=
  .next { s with core := s.core.gated (fun c => c.issue h (.tscatter f) (combineOp h f)) }

/-- HASH_SCATTER: a TSCATTER at a hash table's window (R240). -/
def execHashScatter (h : Nat) (f : TindexF) (s : State) : Host.Outcome State Fault Refusal :=
  .next { s with core := s.core.gated (fun c => c.issue h (.tscatter f) (hashOp h f)) }

/-! The A slot. -/

/-- ALOAD. -/
def execAload (h : Nat) (f : AloadF) (s : State) : Host.Outcome State Fault Refusal :=
  .next { s with core := s.core.gated (fun c => c.issue h (.aload f) (aloadOp h f)) }

/-- ASTREAM. -/
def execAstream (h : Nat) (f : AstreamF) (s : State) : Host.Outcome State Fault Refusal :=
  .next { s with core := s.core.gated (fun c => c.issue h (.astream f) (astreamOp h f)) }

/-- ABIND. -/
def execAbind (h : Nat) (f : AbindF) (s : State) : Host.Outcome State Fault Refusal :=
  .next { s with core := s.core.gated (fun c => c.issue h (.abind f) (abindOp h f)) }

/-- ACLOSE. -/
def execAclose (h : Nat) (f : AcloseF) (s : State) : Host.Outcome State Fault Refusal :=
  .next { s with core := s.core.gated (fun c => c.issue h (.aclose f) (acloseOp h f)) }

/-- ACATCH. -/
def execAcatch (h : Nat) (f : AcatchF) (s : State) : Host.Outcome State Fault Refusal :=
  .next { s with core := s.core.gated (fun c => c.issue h (.acatch f) (acatchOp h f)) }

/-- GROUP_WRITEBACK: the Hearth's oldest closed group is written back; with none it cannot happen (entry 6). -/
def execGroupWriteback (h : Nat) (s : State) : Host.Outcome State Fault Refusal :=
  .next { s with core := s.core.gated (fun c => if c.writebackReady h then c.runWriteback h else c) }

/-! The V slot. -/

/-- VDEF. -/
def execVdef (h : Nat) (chain record : Nat) (s : State) : Host.Outcome State Fault Refusal :=
  .next { s with core := s.core.gated (fun c => c.issue h (.vdef chain record) (vdefOp h chain record)) }

/-- VRUN. -/
def execVrun (h : Nat) (f : VrunF) (s : State) : Host.Outcome State Fault Refusal :=
  .next { s with core := s.core.gated (fun c => c.issue h (.vrun f) (vrunOp h f)) }

/-- VLEN. -/
def execVlen (h : Nat) (reg : Nat) (s : State) : Host.Outcome State Fault Refusal :=
  .next { s with core := s.core.gated (fun c => c.issue h (.vlen reg) (vlenOp h reg)) }

/-! Single stores and loads. -/

/-- One store or load of a Hearth's Tongs that a command stands for, with the scratch ranges that it touches; nothing while an earlier operation of the
Tongs is not done (R124, R231) or a range is not free (R127; entry 6). -/
def Core.tongsDo (c : Core) (h slot : Nat) (l : List Touch) (op : OpM Unit) : Core :=
  if c.tongsFree h slot l then c.perform h slot (fun c => c) op else c

/-- FRAME_RECORD: the store of a frame record by a Hearth of the Smithy (R231). -/
def execFrameRecord (h : Nat) (record : Nat) (s : State) : Host.Outcome State Fault Refusal :=
  .next { s with core := s.core.gated (fun c => c.tongsDo h 1 [] do
    refuseLent h
    frameStore h record) }

/-- CLOSE_RECORD: the store of a close record, whose bits are ignored (R236). -/
def execCloseRecord (h : Nat) (_record : Nat) (s : State) : Host.Outcome State Fault Refusal :=
  .next { s with core := s.core.gated (fun c => c.tongsDo h 1 [] do
    refuseLent h
    closeStore h) }

/-! Commands that stand for one store or load by a Hearth's Lesson or a host descriptor (the key check of the store that carries the
record is the store's own, R403). -/

/-- Who an agent is. -/
def Core.agentWho (c : Core) (a : Agent) : Who :=
  match a with
  | .hearth h => { actor := .hearth h, tenant := c.runTenant h, keyed := false, slot := 1 }
  | .host o => { actor := .desc o, tenant := c.originTenant o, keyed := false }

/-- An agent's store done: a Lesson's failure is its fault, a host descriptor's a notice (R400, R405). -/
def Core.runAgent (c : Core) (a : Agent) (slot : Nat) (op : OpM Unit) : Core :=
  match a with
  | .hearth h => c.tongsDo h slot [] op
  | .host o => c.runDesc o op

/-- ANNOUNCE. -/
def execAnnounce (a : Agent) (record : Nat) (s : State) : Host.Outcome State Fault Refusal :=
  .next { s with core := s.core.gated (fun c => c.runAgent a 1 (announceOp (c.agentWho a) (leBytes 128 record))) }

/-- MERGE_RECORD. -/
def execMergeRecord (a : Agent) (record : Nat) (s : State) : Host.Outcome State Fault Refusal :=
  .next { s with core := s.core.gated (fun c => c.runAgent a 1 do
    lentOff (c.agentWho a)
    mergeOp (c.agentWho a).tenant record) }

/-- TALLY_WINDOW_STORE: `len` low bytes of `word` stored at an offset of the window under a key (R315). -/
def execTallyWindowStore (a : Agent) (off len key word : Nat) (s : State) : Host.Outcome State Fault Refusal :=
  .next { s with core := s.core.gated (fun c => c.runAgent a 1 do
    let w : Who := { c.agentWho a with key := key, keyed := true }
    lentOff w
    checkKey w (0x500060000000 + off) len .write
    tallyStore w.tenant off (leBytes len word)) }

/-- TALLY_WINDOW_LOAD: a Tongs load of the window into scratch at byte `dst` (R315). -/
def execTallyWindowLoad (h off len key dst : Nat) (s : State) : Host.Outcome State Fault Refusal :=
  .next { s with core := s.core.gated (fun c => c.tongsDo h 0 [{ off := dst, n := len, write := true }] do
    let w : Who := { c.agentWho (.hearth h) with key := key, keyed := true }
    refuseLent h
    checkScratch h dst len
    let b ← readLocal w (0x500060000000 + off) len
    sensePath h
    writeScratch h dst b) }

/-- ATOMIC_RECORD: a store of a record to the atomic page at an offset (R415). -/
def execAtomicRecord (a : Agent) (off : Nat) (record : Nat) (s : State) : Host.Outcome State Fault Refusal :=
  .next { s with core := s.core.gated (fun c => c.runAgent a 1 (atomicStore (c.agentWho a) off (leBytes 64 record))) }


end Sys2Proof.Machine
end

