-- ==== Sys2Proof/Machine/Control.lean ====
section
/-!
DEFINITION. Sys2Proof/Machine/Control.lean: the Hearth sequencer: runs and their ends (R104, R108, R433), the Y and C slots (R120 to R123,
R129 to R133, R218), issue of long words (R124 to R128) and lent items (R440 to R443).
-/

namespace Sys2Proof.Machine

/-! Completion of units (Table 4-10). -/

/-- Whether a use is a write whose delivery completes an operation of a Lesson. -/
def ReqUse.isWrite : ReqUse → Bool
  | .store => true
  | .split _ => true
  | .hashRow _ _ => true
  | _ => false

/-- Whether a Hearth has writes of a slot's operations under way to other devices. -/
def Core.writesOut (c : Core) (h slot : Nat) : Bool :=
  (c.fabric.out ++ c.fabric.atomHeld).any (fun r => r.actor == .hearth h && r.slot == slot && r.use.isWrite)

/-- Whether a Hearth has a transfer under way for a slot. -/
def Core.transferFor (c : Core) (h slot : Nat) : Bool := c.fabric.xfers.any (fun t => t.actor == .hearth h && t.cont.slot == slot)

/-- Whether every operation issued to a unit has completed (R126, Table 4-10): 0 T, 1 S, 2 A, 3 V, 4 Y. -/
def Core.unitIdle (c : Core) (h slot : Nat) : Bool :=
  let x := c.hearth h
  if slot == 4 then x.yq.isEmpty
  else !x.waitq.any (fun i => slotOf i.op == slot) && !c.transferFor h slot && !c.writesOut h slot &&
    (slot != 1 || !c.smithies.any (fun s => s.2.held.any (fun p => p.1 == h))) && (slot != 2 || x.wbq.isEmpty) && !c.keptBack h slot

/-- Whether every operation a Hearth has issued has completed. -/
def Core.allIdle (c : Core) (h : Nat) : Bool := (List.range 5).all (c.unitIdle h) && (c.hearth h).taking.isNone && (c.hearth h).waitq.isEmpty

/-! Runs. -/

/-- The registers at the start of a run (Table 4-1). -/
def startRegs (x : Hearth) (rank size logical : Nat) : List (Nat × Word32) :=
  [(1, BitVec.ofNat 32 rank), (2, BitVec.ofNat 32 size), (3, BitVec.ofNat 32 (x.cardField 447 416)), (4, BitVec.ofNat 32 (x.cardField 479 448)),
   (5, BitVec.ofNat 32 (x.cardField 511 480)), (6, BitVec.ofNat 32 x.step), (7, BitVec.ofNat 32 logical)]

/-- A Hearth at the start of a run at its card's entry (R74, R104, R142, R153, R178). -/
def Hearth.started (x : Hearth) (rank size logical : Nat) : Hearth :=
  { x with regs := startRegs x rank size logical, running := true, pc := x.cardField 319 304, ended := none, rank := rank, size := size,
           loops := [], chains := [], bindings := [], vlen := 128, groups := [], current := {}, shadow := none, probeCur := none,
           probeNext := none, laneMaps := [], windows := [], wbq := [], yq := [], waitq := [], taking := none, loopDue := none, pendingStatus := 0, allocs := [], seq := 0 }

/-- The end of a run whose END tail has issued and whose operations have all completed (R108): its items retire, its open groups are
abandoned, its end code is kept. -/
def runEndOp (h code : Nat) : OpM Unit := do
  retireAll h
  update (fun c =>
    let c := c.abandonGroups h
    let lent := (c.hearth h).lentRun.isSome
    let o := (c.hearth h).runOf
    if lent then c.finishLent h code
    else
      let c := (c.stopHearth h).modHearth h (fun x => { x with lastEnd := code })
      match o with
      | some o => c.memberEnd o h (some code) stOk
      | none => c)

/-- Whether a run can end. -/
def Core.runEndReady (c : Core) (h : Nat) : Bool := (c.hearth h).running && (c.hearth h).ended.isSome && c.allIdle h

/-- A run's end; a failure of it is one of the sequencer. -/
def Core.runEnd (c : Core) (h : Nat) : Core :=
  match (c.hearth h).ended with
  | some code => c.perform h 5 (fun c => c) (runEndOp h code)
  | none => c

/-- RUN_END; not enabled before its condition holds (entry 6). -/
def execRunEnd (h : Nat) (s : State) : Host.Outcome State Fault Refusal :=
  .next { s with core := s.core.gated (fun c => if c.runEndReady h then c.runEnd h else c) }

/-! The C slot. -/

/-- The loops whose last word is `w` after that word: iterated again, or left (R129). Loops that share a last word end together
(entry 35). -/
def loopEnd (w : Nat) : Nat → Hearth → Hearth
  | 0, x => x
  | n + 1, x =>
    match x.loops with
    | [] => x
    | l :: rest =>
      if l.endW != w then x
      else if l.iter + 1 < l.count then
        ({ x with loops := { l with iter := l.iter + 1 } :: rest, pc := l.body }).setReg l.reg (BitVec.ofNat 32 (l.iter + 1))
      else loopEnd w n { x with loops := rest, pc := l.after }

/-- The loops whose last word waited for an LDX or a TAKE to write its register end now (R125, R130). -/
def Hearth.endDueLoop (x : Hearth) : Hearth :=
  match x.loopDue with
  | some w => if x.taking.isNone && !x.waitq.any (fun i => isLdx i.op) then loopEnd w 4 { x with loopDue := none } else x
  | none => x

/-- The address after the word at an address. -/
def wordAfter (h w : Nat) : OpM Nat := do
  let b ← readLesson h (2 * w) (min 38 (65536 - 2 * w))
  pure (match decodeWord w b with | some x => x.next | none => w + 1)

/-- LOOP (R129, R130): the body starts at the current pc, which the word's issue has moved to the next word. -/
def loopOp (h : Nat) (f : LoopF) : OpM Unit := do
  let after ← wordAfter h f.endW
  update (fun c => c.modHearth h (fun x =>
    let n := if f.count == 0 then f.imm else (x.reg f.count).toNat
    if n == 0 then loopEnd f.endW 4 { x with pc := after }
    else ({ x with loops := { body := x.pc, endW := f.endW, after := after, reg := f.index, iter := 0, count := n } :: x.loops }).setReg f.index 0#32))

/-- Whether a condition field holds (R121). -/
def condHolds (x : Hearth) (f : BranchF) : Bool :=
  match f.cond with
  | 0 => true
  | 1 => x.reg f.reg == 0#32
  | _ => x.reg f.reg != 0#32

/-- BREAK (R131). With no loop around it, as after an entry inside a body, it does nothing (entry 108). -/
def brkOp (h : Nat) (f : BranchF) : OpM Unit :=
  update (fun c => c.modHearth h (fun x =>
    if !condHolds x f then x
    else match x.loops with
      | [] => x
      | l :: rest => loopEnd l.endW 4 { x with loops := rest, pc := l.after }))

/-- JUMP (Table 4-9). -/
def jumpOp (h : Nat) (f : BranchF) : OpM Unit :=
  update (fun c => c.modHearth h (fun x => if condHolds x f then { x with pc := f.target } else x))

/-- The ALU functions (R122). -/
def aluFn (fn : Nat) (a y : Word32) : Word32 :=
  match fn with
  | 0 => a + y
  | 1 => a - y
  | 2 => a * y
  | 3 => a <<< (y.toNat % 32)
  | 4 => a >>> (y.toNat % 32)
  | 5 => a &&& y
  | 6 => if a.toNat < y.toNat then 1#32 else 0#32
  | _ => a ||| y

/-- ALU. -/
def aluOp (h : Nat) (f : AluF) : OpM Unit :=
  update (fun c => c.modHearth h (fun x =>
    let y := if f.imm then BitVec.signExtend 32 (BitVec.ofNat 24 f.imm24) else x.reg f.b
    x.setReg f.d (aluFn f.fn (x.reg f.a) y)))

/-- LI. -/
def liOp (h d imm : Nat) : OpM Unit := update (fun c => c.modHearth h (fun x => x.setReg d (BitVec.ofNat 32 imm)))

/-- LDX (Table 4-9). -/
def ldxOp (h d off : Nat) : OpM Unit := do
  checkScratch h off 4
  let b ← readScratch h off 4
  update (fun c => c.modHearth h (fun x => x.setReg d (BitVec.ofNat 32 (leNat b))))

/-! TAKE (R90, R91, R123, R218). -/

/-- A Hearth's current batch on a ring (R218). -/
def Core.currentBatch (c : Core) (h ring : Nat) : Option RingView :=
  let l := c.ringViews.filter (fun v => (v.localRing == ring || v.guestRing == ring) && (c.enlisted v).contains h &&
    !(c.hearth h).seenClose.contains (v.acc, ring))
  l.foldl (fun (m : Option RingView) v => match m with | none => some v | some u => if v.acc < u.acc then some v else m) none

/-- Whether a batch's ring is closed. -/
def RingView.closed (v : RingView) (ring : Nat) : Bool := (v.localRing != ring || v.localClosed) && (v.guestRing != ring || v.guestClosed)

/-- The next item for a Hearth on a ring: its own die's segment first (R218), with the segment's key. -/
def Core.nextItem (c : Core) (h ring : Nat) (v : RingView) : Option (Nat × Item) :=
  let find (d : Nat) : Option (Nat × Item) :=
    ((kvGet c.tt.rings (d * 4 + ring)).getD []).find? (fun i => i.epoch == v.epoch && i.backward == v.backward) |>.map (fun i => (d * 4 + ring, i))
  match find (h / 44) with
  | some r => some r
  | none => find (1 - h / 44)

/-- Slots of an item's footprint (R91, R263). -/
def itemSlots (x : Hearth) (i : Item) : Nat :=
  i.rows * (rowSlots x.accFormat (bit x.card 107)).1 * (if i.kind == 5 && bit i.x8 16 then 4 else 1)

/-- The lowest free footprint of `n` slots in the item pool (R90). -/
def poolFind (x : Hearth) (n : Nat) (used : List (Nat × Nat)) : Option Nat :=
  let al := (rowSlots x.accFormat (bit x.card 107)).2
  let base := roundUp (x.cardField 333 320) al
  let top := x.cardField 333 320 + x.cardField 350 336
  if x.cardField 350 336 == 0 then none
  else ((List.range ((top - base) / al + 1)).map (fun k => base + k * al)).find? (fun b =>
    decide (b + n ≤ top) && !used.any (fun u => slotsMeet b n u.1 u.2))

/-- Slot ranges of a Hearth's pool that are taken. -/
def Hearth.usedSlots (x : Hearth) : List (Nat × Nat) :=
  x.allocs.map (fun a => (a.1, a.2.1)) ++ x.groups.map (fun g => (g.2.base, g.2.rows * g.2.slotsPerRow)) ++ x.wbq.map (fun w => (w.base, w.slots))

/-- A TAKE tried: whether it has completed (R123). -/
def tryTake (h ring : Nat) : OpM Bool := do
  let c ← get
  match c.currentBatch h ring with
  | none => pure false
  | some v =>
    match (if v.batchGone then none else c.nextItem h ring v) with
    | none =>
      if !v.closed ring then pure false
      else do
        update (fun c => Core.pruneEnded <| c.modHearth h (fun x =>
          ({ x with taking := none, seenClose := x.seenClose ++ [(v.acc, ring)],
                    regs := [(8, BitVec.ofNat 32 max32), (9, 0#32), (10, 0#32), (11, 0#32), (12, 0#32)].foldl (fun l p => kvPut l p.1 p.2) x.regs } : Hearth).endDueLoop))
        pure true
    | some (key, i) =>
      let x := c.hearth h
      let n := itemSlots x i
      if (poolFind x n []).isNone then failWith stSlotBusy
      else match poolFind x n x.usedSlots with
        | none => pure false
        | some base => do
          senseWord (.queue (qRing key)) 0
          update (fun c =>
            let c := { c with tt := { c.tt with rings := kvPut c.tt.rings key (dropFirst (fun j => j == i) ((kvGet c.tt.rings key).getD [])) } }
            c.modHearth h (fun x =>
              ({ x with taking := none, allocs := x.allocs ++ [(base, n, ring)],
                        items := x.items ++ [{ ring := ring, epoch := i.epoch, backward := i.backward, weight := i.kind == 5, layer := i.layer,
                                               guests := i.guests }],
                        regs := [(8, i.x8), (9, i.x9), (10, i.x10), (11, i.x11), (12, base)].foldl (fun l p => kvPut l p.1 (BitVec.ofNat 32 p.2)) x.regs } : Hearth).endDueLoop))
          asBlock clsDispatch 0 0 bellowsPump
          pure true

/-- TAKE: the previous item on the ring retires, then the item is taken, or waited for (R123, R214). A ring of the other tenant, and a TAKE
of a lent item, are refused (entry 37). -/
def takeOp (h ring : Nat) : OpM Unit := do
  refuseLent h
  let c ← get
  require (!c.twoTenant || ring / 2 == c.hearthTenant h) stFormat
  retireItem h ring
  asBlock clsDispatch 0 0 bellowsPump
  let done ← tryTake h ring
  if done then pure () else update (fun c => c.modHearth h (fun x => { x with taking := some ring }))

/-! The Y slot. -/

/-- The Y queue's head completes. -/
def Core.yDone (c : Core) (h : Nat) : Core := c.modHearth h (fun x => { x with yq := x.yq.drop 1 })

/-- The head replaced while it waits for the fabric or a Roll call. -/
def Core.yHold (c : Core) (h : Nat) (op : YOp) : Core := c.modHearth h (fun x => { x with yq := op :: x.yq.drop 1 })

/-- The unit of a scope for a Hearth (R309). -/
def scopeUnit (h scope : Nat) : Nat := match scope with | 0 => h | 1 => h / 4 | _ => 0

/-- What a Tally operation of a Lesson may name (R137, R314). -/
def checkTally (h scope i : Nat) (op : Nat) : OpM Unit := do
  match scope with
  | 0 => checkLocalTally h i
  | 1 => refuseLent h
  | _ => do
    refuseLent h
    let c ← get
    if c.tallyOwned (c.runTenant h) i then pure () else refuseKey (0x500060000000 + 8 * i) op

/-- A wait that has reached its Tally: taken in its turn, or kept (R312). -/
def tryWait (h scope i n : Nat) : OpM Unit := do
  let c ← get
  let u := scopeUnit h scope
  let c := if c.sync.waiters.any (fun w => w.hearth == h) then c
    else { c with sync := { c.sync with waiters := c.sync.waiters ++ [{ scope := scope, unit := u, index := i, n := n, hearth := h }] } }
  match (c.tally scope u i).take n with
  | some t => if n == 0 || c.firstWaiter scope u i h then set (((c.setTally scope u i t).dropWaiter h).yDone h) else set c
  | none => set c

/-- The Y queue's head moves on as far as it can (R124, R311 to R313, R319, R325). -/
def yHead (h : Nat) : OpM Unit := do
  let c ← get
  match (c.hearth h).yq with
  | [] => pure ()
  | op :: _ => do
    senseWord (.queue (qHearth h)) 0
    let c ← get
    match op with
    | .wait scope i n => tryWait h scope i n
    | .sub scope i n => do
      checkTally h scope i opSignalTx
      update (fun c => (c.subTally scope (scopeUnit h scope) i n).yDone h)
    | .signal scope i n dev =>
      if scope != 2 || dev == max32 || c.isSelf dev then do
        checkTally h scope i opSignalTx
        signalTally scope (scopeUnit h scope) i n
        update (fun c => c.yDone h)
      else if n == 0 then set (c.yDone h)
      else do
        refuseLent h
        let tag := c.fabric.nextTag
        sendRequest { actor := .hearth h, tenant := c.runTenant h, keyed := false } .signal
          { op := opSignalTx, dst := dev % 2 ^ 15, addr := globalAddr dev (0x500060000000 + 8 * i), len := 8, opndA := n + 1 <<< 32 } vcSync []
        update (fun c => c.yHold h (.sent tag))
    | .roll ctx red payload prior => do
      refuseLent h
      if !c.rollClear h payload prior then pure ()
      else do
        checkScratch h (64 * payload) 64
        let b ← readScratch h (64 * payload) 64
        if c.twoTenant && c.ctxTenant ctx != c.runTenant h then refuseKey 0 opRollTx
        else do
          let dup ← rollArrive ctx (.hearth h) red none b (64 * payload)
          update (fun c => if dup then c.yDone h else c.yHold h (.rolled ctx payload))
    | .fence prior => if c.fenceWaits h prior then pure () else set (c.yDone h)
    | .sent _ => pure ()
    | .rolled _ _ => pure ()

/-- The Y queue moves on until its head waits. -/
def yPump (h : Nat) : Nat → OpM Unit
  | 0 => pure ()
  | n + 1 => do
    let c ← get
    let k := (c.hearth h).yq.length
    if k == 0 then pure ()
    else do
      yHead h
      let c ← get
      if (c.hearth h).yq.length < k then yPump h n else pure ()

/-- A Y operation with its registers read; `c0` is the state before its word issued, whose work a fence or a ROLL waits for (R120, R127, R319). -/
def Core.yOpOf (c c0 : Core) (h : Nat) (op : SlotOp) : Option YOp :=
  let x := c.hearth h
  let count (f : TallyF) : Nat := if f.n == 0 then f.imm else (x.reg f.n).toNat
  match op with
  | .wait f => some (.wait f.scope f.index (count f))
  | .sub f => some (.sub f.scope f.index (count f))
  | .signal f => some (.signal f.scope f.index (count f) (if f.dev == 0 then max32 else (x.reg f.dev).toNat % 2 ^ 15))
  | .roll f => some (.roll f.ctx f.red f.payload (c0.priorWork h))
  | .fence => some (.fence (c0.priorWork h))
  | _ => none

/-- The checks of a wait at its issue, then the queue moves on. -/
def yIssue (h : Nat) (op : YOp) : OpM Unit := do
  match op with
  | .wait scope i _ => checkTally h scope i opSignalTx
  | _ => pure ()
  update (fun c => c.modHearth h (fun x => { x with yq := x.yq ++ [op] }))
  yPump h 5

/-- A Y operation issued by its own command. -/
def Core.issueY (c : Core) (h : Nat) (op : SlotOp) : Core :=
  if !c.canIssue h op then c
  else match c.yOpOf c h op with
    | some y => c.perform h 4 (fun c => c) (yIssue h y)
    | none => c

/-! Operations by slot. -/

/-- What an operation of a unit does when it starts. -/
def slotBody (h : Nat) (op : SlotOp) : OpM Unit :=
  match op with
  | .tload f => tloadOp h f
  | .tgather f => tgatherOp h f
  | .tfill f => tfillOp h f
  | .tstore f => tstoreOp h f
  | .tscatter f => tscatterOp h f
  | .aload f => aloadOp h f
  | .astream f => astreamOp h f
  | .abind f => abindOp h f
  | .aclose f => acloseOp h f
  | .acatch f => acatchOp h f
  | .vdef c r => vdefOp h c r
  | .vrun f => vrunOp h f
  | .vlen r => vlenOp h r
  | .loop f => loopOp h f
  | .brk f => brkOp h f
  | .jump f => jumpOp h f
  | .alu f => aluOp h f
  | .li d i => liOp h d i
  | .ldx d o => ldxOp h d o
  | .take r => takeOp h r
  | .wait _ => pure ()
  | .signal _ => pure ()
  | .sub _ => pure ()
  | .roll _ => pure ()
  | .fence => pure ()

/-- Whether an operation is one of the control slot that takes effect at issue. -/
def isImmediate : SlotOp → Bool
  | .loop _ => true
  | .brk _ => true
  | .jump _ => true
  | .alu _ => true
  | .li _ _ => true
  | .take _ => true
  | _ => false

/-- One slot of an issuing word: a Hearth that a fault of the word has stopped issues nothing more (R128). -/
def Core.issueSlot (c0 : Core) (h : Nat) (c : Core) (op : SlotOp) : Core :=
  if !(c.hearth h).running then c
  else if slotOf op == 4 then
    match c.yOpOf c0 h op with
    | some y => c.perform h 4 (fun c => c) (yIssue h y)
    | none => c
  else if isImmediate op then c.perform h 5 (fun c => c) (slotBody h op)
  else c.issueNow h op (slotBody h op)

/-- The word at a Hearth's pc. -/
def nextWord (h : Nat) : OpM (Option LWord) := do
  let c ← get
  let a := 2 * (c.hearth h).pc
  let b ← readLesson h a (min 38 (65536 - a))
  pure (decodeWord (c.hearth h).pc b)

/-- The word at a Hearth's pc as it stands, errors of the code aside. -/
def Core.peekWord (c : Core) (h : Nat) : Option LWord :=
  let x := c.hearth h
  decodeWord x.pc (memRange (fun _ => 0#8) x.lesson (2 * x.pc) (min 38 (65536 - 2 * x.pc)))

/-- Whether a word can issue (R124). -/
def Core.wordReady (c : Core) (h : Nat) (w : LWord) : Bool :=
  let x := c.hearth h
  x.running && x.ended.isNone && !x.issueHeld && (w.tail != 1 || (List.range 5).all (fun k => !bit w.tbyte k || c.unitIdle h k)) &&
    w.ops.all x.roomFor

/-- A word issued: the Y slot and the units' slots with the registers as they are, then the control slot (R125); then the ends of loops
(R129), once an LDX or TAKE of the word has written its register (R130), and the END tail (R108). The slots of one word act in the order Y, T, S,
A, V, C (entry 105). -/
def Core.issueWord (c : Core) (h : Nat) (w : LWord) : Core :=
  let c0 := c
  let c := c.modHearth h (fun x => { x with pc := w.next })
  let ops := w.ops.filter (fun o => slotOf o == 4) ++ w.ops.filter (fun o => decide (slotOf o < 4)) ++ w.ops.filter (fun o => slotOf o == 5)
  let c := ops.foldl (fun c o => c0.issueSlot h c o) c
  let c := if (c.hearth h).running && (c.hearth h).pc == w.next then c.modHearth h (fun x => ({ x with loopDue := some w.at_ } : Hearth).endDueLoop) else c
  if w.tail == 2 && (c.hearth h).running then c.modHearth h (fun x => { x with ended := some w.tbyte }) else c

/-- A Hearth's next word fetched and issued; a failure of the fetch is one of the sequencer. -/
def Core.issueNext (c : Core) (h : Nat) : Core :=
  match (nextWord h).run c with
  | .ok (some w) c => if c.wordReady h w then c.issueWord h w else c
  | .ok none c => c.lessonFault h 5 { cls := 0, status := stFormat }
  | .error f c => c.lessonFault h 5 f

/-- A queued operation of a Hearth run with what it latched at its issue; what an LDX loads goes to the present registers (R125). -/
def Core.runQueued (c : Core) (h : Nat) (i : Issued) : Core :=
  let now := c.hearth h
  let c1 := c.modHearth h (fun x =>
    { x.seenBy i with waitq := x.waitq.filter (fun j => j.seq != i.seq), regs := if isLdx i.op then x.regs else i.regs })
  let d := c1.perform h (slotOf i.op) (fun _ => c) (do
    senseWord (.queue (qUnit h (slotOf i.op))) 0
    slotBody h i.op)
  if d == c then c
  else c.fenced h (fun p => decide (i.seq ≤ p.upTo)) (d.modHearth h (fun x =>
    let x := { x with chains := now.chains, bindings := now.bindings, vlen := now.vlen, seq := now.seq }
    if isLdx i.op then x.endDueLoop else { x with regs := now.regs }))

/-- The queued operations of a Hearth that may start, each the oldest of its unit (R124). -/
def Core.startables (c : Core) (h : Nat) : List Issued :=
  let x := c.hearth h
  if !x.running then [] else x.waitq.filter (c.startable h)

/-! Lent items (R440 to R443). -/

/-- The oldest item on the lendable ring of a Hearth's other tenant: its own die first (R441), with the segment's key. -/
def Core.lentNext (c : Core) (h : Nat) : Option (Nat × LendPost) :=
  let ring := if c.hearthTenant h == 0 then 3 else 1
  let find (d : Nat) : Option (Nat × LendPost) := match (kvGet c.tt.lend (d * 4 + ring)).getD [] with | p :: _ => some (d * 4 + ring, p) | [] => none
  match find (h / 44) with
  | some r => some r
  | none => find (1 - h / 44)

/-- Whether an own OP_RUN that names the Hearth has started or waits to start (R441). -/
def Core.runWaits (c : Core) (h : Nat) : Bool :=
  [0, 1].any (fun q => (c.port q).rings.any (fun r =>
    r.2.fetched.any (fun f => f.opcode == 3 && !f.d.lend && ((c.targets (if c.twoTenant then q else 0) f.d.path).getD []).contains h) ||
      r.2.started.any (fun t => t.opcode == 3 && t.hearths.contains h)))

/-- Whether a Hearth can take a lent item now (R441). -/
def Core.lentReady (c : Core) (h : Nat) : Bool :=
  c.present h && c.lending h && !(c.hearth h).running && (c.hearth h).lentRun.isNone && !c.runWaits h && (c.lentNext h).isSome

/-- A run of a card's step noted for R459; the first one of a job tells the picker the job's first step (R68; entry 15). -/
def Core.noteCard (c : Core) (h : Nat) : Core :=
  let p := c.picker
  { c with snap := { c.snap with cardStep := max c.snap.cardStep ((c.hearth h).step + 1) },
           picker := if p.stepKnown then p else { p with pickStep := (c.hearth h).step, stepKnown := true } }

/-- A lent item with its image and card in hand: image at 0xE000 and card in bank 1, validated, and started (R441, R442); held while a pick
of its card is (R69). -/
def lentStart (h : Nat) (o : Origin) (image card : List Byte) : OpM Unit := do
  let c ← get
  match c.cardPicked ({ c.hearth h with card1 := card } : Hearth).card with
  | none => throw { cls := clsHold, status := stOk }
  | some picks => do
    let ok ← loadImage [h] 0xE000 image
    update (fun c => c.modHearth h (fun x => { x with card1 := card }))
    let g ← cardOk h picks
    update (fun c => c.modHearth h (fun x => x.resolved picks))
    let c ← get
    if ok && g && decide (0xE000 ≤ 2 * (c.hearth h).cardField 319 304) then
      update (fun c => (c.modHearth h (fun x => x.started 0 1 ((c.logicalOf h).getD 0))).noteCard h)
    else update (fun c => (c.clearLent h).complete o stFormat 0)

/-- The card of a lent item read (Table 15-9), with the borrower's tenant and key (R441). -/
def lentCard (h : Nat) (o : Origin) (record : Nat) (image : List Byte) : OpM Unit := do
  let c ← get
  match ← readFor o (bit record 289) true (c.originTenant o) (bits record 223 192) (.lendCard o h record image) (bits record 191 128) 512 with
  | some card => lentStart h o image card
  | none => pure ()

/-- A lent item taken off its ring: its image is read (R441). -/
def lentTaken (h key : Nat) (p : LendPost) : OpM Unit := do
  senseWord (.queue (qLend key)) 0
  let c ← get
  let n := p.record
  let l : LentItem := { origin := p.origin, irq := p.irq, budget := bits n 271 240, slots := bits n 287 272 }
  let c := { c with tt := { c.tt with lend := kvPut c.tt.lend key (((kvGet c.tt.lend key).getD []).drop 1) } }
  set (c.modHearth h (fun x => { x with lentRun := some l }))
  let o := p.origin
  match ← readFor o (bit n 288) true (c.originTenant o) (bits n 127 96) (.lendImage o h n) (bits n 63 0) (bits n 239 224) with
  | some image => lentCard h o n image
  | none => pure ()

/-- Work that brings a lent item to its start: held back, the item stays on its ring; a failure frees the Hearth and reaches the borrower
only (R442). -/
def Core.runLend (c0 : Core) (h : Nat) (o : Origin) (op : OpM Unit) : Core :=
  match op.run c0 with
  | .ok _ c => c
  | .error f c =>
    if f.cls == clsHold then c0
    else
      let c := c.clearLent h
      if f.cls == 0 || f.cls == clsKey then c.complete o f.status 0 else c.raiseFor o (f.filled clsLesson (hearthPath h) 5)

/-- A Hearth takes the oldest lent item. -/
def Core.takeLent (c : Core) (h : Nat) : Core :=
  match c.lentNext h with
  | some (key, p) => c.runLend h p.origin (lentTaken h key p)
  | none => c

/-- LENT_ITEM_TAKE; not enabled before R441 allows it (entry 6). -/
def execLentItemTake (h : Nat) (s : State) : Host.Outcome State Fault Refusal :=
  .next { s with core := s.core.gated (fun c => if c.lentReady h then c.takeLent h else c) }

/-- LENT_BUDGET_EXPIRY: a lent item has used twice its budget (R442). -/
def execLentBudgetExpiry (h : Nat) (s : State) : Host.Outcome State Fault Refusal :=
  .next { s with core := s.core.gated (fun c => if (c.hearth h).running then c.endLent h stBudget else c) }

/-! Commands of the Y and C slots. -/

/-- WAIT. -/
def execWait (h : Nat) (f : TallyF) (s : State) : Host.Outcome State Fault Refusal :=
  .next { s with core := s.core.gated (fun c => c.issueY h (.wait f)) }

/-- WAIT_SATISFIED: the head wait of a Hearth completes if its Tally and its turn allow it (R312). -/
def execWaitSatisfied (h : Nat) (s : State) : Host.Outcome State Fault Refusal :=
  .next { s with core := s.core.gated (fun c =>
    match (c.hearth h).yq with
    | .wait _ _ _ :: _ => c.perform h 4 (fun c => c) (yPump h 5)
    | _ => c) }

/-- SIGNAL. -/
def execSignal (h : Nat) (f : TallyF) (s : State) : Host.Outcome State Fault Refusal :=
  .next { s with core := s.core.gated (fun c => c.issueY h (.signal f)) }

/-- SUB. -/
def execSub (h : Nat) (f : TallyF) (s : State) : Host.Outcome State Fault Refusal :=
  .next { s with core := s.core.gated (fun c => c.issueY h (.sub f)) }

/-- ROLL. -/
def execRoll (h : Nat) (f : RollF) (s : State) : Host.Outcome State Fault Refusal :=
  .next { s with core := s.core.gated (fun c => c.issueY h (.roll f)) }

/-- FENCE. -/
def execFence (h : Nat) (s : State) : Host.Outcome State Fault Refusal :=
  .next { s with core := s.core.gated (fun c => c.issueY h .fence) }

/-- A control operation issued by its own command. -/
def Core.issueC (c : Core) (h : Nat) (op : SlotOp) : Core :=
  let x := c.hearth h
  if x.running && x.ended.isNone && !x.issueHeld then c.perform h 5 (fun c => c) (slotBody h op) else c

/-- LOOP. -/
def execLoop (h : Nat) (f : LoopF) (s : State) : Host.Outcome State Fault Refusal :=
  .next { s with core := s.core.gated (fun c => c.issueC h (.loop f)) }

/-- BREAK. -/
def execBrk (h : Nat) (f : BranchF) (s : State) : Host.Outcome State Fault Refusal :=
  .next { s with core := s.core.gated (fun c => c.issueC h (.brk f)) }

/-- JUMP. -/
def execJump (h : Nat) (f : BranchF) (s : State) : Host.Outcome State Fault Refusal :=
  .next { s with core := s.core.gated (fun c => c.issueC h (.jump f)) }

/-- ALU. -/
def execAlu (h : Nat) (f : AluF) (s : State) : Host.Outcome State Fault Refusal :=
  .next { s with core := s.core.gated (fun c => c.issueC h (.alu f)) }

/-- LI. -/
def execLi (h : Nat) (d imm : Nat) (s : State) : Host.Outcome State Fault Refusal :=
  .next { s with core := s.core.gated (fun c => c.issueC h (.li d imm)) }

/-- LDX. -/
def execLdx (h : Nat) (d off : Nat) (s : State) : Host.Outcome State Fault Refusal :=
  .next { s with core := s.core.gated (fun c => c.issue h (.ldx d off) (ldxOp h d off)) }

/-- TAKE. -/
def execTake (h : Nat) (ring : Nat) (s : State) : Host.Outcome State Fault Refusal :=
  .next { s with core := s.core.gated (fun c => c.issueC h (.take ring)) }

/-- TIMETABLE_ITEM_TAKEN: a waiting TAKE is tried again (R123). -/
def execTimetableItemTaken (h : Nat) (s : State) : Host.Outcome State Fault Refusal :=
  .next { s with core := s.core.gated (fun c =>
    match (c.hearth h).taking with
    | some r => c.perform h 5 (fun c => c) (do let _ ← tryTake h r)
    | none => c) }

end Sys2Proof.Machine
end

