-- ==== Sys2Proof/Machine/Snap.lean ====
section
/-!
DEFINITION. Sys2Proof/Machine/Snap.lean: the snapshot engine (R457 to R464): records, areas, the state block, TAKE and RESTORE.
-/

namespace Sys2Proof.Machine

/-- A snapshot record (Table 16-5). -/
structure SnapRec where
  key : Nat
  ranges : Nat
  count : Nat
  areaB : Nat
  areaA : Nat
  step : Nat
  ctx2 : Nat
  ctx1 : Nat
  restore : Bool
  ok : Bool
  deriving DecidableEq, Repr

/-- A snapshot record read from its 512 bits. An area is a 4 KiB aligned address of the stacked-memory row. -/
def snapRecOf (n : Nat) : SnapRec :=
  let area (a : Nat) : Bool := a % 4096 == 0 && decide (a < stackedEnd)
  { key := bits n 351 320, ranges := bits n 319 256, count := bits n 239 224, areaB := bits n 223 160, areaA := bits n 159 96,
    step := bits n 95 64, ctx2 := bits n 63 56, ctx1 := bits n 55 48, restore := bit n 0,
    ok := bits n 511 352 == 0 && bits n 255 240 == 0 && bits n 47 1 == 0 && area (bits n 159 96) && area (bits n 223 160) }

def Core.snapRec (c : Core) : SnapRec := snapRecOf c.snap.record
def Core.modSnap (c : Core) (f : Snap → Snap) : Core := { c with snap := f c.snap }

/-- The snapshot engine as the maker of an access, with the record's key (R457). -/
def SnapRec.who (r : SnapRec) : Who := { actor := .block, key := r.key }

/-- An area's header (R458): step, whether committed, turn, bytes that follow. -/
structure AreaHead where
  area : Nat
  step : Nat
  committed : Bool
  turn : Nat
  bytes : Nat
  deriving DecidableEq, Repr

/-- The header of an area read. -/
def readArea (r : SnapRec) (a : Nat) : OpM AreaHead := do
  let b ← readLocal r.who a 16
  let n := leNat b
  pure { area := a, step := bits n 31 0, committed := bit n 32, turn := bits n 41 40, bytes := bits n 127 64 }

/-- The header of an area written. -/
def writeArea (r : SnapRec) (h : AreaHead) : OpM Unit :=
  writeLocal r.who h.area (leBytes 4096 (place h.step 32 0 + place (b2n h.committed) 1 32 + place h.turn 2 40 + place h.bytes 64 64))

/-- The committed areas, the highest step first. -/
def committedAreas (r : SnapRec) : OpM (List AreaHead) := do
  let a ← readArea r r.areaA
  let b ← readArea r r.areaB
  pure (sortBy (fun x y => decide (y.step < x.step)) ([a, b].filter (fun h => h.committed)))

/-- The ranges of a record: address and bytes. -/
def snapRanges (r : SnapRec) : OpM (List (Nat × Nat)) := do
  let b ← readLocal blockWho r.ranges (16 * r.count)
  pure ((unpackCodes 128 r.count 0 b).map (fun n => (bits n 63 0, bits n 127 64)))

/-! The state block (R458; its layout is the model's own, entry 38). -/

/-- One picker entry: its settings in force, whether it holds anything, its picks and its history (R68). -/
def pickBlock (c : Core) (n : Nat) : List Byte :=
  let e := c.pickEntry n
  leBytes 64 (place (c.inForce (rPick n)) 32 0 + place (b2n (kvGet c.picker.entries n).isSome) 1 32 + place e.history.length 8 40
    + place e.pickNow.1 4 48 + place e.pickNow.2 8 56 + place e.pickPrev.1 4 64 + place e.pickPrev.2 8 72
    + packNat 16 (e.history.map (fun p => p.1 % 256 + p.2 % 256 * 256)) <<< 128)

/-- The entries of the picker table restored from a block. -/
def restorePick (c : Core) (n : Nat) (b : List Byte) : Core :=
  let v := leNat b
  let e : PickEntry :=
    { history := (List.range (bits v 47 40)).map (fun i => (bits v (16 * i + 135) (16 * i + 128), bits v (16 * i + 143) (16 * i + 136))),
      pickNow := (bits v 51 48, bits v 63 56), pickPrev := (bits v 67 64, bits v 79 72) }
  let o := rPick n
  { c with latched := spPut (regReset o) c.latched o (bits v 31 0),
           picker := { c.picker with entries := if bit v 32 then kvPut c.picker.entries n e else kvDel c.picker.entries n } }

/-- The load records of every layer entry (R226): address and bytes. -/
def Core.loadRecords (c : Core) : List (Nat × Nat) :=
  ((List.range 1024).map c.layer).filterMap (fun l => if l.experts == 0 then none else some (l.counterBase, 16 * l.experts))

/-- Bytes of the state block before its shard records: head, picker table, active seating-plan bank. -/
def Core.stateFixed (c : Core) : Nat := 64 + 4096 * 64 + c.inForce rPlanBankBytes

/-- The state block: picker table, owned shard records, plan bank and revision, load records, last step. -/
def stateBlock : OpM (List Byte) := do
  let c ← get
  let shards ← ownedShards
  let recs ← shards.mapM (fun i => do
    let b ← readLocal blockWho (c.shardAt i) 64
    pure (leBytes 16 i ++ b))
  let loads ← c.loadRecords.mapM (fun p => readLocal blockWho p.1 p.2)
  let b := c.bellows
  let plan ← readLocal blockWho (c.planBank b.activeBank) (c.inForce rPlanBankBytes)
  let last := c.crucible.lastDone
  let head := leBytes 64 (place c.picker.pickStep 32 0 + place (last.getD 0) 32 32 + place (b2n last.isSome) 1 64 + place b.activeBank 1 72
    + place b.activeRev 32 96 + place shards.length 32 128)
  pure (head ++ (List.range 4096).flatMap (pickBlock c) ++ plan ++ recs.flatten ++ loads.flatten)

/-- The bytes of a state block that an area holds, by its first 64 bytes. -/
def Core.stateBytes (c : Core) (head : Nat) : Nat := c.stateFixed + 80 * bits head 159 128 + (c.loadRecords.map (·.2)).foldl (· + ·) 0

/-- A state block put back (R462): picker table, plan bank and revision, last step, shard records, load records. -/
def restoreState (b : List Byte) : OpM Unit := do
  let h := leNat (b.take 64)
  let n := bits h 159 128
  update (fun c =>
    let c := ((List.range 4096).foldl (fun c i => restorePick c i ((b.drop (64 + 64 * i)).take 64)) c)
    let c := { c with picker := { c.picker with pickStep := bits h 31 0, stepKnown := true } }
    let c := c.modBellows (fun x => { x with activeBank := bits h 72 72, activeRev := bits h 127 96, lastEpoch := 0 })
    let last := if bit h 64 then some (bits h 63 32) else none
    c.modCru (fun x => { x with lastRun := last, lastDone := last, nonFinite := [], restored := last }))
  let c ← get
  let fixed := c.stateFixed
  writeLocal blockWho (c.planBank c.bellows.activeBank) ((b.drop (64 + 4096 * 64)).take (c.inForce rPlanBankBytes))
  (List.range n).forM (fun i => do
    let r := (b.drop (fixed + 80 * i)).take 80
    let c ← get
    writeLocal blockWho (c.shardAt (leNat (r.take 16))) (r.drop 16))
  let c ← get
  let rec go : List (Nat × Nat) → List Byte → OpM Unit
    | [], _ => pure ()
    | p :: rest, d => do
      writeLocal blockWho p.1 (d.take p.2)
      go rest (d.drop p.2)
  go c.loadRecords (b.drop (fixed + 80 * n))

/-- Where each range lies in an area whose state block has `n` bytes: offsets, and the end (R458). -/
def rangeOffsets (n : Nat) : List (Nat × Nat) → List Nat × Nat
  | [] => ([], 4096 + n)
  | (_, k) :: rest =>
    let o := roundUp (4096 + n) 4096
    let (l, e) := rangeOffsets (o + k - 4096) rest
    (o :: l, e)

/-! TAKE and RESTORE. -/

/-- The payload of 64 bytes that holds fields from byte 0 on. -/
def snapPayload (d : List Byte) : List Byte := d ++ List.replicate (64 - d.length) 0#8

/-- A 64-bit value and its complement, as 16 bytes. -/
def withComplement (v : Nat) : List Byte := leBytes 8 v ++ leBytes 8 (2 ^ 64 - 1 - v % 2 ^ 64)

/-- Whether 16 bytes hold a value and its complement. -/
def complements (b : List Byte) : Bool := leNat (b.take 8) + leNat ((b.drop 8).take 8) == 2 ^ 64 - 1

/-- The engine arrives at a context with its payload, MAX reduction (R459, R461, Table 16-5). -/
def snapArrive (ctx : Nat) (d : List Byte) : OpM Unit := do
  let c ← get
  let _ ← rollArriveAs (match c.snap.origin with | some o => c.originTenant o | none => 0) ctx .snapshot 2 none (snapPayload d) 0

/-- The snapshot operation ends; its descriptor completes. -/
def snapComplete (status : Nat) : OpM Unit := update (fun c =>
  let o := c.snap.origin
  let c := c.modSnap (fun x => { x with phase := 0, origin := none })
  match o with
  | some o => c.complete o status 0
  | none => c)

/-- The arrival at ctx2 of a device whose drain, write-out or copy back failed (Table 16-6 step 4, R462). -/
def Core.snapFailed (c : Core) : Core :=
  if c.snap.phase == 2 then
    match (snapArrive c.snapRec.ctx2 (if c.snap.restore then 1#8 :: List.replicate 7 0#8 ++ withComplement c.snap.step else [1#8])).run c with
    | .ok _ d => d
    | .error _ d => d
  else c

/-- A failure of the snapshot engine: a SNAPSHOT fault of the context it is at (R460, Table 16-3), which any access of a write-out that fails is; the rules that name no status leave ST_OK
in the record, as Table 16-2 does for other classes (entry 39). -/
def Core.runSnap (c : Core) (op : OpM Unit) : Core :=
  match op.run c with
  | .ok _ c => c
  | .error f c =>
    let s := c.snap
    let r := snapRecOf s.record
    let g : FaultReq := { cls := clsSnapshot, status := f.status, unit := if s.phase == 3 then r.ctx2 else r.ctx1, detail := b2n s.restore,
                          addr := s.recAddr }
    let written := s.phase == 2 && !s.restore
    let f := if written || f.cls == 0 || f.cls == clsAlways || f.cls == clsKey || f.cls == clsSnapshot then g else f
    let c := c.snapFailed.modSnap (fun x => { x with phase := 0, origin := none })
    match s.origin with
    | some o => c.raiseFor o f
    | none => c.raise f

/-- A SNAPSHOT fault whose rule names no status. -/
def snapFault {α : Type} : OpM α := throw { cls := clsSnapshot, status := stOk }

/-- A TAKE accepted or refused (R459, Table 16-6 step 1). -/
def takeStart (o : Origin) (n addr : Nat) (r : SnapRec) : OpM Unit := do
  let c ← get
  let done ← committedAreas r
  let early := c.crucible.lastDone != some r.step || decide (r.step + 1 < c.snap.cardStep)
  let low := match done with | h :: _ => decide (r.step ≤ h.step) | [] => false
  if early || low then set (c.complete o stFormat 0)
  else do
    let area := match done with
      | [] => r.areaA
      | [h] => if h.area == r.areaA then r.areaB else r.areaA
      | _ :: h :: _ => h.area
    let turn := match done with | h :: _ => (h.turn + 1) % 3 | [] => 1
    set (c.modSnap (fun x => { x with phase := 1, restore := false, record := n, recAddr := addr, origin := some o, area := area, turn := turn,
                                      step := r.step }))
    snapArrive r.ctx1 (withComplement r.step)
    let old ← readArea r area
    writeArea r { old with committed := false }

/-- A RESTORE accepted: the turn of the highest committed area goes to ctx1 (R461). -/
def restoreStart (o : Origin) (n addr : Nat) (r : SnapRec) : OpM Unit := do
  let c ← get
  if c.mgt.jobState != .restarted then set (c.complete o stFormat 0)
  else do
    let done ← committedAreas r
    set (c.modSnap (fun x => { x with phase := 1, restore := true, record := n, recAddr := addr, origin := some o }))
    snapArrive r.ctx1 (match done with | h :: _ => List.replicate h.turn 0#8 ++ [1#8] | [] => [])

/-- A snapshot record taken in (R457, R459, R461); one that finds the engine at work waits for it (entry 81). -/
def snapArrived (o : Origin) (addr : Nat) (data : List Byte) : OpM Unit := do
  let c ← get
  let n := leNat data
  let r := snapRecOf n
  if !r.ok then set (c.complete o stFormat 0)
  else if c.snap.phase != 0 then set (c.modSnap (fun x => { x with waiting := x.waiting ++ [(o, addr, data)] }))
  else if r.restore then restoreStart o n addr r
  else takeStart o n addr r

/-- What the doorbell page shows of a snapshot: bytes written over bytes to be written (R435). -/
def snapProgress (done total : Nat) : OpM Unit := update (fun c =>
  match c.snap.origin with
  | some o => c.modStarted o (fun t => { t with done := done, total := total })
  | none => c)

/-- The write-out and the arrival at ctx2 (Table 16-6 steps 3 and 4). -/
def writeOut : OpM Unit := do
  let c ← get
  let r := c.snapRec
  let st ← stateBlock
  let ranges ← snapRanges r
  let (offs, fin) := rangeOffsets st.length ranges
  snapProgress 0 fin
  writeLocal r.who (c.snap.area + 4096) st
  (ranges.zip offs).forM (fun p => do
    let d ← readLocal r.who p.1.1 p.1.2
    writeLocal r.who (c.snap.area + p.2) d)
  writeArea r { area := c.snap.area, step := r.step, committed := false, turn := c.snap.turn, bytes := fin - 4096 }
  update (fun c => c.modSnap (fun x => { x with phase := 3 }))
  snapProgress fin fin
  snapArrive r.ctx2 [0#8]

/-- Whether the drain of a TAKE is done: every remote write delivered and no batch live (Table 16-6 step 2). -/
def Core.snapDrained (c : Core) : Bool :=
  c.fabric.out.all (fun r => r.frame.txn.op == opLoad || r.frame.txn.op == opPull) && c.fabric.atomHeld.isEmpty && c.bellows.batches.isEmpty

/-- The drain ends as soon as it can. -/
def snapDrainTry : OpM Unit := do
  let c ← get
  if c.snap.phase == 2 && c.snapDrained then writeOut else pure ()

/-- The restore turn that a result names: its one turn, or the earlier of two that follow each other (R461). -/
def restoreTurn (p : List Byte) : Option Nat :=
  match (List.range 3).filter (fun t => p.getD t 0#8 != 0#8) with
  | [t] => some t
  | [0, 1] => some 0
  | [1, 2] => some 1
  | [0, 2] => some 2
  | _ => none

/-- The copy back of a RESTORE and the arrival at ctx2 (R462). -/
def copyBack (p : List Byte) : OpM Unit := do
  let c ← get
  let r := c.snapRec
  match restoreTurn p with
  | none => snapFault
  | some t => do
    let done ← committedAreas r
    match done.find? (fun h => h.turn == t) with
    | none => do
      update (fun c => { c with mgt := { c.mgt with overLimit := true } })
      snapFault
    | some h => do
      update (fun c => c.modSnap (fun x => { x with phase := 2, area := h.area, step := h.step }))
      let head ← readLocal r.who (h.area + 4096) 64
      let n := c.stateBytes (leNat head)
      let st ← readLocal r.who (h.area + 4096) n
      let ranges ← snapRanges r
      let (offs, fin) := rangeOffsets n ranges
      snapProgress 0 fin
      (ranges.zip offs).forM (fun q => do
        let d ← readLocal r.who (h.area + q.2) q.1.2
        writeLocal r.who q.1.1 d)
      restoreState st
      match done.find? (fun g => g.area != h.area && decide (h.step < g.step)) with
      | some g => writeArea r { g with committed := false }
      | none => pure ()
      update (fun c => c.modSnap (fun x => { x with phase := 3 }))
      snapProgress fin fin
      snapArrive r.ctx2 (List.replicate 8 0#8 ++ withComplement h.step)

/-- The result of ctx1 (R460, Table 16-6 step 2). -/
def snapFirst (p : List Byte) : OpM Unit := do
  let c ← get
  if c.snap.restore then copyBack p
  else if !complements p then snapFault
  else do
    update (fun c => c.modSnap (fun x => { x with phase := 2 }))
    snapDrainTry

/-- The result of ctx2 (Table 16-6 step 5, R460, R462). -/
def snapSecond (p : List Byte) : OpM Unit := do
  let c ← get
  let r := c.snapRec
  if p.getD 0 0#8 != 0#8 || (c.snap.restore && !complements (p.drop 8)) then snapFault
  else if c.snap.restore then do
    update (fun c => { c with mgt := { c.mgt with jobState := .running } })
    snapComplete stOk
  else do
    let h ← readArea r c.snap.area
    writeArea r { h with committed := true }
    update (fun c => { c with mgt := { c.mgt with snapLast := r.step, restartCount := 0 } })
    snapComplete stOk

/-- A result reaches the snapshot engine. -/
def snapRolled (p : List Byte) : OpM Unit := do
  let c ← get
  if c.snap.phase == 1 then snapFirst p
  else if c.snap.phase == 3 then snapSecond p
  else pure ()

/-- SNAPSHOT_DRAIN_TIMEOUT: a drain that has not ended in 64 µs (R460). -/
def execSnapshotDrainTimeout (s : State) : Host.Outcome State Fault Refusal :=
  .next { s with core := s.core.gated (fun c => if c.snap.phase == 2 then c.runSnap (failWith stTimeout) else c) }

end Sys2Proof.Machine
end

