-- ==== Sys2Proof/Machine/Host.lean ====
section
/-!
DEFINITION. Sys2Proof/Machine/Host.lean: descriptors: their checks (R430), order of start (R431) and effects (Table 15-6), rings and
doorbells (R427, R428, R435), loss of a port (R437), host reads.
-/

namespace Sys2Proof.Machine

/-! Rings. -/

/-- Whether a ring fetches: enabled, without error, its port and itself not lost (R427, R428, R437). -/
def Core.fetches (c : Core) (q r : Nat) : Bool :=
  let x := c.ring q r
  x.enabled && !x.error && !x.lost && !(c.port q).lost

/-- The idle bit of a doorbell page: disabled, and every started descriptor complete (R427). -/
def Ring.idle (x : Ring) : Bool := (!x.enabled || x.error || x.lost) && x.started.isEmpty

/-- The status word of a doorbell page (Table 15-3). -/
def ringStatus (c : Core) (q r : Nat) : Nat :=
  let x := c.ring q r
  b2n x.idle + place (b2n x.lost) 1 1 + place (b2n x.error) 1 2 + place x.fetchHead 16 16

/-- Opcodes whose progress the doorbell page shows (Table 15-7). -/
def longOpcode (op : Nat) : Bool := op == 1 || op == 4 || op == 5 || op == 10 || op == 11

/-- The progress word of a doorbell page (Table 15-7). -/
def ringProgress (c : Core) (q r : Nat) : Nat :=
  match (c.ring q r).started.find? (fun t => longOpcode t.opcode) with
  | none => 0
  | some t => place t.slot 16 0 + place (if t.total == 0 then 0 else min 1000 (t.done * 1000 / t.total)) 10 32 + 1 <<< 48

/-- Fetch transfers of a ring. -/
def isFetch (q r : Nat) (t : Transfer) : Bool :=
  match t.cont with
  | .fetchDesc p s _ => p == q && s == r
  | _ => false

/-- A ring's fetching stopped: fetches under way and descriptors that have not started are dropped (R427, R437). -/
def Core.stopFetch (c : Core) (q r : Nat) : Core :=
  { c.modRing q r (fun x => { x with fetched := [] }) with
    fabric := { c.fabric with xfers := c.fabric.xfers.filter (fun t => !isFetch q r t) } }

/-- The next announced descriptor fetched, one at a time and in ring order (R431). -/
def Core.fetchNext (c : Core) (q r : Nat) : Core :=
  let x := c.ring q r
  if !c.fetches q r || x.fetchHead == x.sqTail || c.fabric.xfers.any (isFetch q r) then c
  else match (readHost .block q (.fetchDesc q r x.fetchHead) (c.reg (rRing q r 0) + 64 * x.fetchHead) 64).run c with
    | .ok _ c => c
    | .error _ c => c

/-- A ring error (R428): the error bit, the ring stopped, PCI_RING_ERR. -/
def Core.ringError (c : Core) (q r : Nat) : Core :=
  ((c.modRing q r (fun x => { x with error := true, enabled := false })).stopFetch q r).bump (kPci q 0)

/-! Checks (R430). -/

/-- Whether every operand word that Table 15-6 does not assign to an opcode is 0. -/
def descWordsOk (d : Desc) (op : Nat) : Bool :=
  let z (l : List Nat) : Bool := l.all (· == 0)
  match op with
  | 1 => z [d.b, d.kb, d.q]
  | 2 => z [d.b, d.l, d.kb, d.p, d.q]
  | 3 => z [d.b, d.l, d.kb, d.p, d.q] && (d.lend || z [d.a, d.ka])
  | 4 => z [d.p, d.q]
  | 5 => z [d.a, d.ka, d.q]
  | 6 => z [d.a, d.b, d.l, d.ka, d.kb]
  | 7 => z [d.b, d.l, d.kb, d.q]
  | 11 => z [d.b, d.ka, d.kb, d.p, d.q]
  | _ => z [d.b, d.l, d.ka, d.kb, d.p, d.q]

/-- The operand rules of Table 15-6; bits of P that the table does not name are ignored (entry 40). -/
def descRulesOk (d : Desc) (op : Nat) : Bool :=
  match op with
  | 1 => d.l != 0 && d.l % 2 == 0 && d.p % 2 ^ 16 % 64 == 0 && decide (d.p % 2 ^ 16 + d.l ≤ 65536)
  | 5 => d.b % 8 == 0 && d.l != 0 && d.l % 8 == 0
  | 6 => (bits d.p 63 56 == 1 || bits d.p 63 56 == 3) && bits d.p 49 48 != 3 && decide (bits d.p 47 32 < scopeSize (bits d.p 49 48))
  | _ => true

/-- Whether a descriptor is refused before it does anything (R430, R455, R456). -/
def Core.descRefused (c : Core) (q op : Nat) (d : Desc) : Bool :=
  op == 0 || decide (11 < op) || d.rsv != 0 || (d.lend && op != 3) || !descWordsOk d op || !descRulesOk d op || ((d.aHost || d.bHost) && (c.port q).lost) ||
    (c.mgt.jobState == .restarted && (op == 3 || op == 8 || op == 9)) ||
    (c.mgt.jobState == .stopped && (c.mgt.torn || c.mgt.overLimit) && op != 4 && op != 5)

/-! Order of start (R431, R136, R138). -/

/-- The Hearths that a load, a card or an own run names. -/
def Core.descHearths (c : Core) (q : Nat) (f : Fetched) : List Nat :=
  if (f.opcode == 1 || f.opcode == 2 || f.opcode == 3) && !f.d.lend then (c.targets (if c.twoTenant then q else 0) f.d.path).getD [] else []

/-- The Hearths whose Tallies, or whose Smithies' Tallies, an OP_SIGNAL names by a unit path. -/
def Core.signalHearths (c : Core) (q : Nat) (f : Fetched) : List Nat :=
  if f.opcode == 6 && bits f.d.p 49 48 != 2 then (c.targets (if c.twoTenant then q else 0) f.d.path).getD [] else []

/-- Whether no other ring claims a Hearth (R136). -/
def Core.unclaimed (c : Core) (q r h : Nat) : Bool := match (c.hearth h).claim with | some k => k == (q, r) | none => true

/-- Whether R136 and R138 let a descriptor of a ring use a Hearth: no other ring's claim, no run of its own, and for a run no lent item
and no pick that is still held (R69), which a run that is refused does not read. -/
def Core.hearthFree (c : Core) (q r op : Nat) (refused : Bool) (h : Nat) : Bool :=
  let x := c.hearth h
  c.unclaimed q r h && (!x.running || x.lentRun.isSome) &&
    (op != 3 || (x.lentRun.isNone && (refused || (c.cardPicked x.card).isSome)))

/-- Whether a fetched descriptor at the head of its ring may start (R431). -/
def Core.canStart (c : Core) (q r : Nat) (f : Fetched) : Bool :=
  let x := c.ring q r
  let hs := c.descHearths q f
  !x.lost && !(c.port q).lost && decide (x.started.length ≤ 31) && (!f.d.barrier || x.started.isEmpty) && !x.started.any (fun t => t.barrier) &&
    hs.all (fun h => c.hearthFree q r f.opcode (c.descRefused q f.opcode f.d) h && !x.started.any (fun t => t.hearths.contains h)) &&
    (c.signalHearths q f).all (c.unclaimed q r) &&
    (f.opcode != 9 || (c.crucible.phase == .idle && !c.ports.any (fun p => p.2.rings.any (fun y => y.2.started.any (fun t => t.opcode == 9)))))

/-! Ends of descriptors. -/

/-- Whether writes or signals of a descriptor lack their delivery notice, or wait for the intake (R434, R198). -/
def Core.descWaits (c : Core) (o : Origin) : Bool :=
  c.bellows.stalled.any (fun x => x.1 == .desc o) ||
  (c.fabric.out ++ c.fabric.atomHeld).any (fun r => r.actor == .desc o && (r.use == .store || r.use == .signal))

/-- A descriptor done with its own work: it completes once everything it wrote is visible (R434). -/
def Core.descDone (c : Core) (o : Origin) (status : Nat) : Core :=
  if c.descWaits o then c.modStarted o (fun t => { t with awaited := 1, status := status }) else c.complete o status 0

/-- A delivery notice of a descriptor has come: it completes if it waited for it and was the last (R434). -/
def Core.descDelivered (c : Core) (o : Origin) : Core :=
  match (c.ring o.port o.ring).started.find? (fun t => t.slot == o.slot) with
  | some t => if t.awaited == 1 && !c.descWaits o then c.complete o t.status 0 else c
  | none => c

/-- A write of a descriptor was refused: it completes with the first such status once every other one has its notice (R400, R434). -/
def Core.descRefusal (c : Core) (o : Origin) (status : Nat) : Core :=
  (c.modStarted o (fun t => { t with awaited := 1, status := if t.status == stOk then status else t.status })).descDelivered o

/-- Who a descriptor is, with a key. -/
def Core.descWho (c : Core) (o : Origin) (key : Nat) : Who := { actor := .desc o, tenant := c.originTenant o, key := key }

/-! Effects (Table 15-6). -/

/-- OP_LESSON_LOAD's image in hand (R134, R135). -/
def lessonArrived (o : Origin) (d : Desc) (data : List Byte) : OpM Unit := do
  let c ← get
  let ok ← loadImage ((c.targets (c.originTenant o) d.path).getD []) (d.p % 2 ^ 16) data
  update (fun c => (c.modStarted o (fun t => { t with done := d.l })).complete o (if ok then stOk else stFormat) 0)

/-- OP_CARD's card in hand (R140). -/
def cardArrived (o : Origin) (d : Desc) (data : List Byte) : OpM Unit :=
  update (fun c => (((c.targets (c.originTenant o) d.path).getD []).foldl (fun c h => c.modHearth h (fun x => { x with card0 := data })) c).complete o stOk 0)

/-- A ring's claim on Hearths (R136). -/
def Core.claim (c : Core) (o : Origin) (hs : List Nat) : Core :=
  hs.foldl (fun c h => c.modHearth h (fun x => { x with claim := some (o.port, o.ring) })) c

/-- A unit path that names no present unit (R23). -/
def absentPath (o : Origin) : OpM Unit := update (fun c => (c.bump kAbsentUnit).complete o stUnitAbsent 0)

/-- OP_LESSON_LOAD (R134 to R137). -/
def lessonLoadOp (o : Origin) (d : Desc) : OpM Unit := do
  let c ← get
  match c.targets (c.originTenant o) d.path with
  | none => absentPath o
  | some hs =>
    if hs.any c.lending && decide (0xE000 < d.p % 2 ^ 16 + d.l) then set (c.complete o stFormat 0)
    else do
      set ((c.claim o hs).modStarted o (fun t => { t with total := d.l }))
      match ← readFor o d.aHost true (c.originTenant o) d.ka (.lesson o d) d.a d.l with
      | some b => lessonArrived o d b
      | none => pure ()

/-- OP_CARD (R136, R140). Its read is not among R403's keyed accesses of this device. -/
def cardOp (o : Origin) (d : Desc) : OpM Unit := do
  let c ← get
  match c.targets (c.originTenant o) d.path with
  | none => absentPath o
  | some hs => do
    set (c.claim o hs)
    match ← readFor o d.aHost false (c.originTenant o) d.ka (.card o d) d.a 512 with
    | some b => cardArrived o d b
    | none => pure ()

/-- One member of a run started at its card's entry (R104, R142). -/
def Core.startMember (c : Core) (o : Origin) (size rank h : Nat) : Core :=
  let picks := (c.cardPicked (c.hearth h).card).getD ([], [])
  (c.modHearth h (fun x => { (x.resolved picks).started rank size ((c.logicalOf h).getD 0) with runOf := some o })).noteCard h

/-- OP_RUN (R15, R21, R23, R141, R142): the cards of all members are checked, then all start, or none. A refused run is a completed one and
ends the ring's claim (R136). -/
def runOp (o : Origin) (d : Desc) : OpM Unit := do
  let c ← get
  match c.targets (c.originTenant o) d.path with
  | none => absentPath o
  | some hs => do
    let ok ← hs.mapM (fun h => cardOk h ((c.cardPicked (c.hearth h).card).getD ([], [])))
    let bad := ((hs.zip ok).filter (fun p => !p.2)).map (fun p => p.1)
    update (fun c =>
      if bad.isEmpty then ((hs.mapIdx (fun i h => (i, h))).foldl (fun c p => c.startMember o hs.length p.1 p.2) c)
      else ((bad.foldl (fun c h => c.bump (kHth h 3)) c).endClaims o.port o.ring hs).complete o stFormat 0)

/-- Whether a lend record is refused with ST_FORMAT (R440, Table 15-9). -/
def lendBad (n : Nat) : Bool :=
  bits n 511 290 != 0 || bits n 95 64 != 0 || bits n 271 240 == 0 || decide (100000 < bits n 271 240) || decide (1024 < bits n 287 272) ||
    decide (8192 < bits n 239 224) || bits n 239 224 % 2 != 0

/-- A lend record in hand: one item posted on the tenant's lendable ring, to the dies in turn (R440). -/
def lendArrived (o : Origin) (irq : Bool) (data : List Byte) : OpM Unit := do
  let c ← get
  let n := leNat data
  let tenant := c.originTenant o
  if lendBad n then set (c.complete o stFormat 0)
  else if !c.mgt.logical.any (fun h => c.hearthTenant h != tenant && c.lending h) then set (c.complete o stUnitAbsent 0)
  else
    let ring := 2 * tenant + 1
    let die := spGet 0 c.tt.lendNext ring
    let key := die * 4 + ring
    set ({ c with tt := { c.tt with lend := kvPut c.tt.lend key ((kvGet c.tt.lend key).getD [] ++ [({ origin := o, irq := irq, record := n } : LendPost)]),
                                    lendNext := kvPut c.tt.lendNext ring (1 - die) } }.bump (kTtPosted die ring))

/-- OP_RUN with lend (R440). -/
def runLendOp (o : Origin) (d : Desc) : OpM Unit := do
  let c ← get
  if !c.twoTenant then set (c.complete o stFormat 0)
  else
    match ← readFor o d.aHost false (c.originTenant o) d.ka (.lend o d) d.a 64 with
    | some b => lendArrived o d.irq b
    | none => pure ()

/-- Bytes written by a descriptor to B (Table 15-6): to its host, or anywhere (R399), on a channel: BULK for OP_COPY alone (Table 14-3). -/
def descWrite (o : Origin) (vc : Nat) (d : Desc) (data : List Byte) : OpM Unit := do
  let c ← get
  if d.bHost then set (c.hostWrite o.port d.b data)
  else storeTo (c.descWho o d.kb) vc d.b data
  update (fun c => (c.modStarted o (fun t => { t with done := d.l })).descDone o stOk)

/-- OP_COPY: all of A's bytes, then B's (entry 41). -/
def copyOp (o : Origin) (d : Desc) : OpM Unit := do
  let c ← get
  set (c.modStarted o (fun t => { t with total := d.l }))
  match ← readFor o d.aHost true (c.originTenant o) d.ka (.copy o d) d.a d.l with
  | some b => descWrite o vcBulk d b
  | none => pure ()

/-- The pattern of OP_FILL repeated over L bytes. -/
def fillBytes (d : Desc) : List Byte := (List.replicate (d.l / 8) (leBytes 8 d.p)).flatten

/-- OP_FILL. -/
def fillOp (o : Origin) (d : Desc) : OpM Unit := do
  update (fun c => c.modStarted o (fun t => { t with total := d.l }))
  descWrite o vcReq d (fillBytes d)

/-- A signal or subtract applied to each of a list of units; the others still count where one reaches OVER. -/
def tallyEach (sub : Bool) (scope i n : Nat) : List Nat → OpM Unit
  | [] => pure ()
  | u :: rest => do
    if sub then update (fun c => c.subTally scope u i n)
    else tryCatch (signalTally scope u i n) (fun f => do
      tallyEach sub scope i n rest
      throw f)
    tallyEach sub scope i n rest

/-- OP_SIGNAL's operands. -/
def descSigCount (d : Desc) : Nat := d.p % 2 ^ 32
def descSigIndex (d : Desc) : Nat := bits d.p 47 32
def descSigScope (d : Desc) : Nat := bits d.p 49 48
def descSigSub (d : Desc) : Bool := bits d.p 63 56 == 3
/-- The device that a fabric signal goes to: this one, unless remote is set. -/
def descSigDevice (d : Desc) (c : Core) : Option Nat :=
  if (descSigScope d) == 2 && bit d.p 50 && !c.isSelf (d.q % 2 ^ 15) then some (d.q % 2 ^ 15) else none

/-- A fabric Tally signalled or subtracted by a descriptor. -/
def signalFabricOp (o : Origin) (d : Desc) : OpM Unit := do
  let c ← get
  match descSigDevice d c with
  | some dev => do
    if (descSigCount d) == 0 && !(descSigSub d) then pure ()
    else
      sendRequest { c.descWho o 0 with keyed := false } .signal
        { op := opSignalTx, dst := dev, addr := globalAddr dev (0x500060000000 + 8 * (descSigIndex d)), len := 8, opndA := (descSigCount d) + (if (descSigSub d) then 3 else 1) <<< 32 } vcSync []
    update (fun c => c.descDone o stOk)
  | none =>
    if !c.tallyOwned (c.originTenant o) (descSigIndex d) then refuseKey (0x500060000000 + 8 * (descSigIndex d)) opSignalTx
    else do
      tallyEach (descSigSub d) 2 (descSigIndex d) (descSigCount d) [0]
      update (fun c => c.complete o stOk 0)

/-- OP_SIGNAL (R133, R309, R311, R313): with a unit path, the local Tally of every Hearth or of every Smithy it reaches.
That a lending Hearth's reserved Tallies are no exception for a host descriptor is the model's choice (R137; entry 138). -/
def signalOp (o : Origin) (d : Desc) : OpM Unit := do
  let c ← get
  if (descSigScope d) == 2 then signalFabricOp o d
  else match c.targets (c.originTenant o) d.path with
    | none => absentPath o
    | some hs => do
      tallyEach (descSigSub d) (descSigScope d) (descSigIndex d) (descSigCount d) (if (descSigScope d) == 0 then hs else smithiesOf hs)
      update (fun c => c.complete o stOk 0)

/-- Where the result of an OP_ROLL goes, as one number: address, whether of the host, key. -/
def descRollBack (d : Desc) : Nat := d.a + (b2n d.aHost + d.ka <<< 1) <<< 64

/-- OP_ROLL's payload in hand: the host's arrival (R325); a duplicate completes at once. -/
def rollArrived (o : Origin) (d : Desc) (data : List Byte) : OpM Unit := do
  let c ← get
  let ctx := d.p % 2 ^ 8
  if c.twoTenant && c.ctxTenant ctx != c.originTenant o then refuseKey 0 opRollTx
  else do
    let dup ← rollArrive ctx (.host o) (bits d.p 9 8) (if bit d.p 10 then some (bits d.p 23 16) else none) data (descRollBack d)
    if dup then update (fun c => c.complete o stRollDuplicate 0) else pure ()

/-- OP_ROLL. -/
def opRollOp (o : Origin) (d : Desc) : OpM Unit := do
  let c ← get
  match ← readFor o d.aHost false (c.originTenant o) d.ka (.roll o d) d.a 64 with
  | some b => rollArrived o d b
  | none => pure ()

/-- The record of a descriptor read: 64 bytes at A. -/
def recordOp (o : Origin) (d : Desc) (cont : Cont) (arrived : List Byte → OpM Unit) : OpM Unit := do
  let c ← get
  match ← readFor o d.aHost false (c.originTenant o) 0 cont d.a 64 with
  | some b => arrived b
  | none => pure ()

/-- A plan image in hand: refused, or the standby bank and its revision (R203). That an image shorter than it announces is refused is the model's choice
(entry 145). -/
def seatArrived (o : Origin) (data : List Byte) : OpM Unit := do
  let c ← get
  let h := leNat (data.take 12)
  let rev := bits h 31 0
  let eff := bits h 63 32
  let n := bits h 95 64
  let late := match c.bellows.lastStep with | some s => decide (eff ≤ s) | none => false
  if decide (data.length < 64 + n) || decide (rev ≤ c.bellows.activeRev) || late || decide (c.inForce rPlanBankBytes < n) then
    set (c.complete o stFormat 0)
  else do
    blockPut (c.planBank (1 - c.bellows.activeBank)) ((data.drop 64).take n)
    update (fun c => ((c.modBellows (fun x => { x with standbyRev := rev, effectiveStep := eff })).modStarted o (fun t => { t with done := t.total })).complete o
      stOk 0)

/-- OP_SEAT. -/
def seatOp (o : Origin) (d : Desc) : OpM Unit := do
  let c ← get
  set (c.modStarted o (fun t => { t with total := d.l }))
  match ← readFor o d.aHost false (c.originTenant o) 0 (.seat o d) d.a d.l with
  | some b => seatArrived o b
  | none => pure ()

/-- What a descriptor does when it starts. -/
def descBody (o : Origin) (op : Nat) (d : Desc) : OpM Unit :=
  match op with
  | 1 => lessonLoadOp o d
  | 2 => cardOp o d
  | 3 => if d.lend then runLendOp o d else runOp o d
  | 4 => copyOp o d
  | 5 => fillOp o d
  | 6 => signalOp o d
  | 7 => opRollOp o d
  | 8 => recordOp o d (.bellows o d) (acceptRecord o d.aHost d.a)
  | 9 => recordOp o d (.crucible o d) (acceptStep o)
  | 10 => recordOp o d (.snapshot o d) (snapArrived o d.a)
  | _ => seatOp o d

/-- The work of a descriptor: held back, it has not begun and `c0` stands; that of the snapshot engine fails as the engine's does (R460); any other
as its own. -/
def Core.runStarted (c0 c : Core) (o : Origin) (op : Nat) (body : OpM Unit) : Core :=
  match body.run c with
  | .ok _ c => c
  | .error f d =>
    if f.cls == clsHold then c0
    else if op == 10 && d.snap.origin == some o then d.runSnap (throw f)
    else d.runDesc o (throw f)

/-- The next waiting snapshot record taken in once the engine is idle (entry 81). -/
def Core.snapNext (c : Core) : Core :=
  match c.snap.phase == 0, c.snap.waiting with
  | true, (o, addr, data) :: rest => c.runStarted (c.modSnap (fun x => { x with waiting := rest })) o 10 (snapArrived o addr data)
  | _, _ => c

/-- The head of a ring's fetched descriptors starts (R430, R431). -/
def Core.startHead (c : Core) (q r : Nat) (f : Fetched) : Core :=
  let o : Origin := ⟨q, r, f.slot⟩
  let bad := c.descRefused q f.opcode f.d
  let t : Started := { slot := f.slot, tag := f.d.tag, opcode := f.opcode, irq := f.d.irq, barrier := f.d.barrier,
                       hearths := if bad then [] else c.descHearths q f }
  let d := c.modRing q r (fun x => { x with fetched := x.fetched.drop 1, started := x.started ++ [t] })
  if bad then d.complete o stFormat 0 else c.runStarted d o f.opcode (descBody o f.opcode f.d)

/-- Whether the head of a ring's fetched descriptors may start. -/
def Core.headReady (c : Core) (q r : Nat) : Bool :=
  match (c.ring q r).fetched with
  | f :: _ => c.canStart q r f
  | [] => false

/-- Descriptors of a ring started in ring order, as many as may. -/
def Core.startRing (c : Core) (q r : Nat) : Nat → Core
  | 0 => c
  | n + 1 =>
    match (c.ring q r).fetched with
    | f :: _ => if c.canStart q r f then (c.startHead q r f).startRing q r n else c
    | [] => c

/-- A descriptor of the slot at the fetch head arrives (R431): it takes its place, the next fetch goes out, and what may start does. -/
def Core.fetchedDesc (c : Core) (o : Origin) (op : Nat) (d : Desc) : Core :=
  let x := c.ring o.port o.ring
  if !c.fetches o.port o.ring || x.fetchHead == x.sqTail || x.fetchHead != o.slot then c
  else
    let c := { c with fabric := { c.fabric with xfers := c.fabric.xfers.filter (fun t => !isFetch o.port o.ring t) } }
    let c := (c.modPort o.port (fun p => p.heard 1)).modRing o.port o.ring (fun x =>
      { x with fetchHead := (x.fetchHead + 1) % c.ringEntries o.port o.ring, fetched := x.fetched ++ [{ slot := o.slot, opcode := op, d := d }] })
    (c.fetchNext o.port o.ring).startRing o.port o.ring (x.fetched.length + 1)

/-- A descriptor read from its 512 bits (Tables 15-4 and 15-5): its opcode and fields. -/
def descOf (n : Nat) : Nat × Desc :=
  (bits n 7 0,
   { tag := bits n 63 32, path := bits n 31 16, bHost := bit n 13, aHost := bit n 12, lend := bit n 11, barrier := bit n 10, irq := bit n 9,
     rsv := bits n 15 14 + bits n 8 8 <<< 2 + bits n 511 448 <<< 3, a := bits n 127 64, b := bits n 191 128, l := bits n 255 192,
     ka := bits n 287 256, kb := bits n 319 288, p := bits n 383 320, q := bits n 447 384 })

/-! Commands: a descriptor of each kind, as its fetch brings it (entry 42). -/

/-- OP_LESSON_LOAD. -/
def execOpLessonLoad (o : Origin) (d : Desc) (s : State) : Host.Outcome State Fault Refusal :=
  .next { s with core := s.core.gated (fun c => c.fetchedDesc o 1 d) }

/-- OP_CARD. -/
def execOpCard (o : Origin) (d : Desc) (s : State) : Host.Outcome State Fault Refusal :=
  .next { s with core := s.core.gated (fun c => c.fetchedDesc o 2 d) }

/-- OP_RUN without lend. -/
def execOpRun (o : Origin) (d : Desc) (s : State) : Host.Outcome State Fault Refusal :=
  .next { s with core := s.core.gated (fun c => c.fetchedDesc o 3 { d with lend := false }) }

/-- OP_RUN with lend. -/
def execOpRunLend (o : Origin) (d : Desc) (s : State) : Host.Outcome State Fault Refusal :=
  .next { s with core := s.core.gated (fun c => c.fetchedDesc o 3 { d with lend := true }) }

/-- OP_COPY. -/
def execOpCopy (o : Origin) (d : Desc) (s : State) : Host.Outcome State Fault Refusal :=
  .next { s with core := s.core.gated (fun c => c.fetchedDesc o 4 d) }

/-- OP_FILL. -/
def execOpFill (o : Origin) (d : Desc) (s : State) : Host.Outcome State Fault Refusal :=
  .next { s with core := s.core.gated (fun c => c.fetchedDesc o 5 d) }

/-- OP_SIGNAL; its P word gives the op. -/
def execOpSignal (o : Origin) (d : Desc) (s : State) : Host.Outcome State Fault Refusal :=
  .next { s with core := s.core.gated (fun c => c.fetchedDesc o 6 d) }

/-- OP_SIGNAL whose P word gives the op SUB (R313). -/
def execOpSignalSub (o : Origin) (d : Desc) (s : State) : Host.Outcome State Fault Refusal :=
  .next { s with core := s.core.gated (fun c => c.fetchedDesc o 6 { d with p := d.p % 2 ^ 56 + 3 <<< 56 }) }

/-- OP_ROLL. -/
def execOpRoll (o : Origin) (d : Desc) (s : State) : Host.Outcome State Fault Refusal :=
  .next { s with core := s.core.gated (fun c => c.fetchedDesc o 7 d) }

/-- FORWARD_BATCH: an OP_BELLOWS_STEP; the record at A says that it is a FORWARD (R193). -/
def execForwardBatch (o : Origin) (d : Desc) (s : State) : Host.Outcome State Fault Refusal :=
  .next { s with core := s.core.gated (fun c => c.fetchedDesc o 8 d) }

/-- BACKWARD_BATCH: an OP_BELLOWS_STEP whose record is a BACKWARD. -/
def execBackwardBatch (o : Origin) (d : Desc) (s : State) : Host.Outcome State Fault Refusal :=
  .next { s with core := s.core.gated (fun c => c.fetchedDesc o 8 d) }

/-- RELEASE_BATCH: an OP_BELLOWS_STEP whose record is a RELEASE. -/
def execReleaseBatch (o : Origin) (d : Desc) (s : State) : Host.Outcome State Fault Refusal :=
  .next { s with core := s.core.gated (fun c => c.fetchedDesc o 8 d) }

/-- CANCEL_BATCH: an OP_BELLOWS_STEP whose record is a CANCEL. -/
def execCancelBatch (o : Origin) (d : Desc) (s : State) : Host.Outcome State Fault Refusal :=
  .next { s with core := s.core.gated (fun c => c.fetchedDesc o 8 d) }

/-- OP_CRUCIBLE_STEP. -/
def execOpCrucibleStep (o : Origin) (d : Desc) (s : State) : Host.Outcome State Fault Refusal :=
  .next { s with core := s.core.gated (fun c => c.fetchedDesc o 9 d) }

/-- SNAPSHOT_TAKE: an OP_SNAPSHOT; its record's mode says TAKE (R457). -/
def execSnapshotTake (o : Origin) (d : Desc) (s : State) : Host.Outcome State Fault Refusal :=
  .next { s with core := s.core.gated (fun c => c.fetchedDesc o 10 d) }

/-- SNAPSHOT_RESTORE: an OP_SNAPSHOT whose record's mode says RESTORE. -/
def execSnapshotRestore (o : Origin) (d : Desc) (s : State) : Host.Outcome State Fault Refusal :=
  .next { s with core := s.core.gated (fun c => c.fetchedDesc o 10 d) }

/-- OP_SEAT. -/
def execOpSeat (o : Origin) (d : Desc) (s : State) : Host.Outcome State Fault Refusal :=
  .next { s with core := s.core.gated (fun c => c.fetchedDesc o 11 d) }

end Sys2Proof.Machine
end

