-- ==== Sys2Proof/Machine/Fabric.lean ====
section
/-!
DEFINITION. Sys2Proof/Machine/Fabric.lean: requests of other devices at their home (R400 to R417), responses, resends and timeouts at the
source (R418 to R422), and what continues when the bytes of a read have come.
-/

namespace Sys2Proof.Machine

/-! Transfers. -/

/-- Whether every piece of a transfer has come. -/
def Transfer.full (t : Transfer) : Bool := (List.range t.pieces.length).all (fun i => t.got.any (fun g => g.1 == i))

/-- The bytes of a transfer in order; a piece that has not come holds ones (Table 14-9). -/
def Transfer.bytes (t : Transfer) : List Byte :=
  (t.pieces.mapIdx (fun i p => match t.got.find? (fun g => g.1 == i) with
    | some g => g.2
    | none => List.replicate p.2 0xFF#8)).flatten

/-- What a read's bytes are for. A fetch of a descriptor is not among them. -/
def contBody (k : Cont) (b : List Byte) : OpM Unit :=
  match k with
  | .fetchDesc _ _ _ => pure ()
  | .lesson o d => lessonArrived o d b
  | .card o d => cardArrived o d b
  | .lend o d => lendArrived o d.irq b
  | .lendImage o h record => lentCard h o record b
  | .lendCard o h _ image => lentStart h o image b
  | .copy o d => descWrite o vcBulk d b
  | .roll o d => rollArrived o d b
  | .bellows o d => acceptRecord o d.aHost d.a b
  | .crucible o _ => acceptStep o b
  | .leaf a => leafArrived a b
  | .snapshot o d => snapArrived o d.a b
  | .seat o _ => seatArrived o b
  | .tload h f regs => tloadArrived h f regs b
  | .tgather h f regs => tgatherArrived h f regs b
  | .tstore h f regs => tstoreArrived h f regs b
  | .window h w cause => windowArrived h w cause b
  | .acatch h f regs seq => acatchFinish h f regs seq b
  | .splitRead h w headers => if headers.isEmpty then splitChecked h w b else splitCombine h w headers b

/-- The Hearth that a lent item's read is for. -/
def Cont.lentHearth : Cont → Option Nat
  | .lendImage _ h _ => some h
  | .lendCard _ h _ _ => some h
  | _ => none

/-- Whether a read belongs to the snapshot descriptor. -/
def Cont.isSnap : Cont → Bool
  | .snapshot _ _ => true
  | _ => false

/-- A transfer forgotten. -/
def Core.dropXfer (c : Core) (id : Nat) : Core := { c with fabric := { c.fabric with xfers := c.fabric.xfers.filter (fun t => t.id != id) } }

/-- The end of a transfer: an operation of its actor, which was waiting for it. Where it is held back the transfer stays, to be ended
again later. -/
def Core.endXfer (c : Core) (t : Transfer) (op : OpM Unit) : Core :=
  let d := c.dropXfer t.id
  match t.actor with
  | .hearth h => (c.fenced h (fun p => p.xfers.contains t.id) (d.perform h t.cont.slot (fun _ => c) op)).lentEnding h
  | .desc o =>
    match op.run d with
    | .error f _ => if f.cls == clsHold then c else match t.cont.lentHearth with
      | some h => d.runLend h o op
      | none => c.runStarted d o (if t.cont.isSnap then 10 else 0) op
    | .ok _ e => e
  | _ => d.runBlock clsFabric c.selfName opLoad op

/-- A piece of a transfer has come; with the last one its actor goes on. -/
def Core.pieceCame (c : Core) (id i : Nat) (data : List Byte) : Core :=
  match c.fabric.xfers.find? (fun t => t.id == id) with
  | none => c
  | some t =>
    let t := if t.got.any (fun g => g.1 == i) then t else { t with got := t.got ++ [(i, data)] }
    let c := { c with fabric := { c.fabric with xfers := c.fabric.xfers.map (fun x => if x.id == id then t else x) } }
    if t.full then c.endXfer t (contBody t.cont t.bytes) else c

/-! Host reads. -/

/-- Whether a transfer fetches a descriptor. -/
def Transfer.fetches (t : Transfer) : Bool :=
  match t.cont with
  | .fetchDesc _ _ _ => true
  | _ => false

/-- HOST_READ_COMPLETION: a read of a host's memory has ended (entry 8). A fetch brings its descriptor, or as a failure is a ring error
(R428). Any other read that fails ends with a status that the spec does not give (entry 17). -/
def Core.hostRead (c : Core) (id : Nat) (ok : Bool) (data : List Byte) : Core :=
  match c.fabric.xfers.find? (fun t => t.id == id) with
  | none => c
  | some t =>
    match t.host, t.pieces with
    | some q, [(_, n)] =>
      if (c.port q).lost || (ok && data.length != n) then c
      else
        let c := if t.fetches && ok then c else c.modPort q (fun p => p.heard (crossings 64 data.length))
        match t.cont with
        | .fetchDesc p r slot =>
          if ok then let x := descOf (leNat data); c.fetchedDesc ⟨p, r, slot⟩ x.1 x.2
          else c.ringError p r
        | _ =>
          if ok then c.pieceCame id 0 data
          else c.endXfer t do
            let v ← freshWord
            failWith (1 + v.toNat % 0x13)
    | _, _ => c

/-- HOST_READ_COMPLETION. -/
def execHostReadCompletion (id : Nat) (ok : Bool) (data : List Byte) (s : State) : Host.Outcome State Fault Refusal :=
  .next { s with core := s.core.gated (fun c => c.hostRead id ok data) }

/-- LOST_HOST_READ_TIMEOUT: a read from a lost host ends with ST_TIMEOUT (R437). -/
def execLostHostReadTimeout (id : Nat) (s : State) : Host.Outcome State Fault Refusal :=
  .next { s with core := s.core.gated (fun c =>
    match c.fabric.xfers.find? (fun t => t.id == id) with
    | some t => match t.host with
      | some q => if (c.port q).lost then c.endXfer t (failWith stTimeout) else c
      | none => c
    | none => c) }

/-! The home: checks (R400, R404). -/

/-- The tenant of a request that arrived on a port (R398, R421). -/
def Core.reqTenant (c : Core) (port : Nat) (t : Txn) : Nat := if !c.twoTenant || c.route.gen1.contains port then 0 else t.tenant

/-- The home's judgement of a request: its place, or the status of its refusal (R400, R404, Table 14-1). Generation 1 carries keys of 16 bits (R421). -/
def Core.judge (c : Core) (port : Nat) (t : Txn) (kind : Kind) (keyed : Bool) : Except Nat Place :=
  let a := t.addr % 2 ^ 48
  match c.place a t.len with
  | .error st => .error st
  | .ok p =>
    let word (off : Nat) : Bool := t.len == 8 && off % 8 == 0
    let served := match p, kind with
      | .stacked x, _ => c.dram.backed x t.len
      | .scratch _ _, _ => true
      | .hub _, _ => true
      | .tally off, .read => word off
      | .tally off, .write => word off
      | .hashTbl _ _, .write => true
      | .pool _, .write => true
      | _, _ => false
    let own := match p with | .tally off => c.tallyOwned (c.reqTenant port t) (off / 8) | _ => true
    if badGlobal t.addr || !served then .error stFormat
    else
      let key := if c.route.gen1.contains port then t.key % 2 ^ 16 else t.key
      let st := if keyed then c.keyCheck a t.len key kind (c.reqTenant port t) true else stOk
      if st != stOk then .error st else if !own then .error stKeyMismatch else .ok p

/-- A response sent to the source of a request; a missing route is a fault of this device (R393, R401). -/
def Core.respond (c : Core) (t : Txn) (op vc status seq opndA : Nat) (data : List Byte) : Core :=
  match c.trySend { op := op, dst := t.src, addr := t.addr, key := t.key, tag := t.tag, len := if data.isEmpty then t.len else data.length, status := status, seq := seq,
                    opndA := opndA } vc data with
  | some c => c
  | none => c.raise { cls := clsFabric, status := stFormat, unit := t.src, detail := op, addr := t.addr }

/-- A refusal by key counted at the home (R405). -/
def Core.countRefusal (c : Core) (status : Nat) : Core := if status == stKeyMismatch then c.bump kKeyRefused else c

/-! Sequences (R410). -/

/-- Whether a request is of the SIGNAL space. -/
def Txn.isSignal (t : Txn) : Bool := t.op == opSignalTx

/-- The next expected number of a source in a request's space. -/
def Core.expected (c : Core) (t : Txn) : Nat := nextSeq (if Txn.isSignal t then c.fabric.sigIn else c.fabric.seqIn) t.src

/-- The next expected number advances. -/
def Core.advance (c : Core) (t : Txn) : Core :=
  let n := (c.expected t + 1) % 2 ^ 32
  if Txn.isSignal t then { c with fabric := { c.fabric with sigIn := kvPut c.fabric.sigIn t.src n } }
  else { c with fabric := { c.fabric with seqIn := kvPut c.fabric.seqIn t.src n } }

/-- Requests of a source that wait at the line unit, of one space. -/
def Core.waitingOf (c : Core) (t : Txn) : List LineWrite :=
  c.fabric.lineWait.filter (fun w => w.txn.src == t.src && Txn.isSignal w.txn == Txn.isSignal t && w.txn.op != opLoad)

/-- The highest sequence applied in order (Table 14-2). -/
def Core.appliedSeq (c : Core) (t : Txn) : Nat :=
  match c.waitingOf t with
  | w :: _ => w.txn.seq - 1
  | [] => c.expected t - 1

/-- DONE for a STORE or SIGNAL, on its channel (Table 14-3). -/
def Core.done (c : Core) (t : Txn) (status : Nat) : Core :=
  c.respond t opDone (if Txn.isSignal t then vcSync else vcRsp) status (c.appliedSeq t) 0 []

/-- A source's acknowledgement of responses (R412). -/
def Core.acknowledge (c : Core) (t : Txn) : Core :=
  if Txn.isSignal t || decide (t.ackSeq ≤ spGet 0 c.fabric.acked t.src) then c
  else { c with fabric := { c.fabric with acked := kvPut c.fabric.acked t.src t.ackSeq } }

/-! The line unit (R416, R417). -/

/-- Line of an address. -/
def lineOfAddr (a : Nat) : Nat := a % 2 ^ 48 / 64

/-- A request waiting at the line unit; a write that finds another to its line counts. -/
def Core.queueLine (c : Core) (w : LineWrite) : Core :=
  let c := if w.txn.op != opLoad && c.fabric.lineWait.any (fun x => x.line == w.line && x.txn.op != opLoad) then c.bump kHotlineWait else c
  { c with fabric := { c.fabric with lineWait := c.fabric.lineWait ++ [w] } }

/-- The lines' parts of a store, in ascending order (R408); only memory is split. -/
def linePieces' (p : Place) (a : Nat) (d : List Byte) : List (Nat × List Byte) :=
  match p with
  | .stacked _ => (cuts 64 a d.length).map (fun x => (x.1, (d.drop (x.1 - a)).take x.2))
  | .scratch _ _ => (cuts 64 a d.length).map (fun x => (x.1, (d.drop (x.1 - a)).take x.2))
  | .hub _ => (cuts 64 a d.length).map (fun x => (x.1, (d.drop (x.1 - a)).take x.2))
  | _ => [(a, d)]

/-- A remote request refused with ST_FORMAT that is also a fault of the device that holds the address: one to an UNBACKED address (R339), or to the pool
request page (R355). -/
def Core.refusedFault (c : Core) (t : Txn) (status : Nat) : Core :=
  let a := t.addr % 2 ^ 48
  let pool := match c.place a t.len with | .ok (.pool _) => true | _ => false
  if badGlobal t.addr || status != stFormat then c
  else if pool then c.runPool (throw { cls := clsAlways, status := stFormat, addr := a })
  else if pastStacked a t.len || (decide (a + t.len ≤ stackedEnd) && !c.dram.backed a t.len) then
    c.raise { cls := clsFabric, status := stFormat, unit := t.src, detail := t.op, addr := a }
  else c

/-- Replay entries (R414): address of the entry of a source's sequence. -/
def Core.replayAt (c : Core) (src q : Nat) : Nat := (c.inForce rReplayBase / 4096) * 4096 + 16 * (src % 2 ^ 15 * 256 + q % 256)

/-- A home's work for a request: its status, or none where the home itself faults, which then answers nothing. A fault of the pool manager or of the hash
accumulator is the home's and its status the answer, but for one of a pool's own tags (R243, R355, R357; entry 64). Refusal counts are kept at the home's
end only. -/
def Core.homeDo (c : Core) (op : OpM Nat) : Core × Option Nat :=
  match op.run c with
  | .ok st d => (d, some st)
  | .error f d =>
    let d := { d with counters := spPut 0 d.counters kKeyRefusedSrc (c.counter kKeyRefusedSrc) }
    if f.cls == clsAlways then (d.runPool (throw f), some (if f.status == stPointer then stOk else f.status))
    else if f.cls == clsSync then (d.raise f, some stOk)
    else if f.cls == 0 || f.cls == clsKey then (d, some f.status)
    else (d.raise f, none)

/-- A signal of another device is applied to a fabric Tally, which counts (R334); one at a Tally that is OVER is ignored (Table 11-9). -/
def countSignal (op i : Nat) : OpM Unit := update (fun c => if op == 1 && !(c.tally 2 0 i).overSet then c.bump (kSyn 4) else c)

/-- A part of a store applied (R408, R240, R355). -/
def storePart (tenant : Nat) (w : LineWrite) : OpM Nat := do
  match ← placeOf w.off w.data.length with
  | .tally off => do
    countSignal (bits (leNat w.data) 39 32) (off / 8)
    tallyStore tenant off w.data
    pure stOk
  | .hashTbl t off => hashStoreRemote t off w.data
  | .pool off => do
    poolStore tenant off w.data
    pure stOk
  | p => do
    writePlace p w.data
    pure stOk

/-- A signal applied (R311, R313). -/
def signalPart (t : Txn) : OpM Nat := do
  let i := (t.addr % 2 ^ 48 - 0x500060000000) / 8
  countSignal (bits t.opndA 39 32) i
  if bits t.opndA 39 32 == 3 then update (fun c => c.subTally 2 0 i (t.opndA % 2 ^ 32))
  else signalTally 2 0 i (t.opndA % 2 ^ 32)
  pure stOk

/-- An atomic applied, with its replay entry (R411, R412, R414); a generation-1 source has none (R421): the old value. -/
def atomicPart (gen1 : Bool) (t : Txn) : OpM Nat := do
  let old ← applyAtomic (t.addr % 2 ^ 48) t.wide t.aop t.opndA t.opndB
  let c ← get
  if gen1 then pure ()
  else do
    blockPut (c.replayAt t.src t.seq) (leBytes 16 (place old 64 0 + place t.seq 32 64 + 1 <<< 96 + place c.mgt.timeUs 16 112))
    update (fun c => { c with fabric := { c.fabric with live := (t.src, t.seq) :: c.fabric.live.filter (fun e => e != (t.src, t.seq)) } })
  pure old

/-- An admitted load served (R400): its DATA. -/
def Core.serveLoad (c : Core) (t : Txn) : Core :=
  match (do readPlace (← placeOf (t.addr % 2 ^ 48) t.len) t.len : OpM (List Byte)).run c with
  | .ok d c => c.respond t opData vcRsp stOk 0 0 d
  | .error f c => if f.cls == 0 || f.cls == clsAlways then c.respond t opData vcRsp f.status 0 0 [] else c.raise f

/-- One waiting request applied, and answered with its last part. -/
def Core.applyLine (c : Core) (w : LineWrite) : Core :=
  let t := w.txn
  if t.op == opLoad then c.serveLoad t
  else if t.op == opAtomic then
    match c.homeDo (atomicPart (c.route.gen1.contains w.port) t) with
    | (c, some old) => c.respond t opResult vcRsp stOk 0 old []
    | (c, none) => c
  else
    match c.homeDo (if Txn.isSignal t then signalPart t else storePart (c.reqTenant w.port t) w) with
    | (c, some st) => if w.last || st != stOk then c.done t st else c
    | (c, none) => c

/-- Whether a waiting request is the first of its source, in its space: a source's own requests stay in their order (R407, R416). -/
def firstOfSource (l : List LineWrite) (w : LineWrite) : Bool :=
  (l.find? (fun x => x.txn.src == w.txn.src && Txn.isSignal x.txn == Txn.isSignal w.txn)) == some w

/-- The loads of a source that no earlier write of it holds back any more are served (R407); the line unit does not serialise them (R416). -/
def Core.releaseLoads (c : Core) (src : Nat) : Core :=
  let mine := c.fabric.lineWait.filter (fun w => w.txn.src == src && !Txn.isSignal w.txn)
  (mine.takeWhile (fun w => w.txn.op == opLoad)).foldl (fun c w =>
    ({ c with fabric := { c.fabric with lineWait := dropFirst (fun x => x == w) c.fabric.lineWait } }).applyLine w) c

/-- The next request that the line unit serves on a line: of the sources in turn, from the one after the last served (R416). -/
def Core.nextLine (c : Core) (line : Nat) : Option LineWrite :=
  let l := sortBy (fun (x y : LineWrite) => decide (x.txn.src < y.txn.src)) (c.fabric.lineWait.filter (fun w =>
    w.line == line && w.txn.op != opLoad && firstOfSource c.fabric.lineWait w))
  match l.find? (fun w => match kvGet c.fabric.lineBusy line with | some s => decide (s < w.txn.src) | none => true) with
  | some w => some w
  | none => l.head?

/-- A line's next request served. -/
def Core.serveLine (c : Core) (line : Nat) : Core :=
  match c.nextLine line with
  | none => c
  | some w =>
    match (senseWord (.queue qLine) 0).run c with
    | .error f c => c.raise f
    | .ok _ c =>
       let f := { c.fabric with lineWait := dropFirst (fun x => x == w) c.fabric.lineWait, lineBusy := kvPut c.fabric.lineBusy line w.txn.src }
      ({ c with fabric := f }.applyLine w).releaseLoads w.txn.src

/-- LINE_UNIT_WRITE. -/
def execLineUnitWrite (line : Nat) (s : State) : Host.Outcome State Fault Refusal :=
  .next { s with core := s.core.gated (fun c => c.serveLine line) }

/-! Requests at the home. -/

/-- LOAD_REQUEST: judged as it arrives (R404), and served at once or behind what its source has waiting (R407, R409). -/
def Core.loadRequest (c : Core) (port : Nat) (t : Txn) : Core :=
  let c := c.acknowledge t
  match c.judge port t .read true with
  | .error st => ((c.countRefusal st).respond t opData vcRsp st 0 0 []).refusedFault t st
  | .ok _ =>
    if c.fabric.lineWait.any (fun w => w.txn.src == t.src && !Txn.isSignal w.txn) then
      c.queueLine { line := lineOfAddr t.addr, port := port, txn := t, off := t.addr % 2 ^ 48, data := [], last := true }
    else c.serveLoad t

/-- How a numbered request stands (R410): next, a duplicate, or ahead of a missing one. Generation-1 requests carry no numbers
(R421). -/
inductive SeqCase where
  | fresh | dup | ahead
  deriving DecidableEq, Repr

def Core.seqCase (c : Core) (port : Nat) (t : Txn) : SeqCase :=
  if c.route.gen1.contains port || t.seq == c.expected t then .fresh
  else if t.seq < c.expected t then .dup
  else .ahead

/-- A numbered request taken in its turn. -/
def Core.taken (c : Core) (port : Nat) (t : Txn) : Core := if c.route.gen1.contains port then c else c.advance t

/-- A resent STORE or SIGNAL that has been taken before: not applied again, and answered with DONE (R410); one that the line unit still holds is answered
by the DONE that tells when it is visible (R409). -/
def Core.duplicate (c : Core) (t : Txn) : Core :=
  let c := c.bump kStoreDup
  if (c.waitingOf t).any (fun w => w.txn.seq == t.seq) then c else c.done t stOk

/-- A store of another device to the intake window is discarded and counted (R198, R227). -/
def Core.intakeRefused (c : Core) (t : Txn) : Core :=
  match c.place (t.addr % 2 ^ 48) t.len with
  | .ok (.intake _) => c.bump (kBlw 5)
  | _ => c

/-- STORE_REQUEST. -/
def Core.storeRequest (c : Core) (port : Nat) (t : Txn) (data : List Byte) : Core :=
  let c := c.acknowledge t
  match c.seqCase port t with
  | .ahead => c
  | .dup => c.duplicate t
  | .fresh =>
    if data.length != t.len then c
    else match c.judge port t .write true with
      | .error st => ((((c.taken port t).countRefusal st).intakeRefused t).done t st).refusedFault t st
      | .ok p =>
        let ps := linePieces' p (t.addr % 2 ^ 48) data
        (ps.mapIdx (fun i x => (i, x))).foldl (fun c (e : Nat × Nat × List Byte) =>
          c.queueLine { line := lineOfAddr e.2.1, port := port, txn := t, off := e.2.1, data := e.2.2, last := e.1 + 1 == ps.length }) (c.taken port t)

/-- A RESULT that refuses an atomic; the old value in it is a free value (entry 17). -/
def Core.answerAtomic (c : Core) (t : Txn) (status : Nat) : Core :=
  ({ c with free := c.free + 1 }).respond t opResult vcRsp status 0 (Config.freeWord c.free).toNat []

/-- A refused atomic, which has no replay entry. -/
def Core.refuseAtomic (c : Core) (port : Nat) (t : Txn) (status : Nat) : Core :=
  let c := ((c.taken port t).countRefusal status)
  ({ c with fabric := { c.fabric with live := c.fabric.live.filter (fun e => e != (t.src, t.seq)) } }).answerAtomic t status

/-- A resent atomic answered from the replay table (R413). -/
def Core.replayAtomic (c : Core) (t : Txn) : Core :=
  if c.fabric.lineWait.any (fun w => w.txn.src == t.src && w.txn.op == opAtomic && w.txn.seq == t.seq) then c
  else
    let gone := !c.fabric.live.contains (t.src, t.seq) || decide (t.seq ≤ spGet 0 c.fabric.acked t.src)
    match (blockNat (c.replayAt t.src t.seq) 16).run c with
    | .error f c => c.raise (f.filled clsFabric c.selfName opAtomic)
    | .ok n c =>
      if !gone && bit n 96 && bits n 95 64 == t.seq then (c.bump kAtomicReplay).respond t opResult vcRsp stOk 0 (bits n 63 0) []
      else (c.bump kAtomicIndet).respond t opResult vcRsp stIndeterminate 0 (2 ^ 64 - 1) []

/-- ATOMIC_REQUEST. -/
def Core.atomicRequest (c : Core) (port : Nat) (t : Txn) : Core :=
  let c := c.acknowledge t
  match c.seqCase port t with
  | .ahead => c
  | .dup => if bit (c.inForce rReplayBase) 0 then c.replayAtomic t else c.answerAtomic t stFormat
  | .fresh =>
    let bad := !bit (c.inForce rReplayBase) 0 || t.aop == 0 || decide (9 < t.aop) || t.len != atomicBytes t.wide || t.addr % t.len != 0
    if bad then c.refuseAtomic port t stFormat
    else match c.judge port t .atomic true with
      | .error st => (c.refuseAtomic port t st).refusedFault t st
      | .ok _ => (c.taken port t).queueLine { line := lineOfAddr t.addr, port := port, txn := t, off := t.addr % 2 ^ 48, data := [], last := true }

/-- SIGNAL_REQUEST (R315, R400, R403): refused with ST_FORMAT anywhere but at a whole word of the Tally window, as a window store by its length too;
keyed only as a window store (entry 66). -/
def Core.signalRequest (c : Core) (port : Nat) (t : Txn) : Core :=
  match c.seqCase port t with
  | .ahead => c
  | .dup => c.duplicate t
  | .fresh =>
    let op := bits t.opndA 39 32
    let a := t.addr % 2 ^ 48
    let st := if badGlobal t.addr || !inTallyWindow a || a % 8 != 0 || (t.window && t.len != 8) || (op != 1 && op != 3) then stFormat
      else match c.judge port { t with len := 8 } .write t.window with
        | .error st => st
        | .ok _ => stOk
    let c := c.taken port t
    if st != stOk then (c.countRefusal st).done t st
    else c.queueLine { line := lineOfAddr t.addr, port := port, txn := t, off := t.addr % 2 ^ 48, data := [], last := true }

/-- REPLAY_ENTRY_EVICT: 64 µs after its RESULT was sent (R412). -/
def execReplayEntryEvict (src seq : Nat) (s : State) : Host.Outcome State Fault Refusal :=
  .next { s with core := s.core.gated (fun c =>
    { c with fabric := { c.fabric with live := c.fabric.live.filter (fun e => e != (src, seq)) } }) }

/-! Responses at the source. -/

/-- The request that a response answers, among those of an op class. -/
def Core.requestOf (c : Core) (t : Txn) (ops : List Nat) : Option OutReq :=
  c.fabric.out.find? (fun r => r.tag == t.tag && r.dst % 2 ^ 14 == t.src % 2 ^ 14 && ops.contains r.frame.txn.op)

/-- A request taken off the list of those that lack their response. -/
def Core.dropReq (c : Core) (r : OutReq) : Core := { c with fabric := { c.fabric with out := dropFirst (fun x => x == r) c.fabric.out } }

/-- The FABRIC fault of a request (Table 16-3). -/
def OutReq.fault (r : OutReq) (status : Nat) : FaultReq :=
  { cls := clsFabric, status := status, unit := r.dst, detail := r.frame.txn.op, addr := r.frame.txn.addr }

/-- A response's status; a value that Table 0-5 reserves is a refusal with ST_FORMAT (R401). -/
def Txn.answer (t : Txn) : Nat := knownStatus t.status

/-- A request failed: a fault of its unit, or for a host descriptor a notice where its home refused it (R400, R405). -/
def Core.failActor (c : Core) (r : OutReq) (status : Nat) (notice : Bool) : Core :=
  let f := r.fault status
  let x := match r.use with | .piece id _ => c.fabric.xfers.find? (fun t => t.id == id) | _ => none
  match x, r.actor with
  | some t, .desc o =>
    if notice then c.endXfer t (failWith status)
    else match t.cont.lentHearth with
      | some h => ((c.dropXfer t.id).clearLent h).raiseFor o f
      | none => (c.dropXfer t.id).raiseTimeout o f
  | some t, .hearth h => (c.dropXfer t.id).lessonFault h 0 f
  | _, .desc o => if notice then c.descRefusal o status else c.raiseTimeout o f
  | _, .hearth h => if (c.hearth h).running then c.lessonFault h 1 f else c.raise f
  | _, _ => c.raise f

/-- The Y queue of a Hearth moves on, if it runs. -/
def Core.pumpY (c : Core) (h : Nat) : Core :=
  if (c.hearth h).running && !(c.hearth h).yq.isEmpty then c.perform h 4 (fun c => c) (yPump h 5) else c

/-- A write or signal delivered (R319, R409, R434, R317). -/
def Core.delivered (c : Core) (r : OutReq) : Core :=
  let c := c.dropReq r
  match r.use, r.actor with
  | .signalAfter t, _ => c.runBlock clsSync t 2 (signalFabric t 1)
  | .signal, .hearth h =>
    (c.modHearth h (fun x => { x with yq := match x.yq with | .sent g :: rest => if g == r.tag then rest else x.yq | l => l })).pumpY h
  | _, .hearth h => c.pumpY h
  | _, .desc o => c.descDelivered o
  | _, .smithy s =>
    match (c.smithy s).frame with
    | some f => if f.draining && !c.waits (.smithy s) then c.runDrain (frameEnd s (frameRecOf f.record)) else c
    | none => c
  | _, .block => c

/-- Who writes the reply of an atomic: the device, with the tenant of the record and its key (R415; entry 133). -/
def OutReq.replyWho (r : OutReq) : Who := { actor := .block, tenant := r.frame.txn.tenant, key := r.frame.txn.key }

/-- A request that its home refused, that could not be told, or that timed out (R400, R413, Table 14-9). -/
def Core.failReq (c : Core) (r : OutReq) (status old : Nat) (notice : Bool) : Core :=
  let c := if status == stKeyMismatch && notice then c.bump kKeyRefusedSrc else c
  match r.use with
  | .atomicPage reply done signal =>
    let c := c.runBlock clsFabric r.dst opAtomic (atomicReply r.replyWho reply done signal old status)
    match r.actor with
    | .hearth _ => c.failActor r status notice
    | _ => if notice then c else c.raise (r.fault status)
  | .hashRow count strict =>
    match r.actor with
    | .hearth h =>
      if status == stIndexRange && notice then
        if strict then (if count then c.bump (kHth h 8) else c).failActor r status notice
        else (c.noteRange h (b2n count)).delivered r
      else c.failActor r status notice
    | _ => c.failActor r status notice
  | .pull e => c.runBlock clsDispatch 0 2 (match c.batch e with | some b => forBatch b (failWith status) | none => pure ())
  | _ => c.failActor r status notice

/-- DATA_RESPONSE. -/
def Core.dataResponse (c : Core) (t : Txn) (data : List Byte) : Core :=
  match c.requestOf t [opLoad] with
  | none => c
  | some r =>
    if r.late then (c.dropReq r).bump kFabLate
    else if Txn.answer t != stOk then (c.dropReq r).failReq r (Txn.answer t) 0 true
    else if data.length != r.frame.txn.len then c
    else match r.use with
      | .piece id i => (c.dropReq r).pieceCame id i data
      | _ => c.dropReq r

/-- DONE that refuses a row or a pull for a stale role epoch: counted here too, and a fault of the sending batch (R205). -/
def Core.roleStale (c : Core) (t : Txn) : Core :=
  let mine (r : OutReq) : Bool := r.use == .pull t.tag && r.dst % 2 ^ 14 == t.src % 2 ^ 14
  let c := { c with fabric := { c.fabric with out := c.fabric.out.filter (fun r => !mine r) } }
  match c.batch t.tag with
  | some b => (c.bump (kBlw 4)).runBlock clsDispatch 0 1 (forBatch b (failWith stRoleStale))
  | none => c.bump (kBlw 4)

/-- DONE_RESPONSE (R409): the request of its tag, and every earlier one that its sequence covers. -/
def Core.doneResponse (c : Core) (t : Txn) : Core :=
  if t.status == stRoleStale && (t.opndA == opPull || t.opndA % 256 == opToken) then c.roleStale t
  else if t.opndA == opContrib then c.runCrucible contribDelivered
  else if t.opndA % 256 == opToken then (c.rowDelivered t.tag (t.opndA != opToken)).runBellows 0 (pure ())
  else match c.requestOf t [opStore, opSignalTx] with
    | none => c
    | some r =>
      if r.late then (c.dropReq r).bump kFabLate
      else
        let c := if Txn.answer t == stOk then c.delivered r else (c.dropReq r).failReq r (Txn.answer t) 0 true
        let older := c.fabric.out.filter (fun x => x.dst == r.dst && x.frame.txn.op == r.frame.txn.op && !x.late && decide (x.frame.txn.seq ≤ t.seq))
        older.foldl (fun c x => c.delivered x) c

/-- RESULT_RESPONSE (R412, R413, R415, R94). -/
def Core.resultResponse (c : Core) (t : Txn) : Core :=
  match c.requestOf t [opAtomic] with
  | none => c
  | some r =>
    if r.late then (c.dropReq r).bump kFabLate
    else
      let st := Txn.answer t
      let d := c.dropReq r
      let d := if st == stIndeterminate then (d.bump kAtomicIndet).failReq r st (2 ^ 64 - 1) false
        else if st != stOk then
          let v := (Config.freeWord d.free).toNat
          ({ d with free := d.free + 1 }).failReq r st v true
        else match r.use, r.actor with
          | .atomicPage reply done signal, _ => d.runBlock clsFabric r.dst opAtomic (atomicReply r.replyWho reply done signal t.opndA stOk)
          | .split w, .hearth h => (d.fenced h (fun p => p.tags.contains r.tag) (d.perform h 2 (fun d => d) (splitArrived h w t.opndA))).lentEnding h
          | _, _ => d
      d.runBlock clsFabric r.dst opAtomic (releaseAtomics r.dst)

/-- A response that comes while the restart wave holds the device is discarded; a late one counts all the same (R420, R423). -/
def Core.lateResponse (c : Core) (t : Txn) (ops : List Nat) : Core :=
  match c.requestOf t ops with
  | some r => if r.late then (c.dropReq r).bump kFabLate else c
  | none => c

/-- The channel that a DONE comes on: SYNC for a SIGNAL, else RSP (Table 14-3). -/
def Core.doneChannel (c : Core) (t : Txn) : Nat :=
  match c.requestOf t [opStore, opSignalTx] with
  | some r => if r.frame.txn.op == opSignalTx then vcSync else vcRsp
  | none => vcRsp

/-! Silence (R418 to R422). -/

/-- A request of a destination resent (R418). -/
def Core.resendOne (c : Core) (r : OutReq) : Core :=
  let c := (c.sendOrFault { r.frame.txn with resend := true } r.frame.vc r.frame.data).bump kFabResend
  { c with fabric := { c.fabric with out := modFirst (fun x => x == r) (fun x => { x with resends := x.resends + 1 }) c.fabric.out } }

/-- FAB_RESEND_TIMER: every request to a silent destination resent in order, each at most three times; never to a generation-1 port
(R418, R421). -/
def execFabResendTimer (dst : Nat) (s : State) : Host.Outcome State Fault Refusal :=
  .next { s with core := s.core.gated (fun c =>
    if c.gen1To dst then c
    else (c.fabric.out.filter (fun r => r.dst == dst && !r.late && decide (r.resends < 3))).foldl (fun c r => c.resendOne r) c) }

/-- Whether what a timed-out load staged so far, with ones where no data came, is written before its operation stops (Table 14-9). -/
def Cont.fillsOnTimeout : Cont → Bool
  | .tload _ _ _ => true
  | .tgather _ _ _ => true
  | .window _ _ _ => true
  | _ => false

/-- The outcome of a request that ends with ST_TIMEOUT (Table 14-9). -/
def Core.expire (c : Core) (r : OutReq) : Core :=
  match r.use with
  | .piece id _ =>
    match c.fabric.xfers.find? (fun t => t.id == id), r.actor with
    | some t, .hearth h =>
      let body := match t.cont with
        | .tload _ f regs => if (c.hearth h).windowLoad ((c.hearth h).tloadArgs f).d then windowOnes h f regs else contBody t.cont t.bytes
        | _ => contBody t.cont t.bytes
      let c := if t.cont.fillsOnTimeout then match body.run (c.dropXfer id) with
          | .ok _ c => c
          | .error _ c => c
        else c.dropXfer id
      c.lessonFault h 0 (r.fault stTimeout)
    | _, _ => c.failReq r stTimeout 0 false
  | _ => c.failReq r stTimeout (2 ^ 64 - 1) false

/-- A request timed out (R418): it stays listed, so that a late response is known (R420). -/
def Core.timeOut (c : Core) (r : OutReq) : Core :=
  ({ c.bump kFabTimeouts with fabric := { c.fabric with out := modFirst (fun x => x == r) (fun x => { x with late := true }) c.fabric.out } }).expire r

/-- FAB_TIMEOUT: a request with no response for T, or a batch whose answers from a holder do not come (R418, R419). A forerunner access
is never timed (R422). -/
def execFabTimeout (dst tag : Nat) (s : State) : Host.Outcome State Fault Refusal :=
  .next { s with core := s.core.gated (fun c =>
    if c.gen1To dst then c
    else match c.fabric.out.find? (fun r => r.dst == dst && r.tag == tag && !r.late) with
      | some r => c.timeOut r
      | none =>
        match c.batch tag with
        | some b => if spGet 0 b.sent dst == 0 then c else c.runBlock clsDispatch 0 1 (forBatch b (failWith stTimeout))
        | none => c) }

/-- HUB_FAB_TEARDOWN (R422): every waiting forerunner access ends with ST_TIMEOUT, the device faults and the job ends; without one nothing
happens. While a wave runs, what waited has been discarded, and the device takes STOPPED after its warm reset (Table 16-8). -/
def Core.teardown (c : Core) : Core :=
  let l := (c.fabric.out ++ c.fabric.atomHeld).filter (fun r => c.gen1To r.dst)
  if l.isEmpty then c
  else
    let c := { c with fabric := { c.fabric with atomHeld := c.fabric.atomHeld.filter (fun r => !c.gen1To r.dst) } }
    let d := ({ c with mgt := { c.mgt with torn := true } }).raise { cls := clsTeardown, status := stTimeout }
    if c.halted then d else l.foldl (fun d r => (d.dropReq r).expire r) d

end Sys2Proof.Machine
end

