-- ==== Sys2Proof/Machine/Ports.lean ====
section
/-!
DEFINITION. Sys2Proof/Machine/Ports.lean: doorbells (R427, R428), interrupts (R435), loss of a host port (R437).
-/

namespace Sys2Proof.Machine

/-! Doorbells. -/

/-- A tail written: the descriptors up to it are announced; one that would cross the fetch head is a ring error (R428). -/
def Core.sqTailWrite (c : Core) (q r v : Nat) : Core :=
  let x := c.ring q r
  let n := c.ringEntries q r
  let v := v % n
  let waiting := (x.sqTail + n - x.fetchHead) % n
  let new := (v + n - x.sqTail) % n
  if c.fetches q r && decide (n ≤ waiting + new) then c.ringError q r
  else
    let c := c.modRing q r (fun x => { x with sqTail := v })
    if c.halted then c else c.fetchNext q r

/-- SQ_TAIL; a write over a link that is not active does not arrive (entry 6). -/
def execSqTail (port ring value : Nat) (s : State) : Host.Outcome State Fault Refusal :=
  .next { s with core := if (s.core.port port).trained then (s.core.hostIn port).sqTailWrite port ring value else s.core }

/-- A head written: the ring's interrupt is armed again, and one is sent if an unconsumed record carries irq (R435). -/
def Core.cqHeadWrite (c : Core) (q r v : Nat) : Core :=
  let x := c.ring q r
  let n := c.ringEntries q r
  let v := v % n
  let held := x.irqHeld.filter (fun p => decide ((p + n - v) % n < (x.cqTail + n - v) % n))
  let c := c.modRing q r (fun x => { x with cqHead := v, irqHeld := held, irqOut := !held.isEmpty })
  if held.isEmpty then c else c.msix q (c.reg (rRing q r 3))

/-- CQ_HEAD. -/
def execCqHead (port ring value : Nat) (s : State) : Host.Outcome State Fault Refusal :=
  .next { s with core := if (s.core.port port).trained then (s.core.hostIn port).cqHeadWrite port ring value else s.core }

/-- A vector unmasked: its pending message is sent (R435). -/
def HostPort.unmask (p : HostPort) (v : Nat) : HostPort :=
  { p with masked := p.masked.filter (· != v), pendingBits := p.pendingBits.filter (· != v),
           sent := if p.pendingBits.contains v then p.sent ++ [v] else p.sent,
           outEdge := if p.pendingBits.contains v then (p.says 1).outEdge else p.outEdge }

/-- MSIX_UNMASK. -/
def execMsixUnmask (port vector : Nat) (s : State) : Host.Outcome State Fault Refusal :=
  .next { s with core := if (s.core.port port).trained then (s.core.hostIn port).modPort port (fun p => p.unmask vector) else s.core }

/-! Loss (R437). -/

/-- The index that PCI_LOST_HEAD latches: of the oldest started descriptor, else of the first that waits to start, else the fetch head. -/
def Ring.oldest (x : Ring) : Nat :=
  match x.started with
  | t :: _ => t.slot
  | [] => match x.fetched with | f :: _ => f.slot | [] => x.fetchHead

/-- A ring of a lost port. -/
def Ring.lose (x : Ring) : Ring := { x with lost := true, lostHead := x.oldest, fetched := [] }

/-- Whether a transfer is a fetch of a port's descriptor. -/
def isFetchOf (q : Nat) (t : Transfer) : Bool :=
  match t.cont with
  | .fetchDesc p _ _ => p == q
  | _ => false

/-- A Hearth without the claim of a port's rings (R136). -/
def Hearth.unclaimed (x : Hearth) (q : Nat) : Hearth :=
  match x.claim with
  | some k => if k.1 == q then { x with claim := none } else x
  | none => x

/-- A port is lost: its rings stop fetching, their claims end, the surviving port learns of it (steps 1 to 5). -/
def Core.losePort (c : Core) (q : Nat) : Core :=
  if (c.port q).lost then c
  else
    let c := (List.range 64).foldl (fun c r => c.modRing q r Ring.lose) c
    let c := c.modPort q (fun p => { p with lost := true })
    let c := { c with hearths := c.hearths.map (fun (p : Nat × Hearth) => (p.1, p.2.unclaimed q)),
                      fabric := { c.fabric with xfers := c.fabric.xfers.filter (fun t => !isFetchOf q t) } }
    let c := c.bump (kPci (1 - q) 1)
    if (c.port (1 - q)).lost then c else c.msix (1 - q) 65

/-- A port whose link leaves the active state. -/
def Core.linkDown (c : Core) (q : Nat) : Core :=
  if (c.port q).trained then (c.modPort q (fun p => { p with trained := false })).losePort q else c

/-- PCIE_LINK_DOWN. -/
def execPcieLinkDown (port : Nat) (s : State) : Host.Outcome State Fault Refusal := .next { s with core := s.core.linkDown port }

/-- PERST_ASSERT: the port leaves the active state (Table 17-9). Step 5 waits for a PERST# again where no port is left that could train (Table 17-6). -/
def execPerstAssert (port : Nat) (s : State) : Host.Outcome State Fault Refusal :=
  .next (
    let c := (s.core.linkDown port).modPort port (fun p => { p with perst := true })
    { s with core := c, power := if s.power.stage == 5 && (c.port 0).perst && (c.port 1).perst then { s.power with waitFor := 2 } else s.power })

/-- HEARTBEAT_TIMEOUT: watching is on and no heartbeat has come within PCI_WATCH_MS (R437). -/
def execHeartbeatTimeout (port : Nat) (s : State) : Host.Outcome State Fault Refusal :=
  .next { s with core :=
    if s.core.reg rWatchMs != 0 && (s.core.port port).trained && decide (1000 * s.core.reg rWatchMs ≤ (s.core.port port).sinceBeat) then s.core.losePort port
    else s.core }

end Sys2Proof.Machine
end

