-- ==== Sys2Proof/Machine/Links.lean ====
section
/-!
DEFINITION. Sys2Proof/Machine/Links.lean: Farger ports: training (R378 to R384), frames sent with their credits (R373 to R377), retry and
lanes (R385 to R390), transit (R391 to R394).
-/

namespace Sys2Proof.Machine

/-! Positions (Table 13-4). -/

def posOff : Nat := 0x00
def posDetect : Nat := 0x01
def posLock : Nat := 0x02
def posAlign : Nat := 0x03
def posVersion : Nat := 0x04
def posIdentity : Nat := 0x05
def posCredit : Nat := 0x06
def posUp : Nat := 0x07
def posFailDetect : Nat := 0x80
def posFailEqualise : Nat := 0x81
def posFailLock : Nat := 0x82
def posFailAlign : Nat := 0x83
def posFailVersion : Nat := 0x84
def posFailIdentity : Nat := 0x85
def posFailLanes : Nat := 0x86
def posFailTimeout : Nat := 0x87
def posDown : Nat := 0x88

/-- Ports 24 to 31 are copper (R369). -/
def isCopper (p : Nat) : Bool := decide (24 ≤ p)

/-- Lanes of a port, and the fewest that it works on (Table 13-1, R379). -/
def laneCount (p : Nat) : Nat := if isCopper p then 4 else 8
def minLanes (p : Nat) : Nat := if isCopper p then 2 else 4

/-- Whether a port is UP. -/
def Link.up (l : Link) : Bool := l.position == posUp

/-- Whether a port is UP or in a failure position (R382). -/
def Link.settled (l : Link) : Bool := l.up || decide (posFailDetect ≤ l.position)

/-- Whether a port trains. -/
def Link.training (l : Link) : Bool := decide (posDetect ≤ l.position) && decide (l.position ≤ posCredit)

/-- Whether a port is enabled (FAR_PORT_ENABLE). -/
def Core.portEnabled (c : Core) (p : Nat) : Bool := bit (c.reg rPortEnable) p

/-! Training. -/

/-- The ports that are done are counted; step 7 ends with the last enabled one (Table 17-5, R382). -/
def State.settle (s : State) : State :=
  let n := ((List.range 32).filter (fun p => (s.link p).settled)).length
  let all := (List.range 32).all (fun p => !s.core.portEnabled p || (s.link p).settled)
  let s := { s with power := { s.power with portsDone := n } }
  if s.power.stage == 7 && s.power.waitFor == 0 && all then { s with power := { s.power with stage := 8 } } else s

/-- A port enters DETECT: its settings are latched, its retired lanes left out (R378, R379, R390); a copper port offers its generations
(R380). -/
def Link.begin (l : Link) (c : Core) (p : Nat) : Link :=
  let allow := isCopper p && bit (c.reg rGen1Allow) (p - 24)
  { l with position := posDetect, lanes := [], passed := (List.range (laneCount p)).filter (fun i => !l.retired.contains i),
           gen := if isCopper p then 0 else 2, planeB := !isCopper p && bit (c.reg rPortPlane) p, allow1 := allow, expect := c.reg (rPeerExpect p),
           laneRetries := [], portRetries := 0, uncorrWindow := [], discarding := false, rx := [],
           wire := if isCopper p then l.wire ++ [.basePage allow true] else l.wire }

/-- Training begins on a port (R378). -/
def State.train (s : State) (p : Nat) : State := s.modLink p (fun l => l.begin s.core p)

/-- Training on every enabled port (Table 17-5 step 7). -/
def State.trainAll (s : State) : State := ((List.range 32).filter s.core.portEnabled).foldl State.train s

/-- A port goes to a failure position, and start-up looks whether it is done. -/
def State.failPort (s : State) (p pos : Nat) : State := (s.modLink p (fun l => { l with position := pos })).settle

/-- The lanes that passed a position, where they suffice for the next one. -/
def State.lanesPassed (s : State) (p : Nat) (ok : List Nat) (next fail : Nat) : State :=
  let l := (s.link p).passed.filter ok.contains
  if l.length < minLanes p then s.failPort p fail else s.modLink p (fun x => { x with passed := l, position := next })

/-- One outcome of DETECT to ALIGN (R379, Table 13-5). A copper port leaves DETECT by its base page only. -/
def State.trainEvent (s : State) (p : Nat) (e : TrainEvent) : State :=
  let pos := (s.link p).position
  match e with
  | .start => if s.power.stage == 7 && s.power.waitFor == 0 && s.core.portEnabled p && pos == posOff then s.train p else s
  | .noSignal => if pos == posDetect then s.failPort p posFailDetect else s
  | .detected => if pos == posDetect && !isCopper p then s.modLink p (fun l => { l with position := posLock }) else s
  | .lanesReady ok => if pos == posLock then s.lanesPassed p ok posAlign (if isCopper p then posFailEqualise else posFailLock) else s
  | .aligned ok =>
    if pos == posAlign then
      let s := s.lanesPassed p ok posVersion posFailAlign
      if (s.link p).position == posVersion then s.modLink p (fun l => { l with wire := l.wire ++ [.train (.version 1 l.passed)] }) else s
    else s

/-- PORT_TRAINING. -/
def execPortTraining (port : Nat) (e : TrainEvent) (s : State) : Host.Outcome State Fault Refusal := .next (s.trainEvent port e)

/-- BASE_PAGE (R380, Table 13-5). -/
def execBasePage (port : Nat) (gen1 gen2 : Bool) (s : State) : Host.Outcome State Fault Refusal :=
  .next (
    let l := s.link port
    if !isCopper port || l.position != posDetect then s
    else if gen2 then s.modLink port (fun l => { l with gen := 2, position := posLock })
    else if gen1 && l.allow1 then s.modLink port (fun l => { l with gen := 1, position := posLock })
    else s.failPort port posFailVersion)

/-- What this device sends in IDENTITY (R381): on an optical port its name in the port's plane. -/
def State.identity (s : State) (p : Nat) : TrainMsg :=
  .identity (s.core.selfId + place (b2n (s.link p).planeB) 1 14) s.core.part.pos p Config.identityDigest

/-- Whether a peer's identity fits a port (R381). -/
def State.identityOk (s : State) (p name position port : Nat) : Bool :=
  let l := s.link p
  let id := s.core.selfId
  let kind := if isCopper p then name % 2 ^ 14 / 8 == id / 8 && position == p - 24 && port == 24 + s.core.part.pos else bit name 14 == l.planeB
  kind && (!bit l.expect 31 || (name == bits l.expect 15 0 && port == bits l.expect 20 16 + (if isCopper p then 24 else 0)))

/-- Receive buffers by channel (Table 13-3). -/
def bufferUnits (p : Nat) : List Nat := if isCopper p then [256, 256, 64, 512] else [512, 512, 64, 1024]

/-- Units of payload that the replay queue of a port holds (R386). -/
def replayUnits (p : Nat) : Nat := if isCopper p then 1024 else 2048

/-- VERSION (R379, R384): the common lanes, then the revision. A generation-1 peer's revision is not compared. -/
def State.trainVersion (s : State) (p revision : Nat) (lanes : List Nat) : State :=
  let l := s.link p
  let both := l.passed.filter lanes.contains
  if both.length < minLanes p then s.failPort p posFailLanes
  else if (l.gen == 2 && revision != 1) || (l.gen == 1 && decide (4095 < s.core.selfId)) then s.failPort p posFailVersion
  else s.modLink p (fun l => { l with passed := both, position := posIdentity, wire := l.wire ++ [.train (s.identity p)] })

/-- IDENTITY. -/
def State.trainIdentity (s : State) (p name position port : Nat) : State :=
  if s.identityOk p name position port then
    s.modLink p (fun l => { l with peer := name, position := posCredit, wire := l.wire ++ [.train (.credit (bufferUnits p))] })
  else s.failPort p posFailIdentity

/-- CREDIT: the peer's buffers are the first credits, sequences are 0, and the port is UP on its lanes (R376, Table 13-4). -/
def State.trainCredit (s : State) (p : Nat) (units : List Nat) : State :=
  if (s.link p).passed.length < minLanes p then s
  else (s.modLink p (fun l =>
    { l with position := posUp, lanes := l.passed, credits := units.mapIdx (fun i n => (i, n)), owed := [], txSeq := 0, rxSeq := 0,
             ackOwed := false, replay := [], sent := 0, waited := [] })).settle

/-- TRAIN_FRAME. -/
def execTrainFrame (port : Nat) (m : TrainMsg) (s : State) : Host.Outcome State Fault Refusal :=
  .next (
    let pos := (s.link port).position
    match m with
    | .version r lanes => if pos == posVersion then s.trainVersion port r lanes else s
    | .identity n q p _ => if pos == posIdentity then s.trainIdentity port n q p else s
    | .credit units => if pos == posCredit then s.trainCredit port units else s)

/-- TRAINING_TIMEOUT (R382). -/
def execTrainingTimeout (port : Nat) (s : State) : Host.Outcome State Fault Refusal :=
  .next (if (s.link port).training then s.failPort port posFailTimeout else s)

/-! Lanes and loss (R388 to R390). -/

/-- A port that was UP goes DOWN: a LINK fault while a job runs (R389). -/
def State.portDown (s : State) (p : Nat) : State :=
  let s := s.modLink p (fun l => { l with position := posDown })
  if s.core.mgt.active then { s with core := s.core.raise { cls := clsLink, status := stOk, unit := p, detail := posUp } } else s

/-- The wire with a LANE_SET put on it. One on which nothing has gone out since but frames without a sequence is still under way: the new one, which names
the fewer lanes, takes its place (Table 13-8). -/
def Link.sayLanes (l : Link) (lanes : List Nat) : List WireFrame :=
  let idle (f : WireFrame) : Bool := match f with | .data _ _ _ _ _ => false | _ => true
  let late := (l.wire.reverse.takeWhile idle).reverse
  let early := l.wire.take (l.wire.length - late.length)
  early ++ late.filter (fun f => match f with | .laneSet _ _ => false | _ => true) ++ [.laneSet l.rxSeq lanes]

/-- The lanes that leave a port for good: into the retirement record, sending rewound (R389, R390); too few left, and the port goes
DOWN. -/
def State.dropLanes (s : State) (p : Nat) (gone : List Nat) (say : Bool) : State :=
  let l := s.link p
  let keep := l.lanes.filter (fun i => !gone.contains i)
  let out := l.lanes.filter gone.contains
  if out.isEmpty then s
  else
    let s := s.modLink p (fun l => { l with lanes := keep, retired := l.retired ++ out, sent := 0,
                                            wire := if say then l.sayLanes keep else l.wire, ackOwed := l.ackOwed && !say,
                                            position := if keep.length < minLanes p then posDown else l.position })
    let s := { s with core := s.core.bumpBy (kFarPort p 1) out.length }
    if keep.length < minLanes p then s.portDown p else s

/-- A retry charged to a lane. -/
def Link.charge (l : Link) (lane : Nat) : Link := { l with laneRetries := kvPut l.laneRetries lane (spGet 0 l.laneRetries lane + 1) }

/-- An uncorrectable codeword of a lane counted (R372, R388). -/
def Link.failCode (l : Link) (lane : Nat) : Link := { l with uncorrWindow := kvPut l.uncorrWindow lane (spGet 0 l.uncorrWindow lane + 1) }

/-- The codewords of a frame that failed, each by its lane, and one retry charged to each lane among them: those with more than 8 in the window are retired,
by one LANE_SET (R372, R388, Table 13-8). -/
def State.chargeLanes (s : State) (p : Nat) (codewords : List Nat) : State :=
  let lanes := codewords.eraseDups
  let s := { s.modLink p (fun l => lanes.foldl Link.charge (codewords.foldl Link.failCode l)) with
             core := codewords.foldl (fun c i => c.bump (kFecUncorr p i)) s.core }
  s.dropLanes p (lanes.filter (fun i => decide (8 < spGet 0 (s.link p).laneRetries i))) true

/-- A retry charged to the port: more than 8 in the window take it DOWN (R388). -/
def State.chargePort (s : State) (p : Nat) : State :=
  let n := (s.link p).portRetries + 1
  let s := s.modLink p (fun l => { l with portRetries := n })
  if 8 < n then s.portDown p else s

/-- BAD_FRAME: discarded with every later frame, and a NAK sent (R385); the lane of every codeword of it that could not be corrected
is named, once for each codeword, and is charged, or with none the port (R388). A header that names more than 64 units or kind 7 is such a frame (Table 13-2). -/
def execBadFrame (port : Nat) (lanes : List Nat) (s : State) : Host.Outcome State Fault Refusal :=
  .next (
    if !(s.link port).up then s
    else
      let s := s.modLink port (fun l => { l with discarding := true, ackOwed := false, wire := l.wire ++ [.nak l.rxSeq] })
      if lanes.isEmpty then s.chargePort port else s.chargeLanes port lanes)

/-- LANE_RATE_WINDOW: the end of a lane's 1 s window (R388): 16 errors a codeword against 10⁻⁹ of the bits carried. The symbols corrected in it
are counted, of a port that has gone down in it too (R372). -/
def execLaneRateWindow (port lane : Nat) (window : LaneWindow) (s : State) : Host.Outcome State Fault Refusal :=
  .next (
    let n := spGet 0 (s.link port).uncorrWindow lane
    let t := { s with core := s.core.bumpBy (kFecCorr port lane) window.corrected }
    if !(s.link port).up then t
    else
      let t := t.modLink port (fun l => { l with uncorrWindow := kvDel l.uncorrWindow lane })
      if window.dataBits < 16 * n * 10 ^ 9 then t.dropLanes port [lane] true else t)

/-- PEER_SIGNAL_LOST: on every lane (R389). -/
def execPeerSignalLost (port : Nat) (s : State) : Host.Outcome State Fault Refusal :=
  .next (if (s.link port).up then s.portDown port else s)

/-- The 1 ms windows of every port end (R388): each hundredth decision of the regulator. -/
def Link.endWindow (l : Link) : Link := { l with laneRetries := [], portRetries := 0 }

/-! Acknowledgements and credits (R374, R376, R385). -/

/-- Bits of the pointers of a Farger port's edge FIFOs (Table 12-5). -/
def linkBits : Nat := 8

/-- Frames up to an acknowledged one released from the replay queue. -/
def Link.release (l : Link) (ack : Nat) : Link :=
  match l.replay.findIdx? (fun e => e.seq == ack) with
  | some i => if i < l.sent then { l with replay := l.replay.drop (i + 1), sent := l.sent - (i + 1) } else l
  | none => l

/-- Credits returned by the peer. -/
def Link.credit (l : Link) (vc n : Nat) : Link := if n = 0 then l else { l with credits := kvPut l.credits vc (spGet 0 l.credits vc + n) }

/-- The acknowledgement and the credits of a frame's header read. -/
def Link.header (l : Link) (r : Returns) : Link := (l.release r.ack).credit r.creditVc r.credit

/-- A frame without a sequence, one unit, read. -/
def Link.control (l : Link) (r : Returns) : Link := { l.header r with inEdge := l.inEdge.pass linkBits 1 }

/-- The same for a port; one that is not UP reads nothing (R382). -/
def State.control (s : State) (p : Nat) (r : Returns) : State := if (s.link p).up then s.modLink p (fun l => l.control r) else s

/-- ACK_FRAME. -/
def execAckFrame (port : Nat) (r : Returns) (s : State) : Host.Outcome State Fault Refusal := .next (s.control port r)

/-- NAK_FRAME: sending goes on from the frame after the acknowledged one. -/
def execNakFrame (port : Nat) (r : Returns) (s : State) : Host.Outcome State Fault Refusal :=
  .next (if (s.link port).up then (s.control port r).modLink port (fun l => { l with sent := 0 }) else s)

/-- IDLE_FRAME: its ack and credit fields are read. -/
def execIdleFrame (port ack creditVc credit : Nat) (s : State) : Host.Outcome State Fault Refusal :=
  .next (s.control port { ack := ack, creditVc := creditVc, credit := credit })

/-- CREDIT_FRAME. -/
def execCreditFrame (port ack : Nat) (r : Credits) (s : State) : Host.Outcome State Fault Refusal :=
  .next (s.control port { ack := ack, creditVc := r.creditVc, credit := r.credit })

/-- LANE_SET: the peer has retired the lanes that it does not name (R389). -/
def execLaneSet (w : Head) (lanes : List Nat) (s : State) : Host.Outcome State Fault Refusal :=
  .next (
    if (s.link w.port).up then
      let s := s.control w.port w.toReturns
      s.dropLanes w.port ((s.link w.port).lanes.filter (fun i => !lanes.contains i)) false
    else s)

/-- The credits that the next frame's header returns: those of the first channel that is owed some. -/
def Link.owedNow (l : Link) : Nat × Nat := match l.owed with | (vc, n) :: _ => (vc, min n 16383) | [] => (0, 0)

/-- Those credits no longer owed. -/
def Link.paid (l : Link) : Link := let o := l.owedNow; if o.2 = 0 then l else { l with owed := spPut 0 l.owed o.1 (spGet 0 l.owed o.1 - o.2) }

/-- ACK_TIMER: an ACK frame, where one is owed and no other frame has carried it; it returns credits too. -/
def execAckTimer (port : Nat) (s : State) : Host.Outcome State Fault Refusal :=
  .next (
    if (s.link port).up && (s.link port).ackOwed then
      s.modLink port (fun l => { l.paid with ackOwed := false, outEdge := l.outEdge.pass linkBits 1, wire := l.wire ++ [.ack l.rxSeq l.owedNow.1 l.owedNow.2] })
    else s)

/-! Receiving (R374 to R376, R385). -/

/-- Frames and units that a transaction's bytes take on a port: 64 payload units a frame, 32 in generation 1 (R383), and a header each (R376). -/
def Link.frames (l : Link) (bytes : Nat) : Nat := max 1 (ceilDiv bytes (if l.gen == 1 then 2048 else 4096))
def Link.units (l : Link) (bytes : Nat) : Nat := unitCount bytes + l.frames bytes

/-- Whether a clean frame is the next in order on a port that is UP; any other is discarded, as is all that a bad frame leaves behind until the rewound
frame comes (R382, R385). -/
def Link.inOrder (l : Link) (w : Head) : Bool := l.up && w.seq == (l.rxSeq + 1) % 65536

/-- Frames in order taken in: the header read, their last number owed an acknowledgement. -/
def Link.receive (l : Link) (w : Head) (bytes : Nat) : Link :=
  { l.header w.toReturns with rxSeq := (l.rxSeq + l.frames bytes) % 65536, ackOwed := true, discarding := false, inEdge := l.inEdge.pass linkBits (l.units bytes) }

/-- Units that have left a receive buffer: their credits are owed (R376). -/
def Link.owe (l : Link) (vc units : Nat) : Link := { l with owed := spPut 0 l.owed vc (spGet 0 l.owed vc + units) }

/-- The job side after frames have been accepted: where they end a retry, it is counted (R387). -/
def State.retryCounted (s : State) (p : Nat) : Core := if (s.link p).discarding then s.core.bump (kFarPort p 0) else s.core

/-- A transaction whose frames are accepted and leave their receive buffer at once. -/
def State.accept (s : State) (w : Head) (vc bytes : Nat) : State :=
  let l := s.link w.port
  { s.setLink w.port ((l.receive w bytes).owe vc (l.units bytes)) with core := s.retryCounted w.port }

/-- A transaction whose frames are accepted and stay in their receive buffer. -/
def State.hold (s : State) (w : Head) (vc bytes : Nat) (cmd : Instr) : State :=
  let l := s.link w.port
  let l' := l.receive w bytes
  { s.setLink w.port { l' with rx := l'.rx ++ [{ vc := vc, units := l.units bytes, cmd := cmd }] } with core := s.retryCounted w.port }

/-! Sending (R376, R377). -/

/-- The words of a port's receive buffers and replay queue are checked where they leave (R361, Table 13-8): the job side after it, and whether it was
clean. -/
def State.portSensed (s : State) (p : Nat) : Core × Bool :=
  match (senseWord (.queue (qPort p)) 0).run s.core with
  | .ok _ c => (c, true)
  | .error f c => (c.raise f, false)

/-- Units that a frame needs (R376). -/
def frameUnits (f : Frame) : Nat := unitCount f.data.length + 1

/-- Where a frame that came in for another device goes on, one hop fewer left: none where it cannot (R383, R384, R392 to R394). -/
def State.transit (s : State) (w : Head) (f : Frame) : Option (Nat × Frame) :=
  if s.core.isSelf f.txn.dst || (s.link w.port).gen == 1 || f.hops == 0 then none
  else match s.core.outPort f.txn.src f.txn.dst with
    | none => none
    | some p => if s.core.route.gen1.contains p then none else some (p, { f with hops := f.hops - 1 })

/-- The attachments of the hub switch (R369): the 32 ports, and the bridges of forge dies 0 and 1. -/
def attachments : Nat := 34

/-- The first frame of a channel that an input holds for an output port: of a bridge the first queued, of a port the head of its receive
buffer. -/
def State.inputHead (s : State) (p vc i : Nat) : Option Frame :=
  if 32 ≤ i then (s.core.fabric.tx.find? (fun e => e.1 == p && e.2.1 == i && e.2.2.vc == vc)).map (fun e => e.2.2)
  else match (s.link i).rx.find? (fun h => h.vc == vc) with
    | some { cmd := .frameForward w f, .. } =>
      match s.transit w f with
      | some (q, g) => if q == p then some g else none
      | none => none
    | _ => none

/-- The next frame of a channel at an output port: its inputs in turn, from the one after the last served (R377). -/
def State.txHead (s : State) (p vc : Nat) : Option (Nat × Frame) :=
  let last := (kvGet (s.link p).lastIn vc).getD 33
  ((List.range attachments).map (fun k => (last + 1 + k) % attachments)).findSome? (fun i => (s.inputHead p vc i).map (fun f => (i, f)))

/-- Units in the replay queue. -/
def Link.held (l : Link) : Nat := l.replay.foldl (fun n e => n + frameUnits e.frame) 0

/-- The channel that a port serves next: SYNC first, the others in turn, of those that hold a frame, its credits and room for it; with the input and the
frame. -/
def State.nextVc (s : State) (p : Nat) : Option (Nat × Nat × Frame) :=
  let l := s.link p
  let turn := match l.lastVc with | 0 => [vcRsp, vcBulk, vcReq] | 1 => [vcBulk, vcReq, vcRsp] | _ => [vcReq, vcRsp, vcBulk]
  (vcSync :: turn).findSome? (fun vc =>
    match s.txHead p vc with
    | some (i, f) => if frameUnits f ≤ spGet 0 l.credits vc && decide (l.held + frameUnits f ≤ replayUnits p) then some (vc, i, f) else none
    | none => none)

/-- A data frame on the wire, with the acknowledgement that its header carries. A frame sent again carries the credits that it carried first: the receiver,
which discarded it, has not read them. -/
def Link.put (l : Link) (k : Kept) : Link :=
  { l with wire := l.wire ++ [.data k.seq l.rxSeq k.creditVc k.credit k.frame], ackOwed := false, outEdge := l.outEdge.pass linkBits (frameUnits k.frame) }

/-- A frame leaves its input: the queue of a bridge, or the receive buffer of a port, whose units are then owed. -/
def State.leave (s : State) (p vc i : Nat) : State :=
  if 32 ≤ i then
    { s with core := { s.core with fabric := { s.core.fabric with tx := dropFirst (fun e => e.1 == p && e.2.1 == i && e.2.2.vc == vc) s.core.fabric.tx } } }
  else s.modLink i (fun l => match l.rx.find? (fun h => h.vc == vc) with
    | some h => { l with rx := dropFirst (fun h => h.vc == vc) l.rx }.owe vc h.units
    | none => l)

/-- A waiting frame sent: it leaves its input and is kept for replay. -/
def State.sendFrame (s : State) (p vc i : Nat) (f : Frame) : State :=
  (s.leave p vc i).modLink p (fun l =>
    let n := (l.txSeq + 1) % 65536
    let k : Kept := { seq := n, creditVc := l.owedNow.1, credit := l.owedNow.2, frame := f }
    { l.paid.put k with txSeq := n, replay := l.replay ++ [k], sent := l.sent + 1, credits := kvPut l.credits vc (spGet 0 l.credits vc - frameUnits f),
                        waited := l.waited.filter (· != vc), lastVc := if vc == vcSync then l.lastVc else vc, lastIn := kvPut l.lastIn vc i })

/-- Whether the next frame of a channel waits for credits and has not been counted yet. -/
def State.unseenWait (s : State) (p vc : Nat) : Bool :=
  match s.txHead p vc with
  | some (_, f) => decide (spGet 0 (s.link p).credits vc < frameUnits f) && !(s.link p).waited.contains vc
  | none => false

/-- The wait of a channel's next frame for credits counted once (R376). -/
def State.countWaits (s : State) (p : Nat) : State :=
  [vcReq, vcRsp, vcSync, vcBulk].foldl (fun s vc =>
    if s.unseenWait p vc then { s.modLink p (fun l => { l with waited := vc :: l.waited }) with core := s.core.bump (kFarPort p 2) } else s) s

/-- Credits returned on their own, where no frame is there to carry them: a CREDIT frame. -/
def Link.payBack (l : Link) : Link :=
  { l.paid with ackOwed := false, outEdge := l.outEdge.pass linkBits 1, wire := l.wire ++ [.credit l.rxSeq l.owedNow.1 l.owedNow.2] }

/-- Whether a port has something to send, or a wait for credits to count. -/
def State.sends (s : State) (p : Nat) : Bool :=
  let l := s.link p
  l.up && ((l.replay[l.sent]?).isSome || (s.nextVc p).isSome || !l.owed.isEmpty || [vcReq, vcRsp, vcSync, vcBulk].any (s.unseenWait p))

/-- The state after the words of a port's queues have been checked; a frame with a word that cannot be corrected still goes, and the fault holds the
device. -/
def State.sensed (s : State) (p : Nat) : State := { s with core := (s.portSensed p).1 }

/-- What a port does next: new waits for credits counted; then a frame of its replay queue that is to go again (R385), a waiting one, or the credits that
it owes. -/
def State.linkStep (s : State) (p : Nat) : State :=
  if !(s.link p).up then s
  else
    let s := s.countWaits p
    match (s.link p).replay[(s.link p).sent]? with
    | some k => (s.sensed p).modLink p (fun l => { l.put k with sent := l.sent + 1 })
    | none =>
      match s.nextVc p with
      | some (vc, i, f) => (s.sensed p).sendFrame p vc i f
      | none => if (s.link p).owed.isEmpty then s else s.modLink p Link.payBack

/-! Transit (R383, R384, R391 to R394). -/

/-- A frame that cannot be forwarded: a fault of this device. -/
def Core.refuseTransit (c : Core) (f : Frame) : Core :=
  c.raise { cls := clsFabric, status := stFormat, unit := f.txn.dst, detail := f.txn.op, addr := f.txn.addr }

/-- A frame for another device that does not go on: misrouted on a generation-1 port (R384), out of hops (R394), or without a port that may carry it. -/
def State.dropTransit (s : State) (w : Head) (f : Frame) : State :=
  { s with core :=
      if (s.link w.port).gen == 1 then s.core.bump (kFar 1)
      else if f.hops == 0 then (s.core.bump (kFar 0)).refuseTransit f
      else s.core.refuseTransit f }

/-- The reserved transaction ops (Table 14-3). -/
def reservedOp (op : Nat) : Bool := op == 0 || (decide (5 ≤ op) && decide (op ≤ 7)) || (decide (0x0C ≤ op) && decide (op ≤ 0x0F)) || decide (0x17 ≤ op)

end Sys2Proof.Machine
end

