-- ==== Sys2Proof/Machine/Restart.lean ====
section
/-!
DEFINITION. Sys2Proof/Machine/Restart.lean: the restart wave as it arrives (R452, R453), what a warm reset keeps and clears (R454), the
restart limit (R455).
-/

namespace Sys2Proof.Machine

/-! The wave. -/

/-- A WAVE record (Table 16-3), once for each wave number and origin; none for a wave that this device started. -/
def Core.logWave (c : Core) (port number origin status : Nat) : Core :=
  if c.isSelf origin || c.mgt.waveSeen.contains (number, origin) then c
  else ({ c with mgt := { c.mgt with waveSeen := (number, origin) :: c.mgt.waveSeen } }).logFault { cls := clsWave, status := status, unit := port } origin
    number

/-- A wave handled by its number (R453): dropped below the current one; with no job, recorded and forwarded only; else acted on once. A
wave that reaches a warm reset with a later number is acted on after it, the latest one first. -/
def Core.waveArrives (c : Core) (port number origin status sender : Nat) : Core :=
  let idle := !c.mgt.active || c.mgt.jobState == .stopped
  if !idle && decide (number < c.mgt.waveNum) then c
  else
    let d := c.logWave port number origin status
    if idle then d.forwardWave number origin status (some sender)
    else match c.mgt.jobState with
      | .quiesced => ({ d with mgt := { d.mgt with waveNum := number } }).forwardWave number origin status (some sender)
      | .resetting =>
        let later := decide (d.mgt.waveNum < number) && (match d.mgt.waveHeld with | some h => decide (h.1 < number) | none => true)
        ({ d with mgt := { d.mgt with waveHeld := if later then some (number, origin, status) else d.mgt.waveHeld } }).forwardWave number origin status
          (some sender)
      | _ => d.quiesce number origin status (some sender)

/-! The warm reset (R454). -/

/-- A marked row copied, corrected, into its channel's lowest spare row (R346); the 64th stays in service (R347). -/
def Core.retireRow (c : Core) (r : Nat × Nat) : Core :=
  let n := (c.dram.retiredRows.filter (fun x => x.1 == r.1)).length
  let mine (w : Nat) : Bool := decide ((r.1 * channelBytes + r.2 * 2048) / 16 ≤ w) && decide (w < (r.1 * channelBytes + r.2 * 2048) / 16 + 128)
  if 64 ≤ n then c
  else
    { c with dram := { c.dram with retiredRows := c.dram.retiredRows ++ [r],
                                   errors := if n == 63 then c.dram.errors else c.dram.errors.filter (fun e => !(mine e.1 && e.2 == 1)) },
             counters := spPut 0 c.counters (kRowRetired r.1) (n + 1) }

/-- Every marked row remapped. -/
def Core.remapRows (c : Core) : Core :=
  let c := c.dram.marked.foldl Core.retireRow c
  { c with dram := { c.dram with marked := [] } }

/-- A ring that a warm reset disables, with no record for any started descriptor. -/
def Ring.quieted (x : Ring) : Ring := { x with enabled := false, fetched := [], started := [] }

/-- Whether an error word lies in what the reset clears: scratch, lesson memory, accumulator stores, scatter buffers, queues and paths. -/
def inClearedStores (w : Nat) : Bool := (decide (scratchStart / 16 ≤ w) && decide (w < hubStart / 16)) || decide (2 ^ 45 ≤ w)

/-- What the reset leaves of the fabric: frames under way to other devices, and the counters of tags (R420, Table 13-8). -/
def Fabric.quieted (f : Fabric) : Fabric := { nextTag := f.nextTag, nextXfer := f.nextXfer, tx := f.tx }

/-- What the reset leaves of the Bellows: the seating plan. -/
def Bellows.quieted (b : Bellows) : Bellows :=
  { lastEpoch := b.lastEpoch, activeBank := b.activeBank, activeRev := b.activeRev, standbyRev := b.standbyRev, effectiveStep := b.effectiveStep }

/-- What the reset leaves of the Crucible: its last steps, and the non-finite counts that a restore clears (R462). -/
def Crucible.quieted (x : Crucible) : Crucible := { lastRun := x.lastRun, lastDone := x.lastDone, nonFinite := x.nonFinite }

/-- The warm reset of R454, with the remapping of R346; the lines of the hash accumulator are cleared in the hub SRAM that holds them. -/
def Core.warmReset (c : Core) : Core :=
  let c := c.remapRows
  { c with hearths := c.hearths.map (fun p => (p.1, { storageFaults := p.2.storageFaults })), scratchEpoch := c.scratchEpoch + 1, smithies := [], tt := {},
           hash := {}, hub := c.clearedLines, bellows := c.bellows.quieted, crucible := c.crucible.quieted, sync := {}, pools := {}, fabric := c.fabric.quieted,
           dram := { c.dram with errors := c.dram.errors.filter (fun e => !inClearedStores e.1) },
           ports := c.ports.map (fun p => (p.1, { p.2 with rings := p.2.rings.map (fun r => (r.1, Ring.quieted r.2)) })), snap := {} }

/-- What came during the warm reset is acted on after it: a later wave, whose own reset begins at once where it has come down from the root already (R453), or a
fault of this device, under the next wave number (Table 16-8). -/
def Core.afterReset (c : Core) (wave : Option (Nat × Nat × Nat)) (fault : Bool) : Core :=
  match wave.filter (fun w => decide (c.mgt.waveNum ≤ w.1)) with
  | some (number, origin, status) =>
    let c := c.quiesce number origin status none
    if c.mgt.waveDown.contains number then c.beginReset number else c
  | none => if fault then c.quiesce c.mgt.waveNum c.selfName (match c.mgt.faultLog.getLast? with | some r => r.req.status | none => stOk) none else c

/-- The end of the warm reset (Table 16-4 step 6): RESTARTED with vector 64, or STOPPED after a teardown, a lost snapshot or past the restart
limit (R455, R464). -/
def Core.resetEnd (c : Core) : Core :=
  let c := c.warmReset
  let n := satAdd 8 c.mgt.restartCount 1
  let past := c.mgt.overLimit || decide (c.reg rRestartLimit < c.mgt.restartCount + 1)
  let stop := c.mgt.torn || past
  let c := { c with mgt := { c.mgt with waveNum := (c.mgt.waveNum + 1) % 65536, restartCount := n, overLimit := past,
                                        jobState := if stop then .stopped else .restarted, active := !stop } }
  let c := c.vectorAll 64
  let m := c.mgt
  let c := { c with mgt := { m with faultHeld := false, waveHeld := none } }
  if stop then c else c.afterReset m.waveHeld m.faultHeld

/-- WARM_RESET_END; not enabled outside a warm reset (entry 6). -/
def execWarmResetEnd (s : State) : Host.Outcome State Fault Refusal :=
  .next { s with core := if s.core.mgt.active && s.core.mgt.jobState == .resetting then s.core.resetEnd else s.core }

end Sys2Proof.Machine
end

