-- ==== Sys2Proof/Machine/Jobs.lean ====
section
/-!
DEFINITION. Sys2Proof/Machine/Jobs.lean: set-up registers whose write acts (Tables 18-4 to 18-10): who may write (R497), job start and end (R499),
the fault log, the device id, pool sets, retraining, teardown, ring enables, heartbeats.
-/

namespace Sys2Proof.Machine

/-! Who may write (R497, Table 18-3). -/

/-- The owner of a register in two-tenant mode; the registers of Table 18-3 that hold bits of both tenants are `bits`. -/
inductive RegOwner where
  | device | tenant (t : Nat) | bits
  deriving DecidableEq, Repr

/-- Table 18-3. -/
def Core.regOwner (c : Core) (off : Nat) : RegOwner :=
  let o := off % 0x100000
  match off / 0x100000 with
  | 1 =>
    if 0x8000 ≤ o && o < 0x9000 then .tenant (if (o - 0x8000) / 16 < 128 then 0 else 1)
    else if o == 0x10 || o == 0x18 then .bits
    else .device
  | 3 => .tenant (c.hearthTenant (o / 0x1000))
  | 4 => .tenant (c.smithyTenant (o / 0x1000))
  | 8 => if o == 0x08 then .bits else if 0x400 ≤ o && o < 0x800 then .tenant (requesterTenant (o % 0x200 / 8)) else .device
  | 11 => if 0x10000 ≤ o && o < 0x30000 then .tenant (o / 0x10000 - 1) else .device
  | _ => .device

/-- Whether a port may write a register; the end of a job and the teardown are exempt from the second condition (R497). -/
def Core.mayWrite (c : Core) (via off : Nat) (exempt : Bool := false) : Bool :=
  !c.twoTenant || match c.regOwner off with
    | .device => via == 0 && (exempt || !c.mgt.active)
    | .tenant t => via == t
    | .bits => true

/-- A write that is refused (PCI_REG_REFUSED). -/
def Core.refuseWrite (c : Core) (via : Nat) : Core := c.bump (kPci via 2)

/-- A register write comes in over a port (R365). -/
def State.heard (s : State) (via : Nat) : State := { s with core := s.core.hostIn via }

/-- A write over a port: nothing where its link is not active (entry 6), refused, or done. -/
def State.written (s : State) (via off : Nat) (exempt : Bool) (f : State → State) : State :=
  if !(s.core.port via).trained then s
  else if s.core.mayWrite via off exempt then f s
  else { s with core := s.core.refuseWrite via }

/-! Job start (R499). -/

/-- Whether every ring of both ports is disabled and idle. -/
def Core.ringsIdle (c : Core) : Bool := [0, 1].all (fun q => (c.port q).rings.all (fun r => !r.2.enabled && r.2.started.isEmpty))

/-- The Hearths that would be enabled: not fused off, retired or disabled (R1, R3, R500). -/
def Core.enabledHearths (c : Core) (retired : List Nat) : List Nat :=
  let dis := c.reg rHearthDisable0 + c.reg rHearthDisable1 <<< 64
  (List.range 88).filter (fun h => !c.part.fused.contains h && !retired.contains h && !bit dis h)

/-- The channels in the order of `active[]` without the retired ones (R338). -/
def activeChannels (retired : List Nat) : List Nat :=
  ((List.range 64).map (fun i => i / 2 + 32 * (i % 2))).filter (fun ch => !retired.contains ch)

/-- Channels whose retired rows reach 64 with those that are marked (R347, entry 69). -/
def Dram.spent (d : Dram) : List Nat :=
  (List.range 64).filter (fun ch => !d.retiredChannels.contains ch && decide (64 ≤ ((d.retiredRows ++ d.marked).filter (fun r => r.1 == ch)).length))

/-- Step 1: pending retirements (R347, R448). -/
def Core.retirePending (c : Core) : Core :=
  let gone := c.dram.retiredChannels ++ c.dram.spent
  { c with dram := { c.dram with retiredChannels := gone, active := activeChannels gone },
           mgt := { c.mgt with retiredHearths := c.mgt.retiredHearths ++ c.mgt.pendingRetire.filter (fun h => !c.mgt.retiredHearths.contains h),
                               pendingRetire := [] } }

/-- Whether a register's value is latched at a job start (Table 18-2). -/
def latchedAtJob (off : Nat) : Bool :=
  match regSpec off with
  | some r => r.eff == .job || r.eff == .merge
  | none => false

/-- A picker entry whose fallback is no candidate of Table 2-9 is latched with enable 0 (Table 18-7). -/
def latchValue (off v : Nat) : Nat :=
  if inArray off (rPick 0) 8 4096 && bit v 0 && !(candidates.any (fun x => x.1 == bits v 19 16)) then v - 1 else v

/-- Logical numbering formed (R18). -/
def Core.number (c : Core) : Core :=
  { c with mgt := { c.mgt with logical := c.enabledHearths c.mgt.retiredHearths, retiredMap := c.mgt.retiredHearths } }

/-- Step 2: every setting whose effect is at job start, and logical numbering. -/
def Core.applySettings (c : Core) : Core :=
  let c := { c with latched := (c.cfg.filter (fun (p : Nat × Nat) => latchedAtJob p.1)).map (fun (p : Nat × Nat) => (p.1, latchValue p.1 p.2)) }
  ({ c with dram := { c.dram with localSize := c.inForce rLocalSize } }).number

/-- UP ports whose enable bit is clear go to OFF (R502). -/
def State.offPorts (s : State) : State :=
  { s with links := s.links.map (fun (p : Nat × Link) => (p.1, if p.2.up && !s.core.portEnabled p.1 then { p.2 with position := posOff } else p.2)) }.settle

/-- Whether a port stays in the mask of a route entry (R393). -/
def State.keepsPort (s : State) (idx p : Nat) : Bool :=
  let l := s.link p
  l.up && (l.gen != 1 || idx % 16384 == l.peer % 16384) && (isCopper p || l.planeB == decide (16384 ≤ idx))

/-- The entries of the route table that hold anything, by index. -/
def Core.routeCells (c : Core) (base : Nat) : List Nat :=
  ((c.hub.filter (fun (p : Nat × Byte) => decide (base - hubStart ≤ p.1) && decide (p.1 < base - hubStart + 262144))).map
    (fun (p : Nat × Byte) => (p.1 - (base - hubStart)) / 8)).eraseDups

/-- Words of the route table that the symbol code cannot correct. -/
def Core.routeErrors (c : Core) (base : Nat) : List Nat :=
  (c.dram.errors.filter (fun (e : Nat × Nat) => decide (base / 16 ≤ e.1) && decide (e.1 ≤ (base + 262143) / 16) && e.2 != 1)).map (fun e => e.1)

/-- Words of the route table that the latch corrects are counted (R343, R349). -/
def Core.routeCorrected (c : Core) (base : Nat) : Core :=
  ((c.dram.errors.filter (fun (e : Nat × Nat) => decide (base / 16 ≤ e.1) && decide (e.1 ≤ (base + 262143) / 16) && e.2 == 1)).map (fun e => e.1)).foldl (fun c w =>
    match (senseWord .hub (16 * w - hubStart)).run c with
    | .ok _ c => c
    | .error _ c => c) c

/-- A route entry latched: its mask without the ports that R393 removes, and how many those are. -/
def State.latchEntry (s : State) (base idx : Nat) : Option (Nat × Nat × Nat) :=
  let e := s.core.hubNat (base + 8 * idx) 8
  if !bit e 32 then none
  else
    let all := (List.range 32).filter (bit e)
    let keep := all.filter (s.keepsPort idx)
    some (idx, keep.foldl (fun m p => m + 1 <<< p) 0, all.length - keep.length)

/-- Step 3: the route table latched with the ports that are UP (R393). -/
def State.latchRoutes (s : State) : State :=
  let base := s.core.inForce rRouteBase
  let gen1 := (s.links.filter (fun (p : Nat × Link) => p.2.up && p.2.gen == 1)).map (fun (p : Nat × Link) => p.1)
  if !inHub base 262144 then { s with core := { s.core with route := { gen1 := gen1 } } }
  else
    let bad := s.core.routeErrors base
    let l := ((s.core.routeCells base).filter (fun i => !bad.contains ((base + 8 * i) / 16))).filterMap (s.latchEntry base)
    let c := { s.core with route := { masks := sortBy (fun (a b : Nat × Nat) => decide (a.1 < b.1)) (l.map (fun (e : Nat × Nat × Nat) => (e.1, e.2.1))), gen1 := gen1 } }
    let c := c.bumpBy (kFar 2) (l.foldl (fun n (e : Nat × Nat × Nat) => n + e.2.2) 0)
    { s with core := bad.foldl (fun c w => c.raise { cls := clsStorage, status := stUncorrectable, unit := 0xFFFF, detail := 1, addr := 16 * w - hubStart })
                       (c.routeCorrected base) }

/-- The counters as the retirement record gives them: retired rows and lanes (R498). -/
def State.recordCounts (s : State) : List (Nat × Nat) :=
  let rows := s.core.dram.retiredRows.foldl (fun (m : List (Nat × Nat)) r => spPut 0 m (kRowRetired r.1) (spGet 0 m (kRowRetired r.1) + 1)) []
  s.links.foldl (fun (m : List (Nat × Nat)) (p : Nat × Link) => spPut 0 m (kFarPort p.1 1) p.2.retired.length) rows

/-- Step 5: counters cleared but for those restored from the retirement record (R498), and the first wave number. -/
def State.clearCounts (s : State) : State :=
  let c := s.core
  { s with core := { c with counters := s.recordCounts,
                            mgt := { c.mgt with timeUs := 0, restartCount := 0, waveNum := 1, waveUp := [], waveDown := [], waveFromParent := [],
                                                waveSeen := [], waveHeld := none, faultHeld := false, torn := false, overLimit := false } } }

/-- What a new job does not take over from the last one: sequencers' history, plan revisions, steps, picks (R68, R133, Table 18-9). -/
def Core.freshJob (c : Core) : Core := { c with hearths := [], bellows := {}, crucible := {}, picker := {} }

/-- Whether a write of 1 to start is accepted (R499). -/
def State.canStart (s : State) : Bool :=
  s.power.stage == 8 && !s.core.mgt.active && s.core.ringsIdle && !(s.core.enabledHearths (s.core.mgt.retiredHearths ++ s.core.mgt.pendingRetire)).isEmpty

/-- The six steps of a job start (R499). -/
def State.startJob (s : State) : State :=
  let s := { s with core := s.core.retirePending.applySettings }
  let s := s.offPorts.latchRoutes
  let s := { s with core := s.core.warmReset.freshJob }
  let s := s.clearCounts
  { s with core := { s.core with mgt := { s.core.mgt with jobState := .running, active := true, jobs := satAdd 16 s.core.mgt.jobs 1 } } }

/-- MGT_JOB_CTRL written (R499): start, end, or a refused write. -/
def State.jobCtrl (s : State) (via v : Nat) : State :=
  if !(s.core.port via).trained then s
  else match bit v 0, bit v 1 with
    | false, false => if s.core.mayWrite via rJobCtrl then s else { s with core := s.core.refuseWrite via }
    | true, false => if s.core.mayWrite via rJobCtrl && s.canStart then s.startJob else { s with core := s.core.refuseWrite via }
    | false, true =>
      if s.core.mayWrite via rJobCtrl true && s.core.mgt.active && s.core.ringsIdle then
        { s with core := { s.core with mgt := { s.core.mgt with jobState := .stopped, active := false } } }
      else { s with core := s.core.refuseWrite via }
    | true, true => { s with core := s.core.refuseWrite via }

/-- JOB_START. -/
def execJobStart (via : Nat) (s : State) : Host.Outcome State Fault Refusal := .next ((s.heard via).jobCtrl via 1)

/-- JOB_END. -/
def execJobEnd (via : Nat) (s : State) : Host.Outcome State Fault Refusal := .next ((s.heard via).jobCtrl via 2)

/-! The fault log, versions, the device id. -/

/-- MGT_FAULT_CLEAR (R449). -/
def State.faultClear (s : State) (via v : Nat) : State :=
  s.written via rFaultClear false (fun s =>
    if bit v 0 then { s with core := { s.core with mgt := { s.core.mgt with faultLog := [], faultHead := 0 } } } else s)

/-- MGT_FAULT_CLEAR. -/
def execMgtFaultClear (via value : Nat) (s : State) : Host.Outcome State Fault Refusal := .next ((s.heard via).faultClear via value)

/-- The fused minimum of each kind raised to the running image's version (R483). -/
def Power.commit (p : Power) : Power :=
  { p with svnCommit := true, fusedMin := (List.range 4).map (fun i => max (p.fusedMin.getD i 0) (p.running.getD i 0)) }

/-- MGT_SVN_COMMIT. -/
def State.svnCommit (s : State) (via v : Nat) : State :=
  s.written via rSvnCommit false (fun s => if bit v 0 then { s with power := s.power.commit } else s)

/-- MGT_SVN_COMMIT. -/
def execMgtSvnCommit (via value : Nat) (s : State) : Host.Outcome State Fault Refusal := .next ((s.heard via).svnCommit via value)

/-- A device id written (R478): only while step 7 waits for it; one that the straps contradict leaves fail_code 6; a valid one lets the ports
train. -/
def State.setDeviceId (s : State) (v : Nat) : State :=
  let id := v % 2 ^ 14 + place (v >>> 15) 1 15
  if s.power.stage != 7 || s.power.waitFor != 3 then s
  else if bit v 15 && v % 8 != s.core.part.pos then { s with power := { s.power with failCode := 6 } }
  else if bit v 15 then
    ({ s with core := { s.core with mgt := { s.core.mgt with deviceId := id } },
              power := { s.power with waitFor := 0, failCode := 0 } }).trainAll.settle
  else { s with core := { s.core with mgt := { s.core.mgt with deviceId := id } } }

/-- MGT_DEVICE_ID_WRITE. -/
def execMgtDeviceIdWrite (via value : Nat) (s : State) : Host.Outcome State Fault Refusal :=
  .next ((s.heard via).written via rDeviceId false (fun s => s.setDeviceId value))

/-! Pool sets, links, teardown. -/

/-- The bits of POOL_SET_ENABLE that belong to a port: those of its tenant's sets (Table 18-3). An enabled set's owner is that of its record as checked. -/
def Core.ownSets (c : Core) (via v : Nat) : Nat :=
  let owner (p : Nat) : Nat := (poolRecOf (if (c.poolSet p).enabled then (c.poolSet p).record else c.hubNat (c.reg rPoolSetBase + 64 * p) 64)).owner
  if !c.twoTenant then v
  else ((List.range 16).filter (fun p => bit v p && owner p == via)).foldl (fun m p => m + 1 <<< p) 0

/-- POOL_SET_ENABLE (R353, R501): a bit of the other tenant's set is ignored, and the write counted as refused (R497). -/
def State.poolEnable (s : State) (via v : Nat) : State :=
  s.written via rPoolSetEnable false (fun s => { s with core := s.core.gated (fun c =>
    (if c.ownSets via v == v % 2 ^ 16 || !c.twoTenant then c else c.refuseWrite via).enableSets (c.ownSets via v)) })

/-- POOL_SET_ENABLE. -/
def execPoolSetEnable (via value : Nat) (s : State) : Host.Outcome State Fault Refusal := .next ((s.heard via).poolEnable via value)

/-- FAR_PORT_RETRAIN (R378, R502): enabled ports that are not UP, while no job runs and the ports are powered. -/
def State.retrain (s : State) (via v : Nat) : State :=
  s.written via rPortRetrain false (fun s =>
    if s.core.mgt.active || decide (s.power.stage < 7) || s.power.stage == 15 || s.power.waitFor == 3 then s
    else (((List.range 32).filter (fun p => bit v p && s.core.portEnabled p && !(s.link p).up)).foldl State.train s).settle)

/-- FAR_PORT_RETRAIN. -/
def execFarPortRetrain (via value : Nat) (s : State) : Host.Outcome State Fault Refusal := .next ((s.heard via).retrain via value)

/-- HUB_FAB_TEARDOWN (R422, R497). -/
def State.tearDown (s : State) (via v : Nat) : State :=
  s.written via rFabTeardown true (fun s => if bit v 0 then { s with core := s.core.teardown } else s)

/-- HUB_FAB_TEARDOWN. -/
def execHubFabTeardown (via value : Nat) (s : State) : Host.Outcome State Fault Refusal := .next ((s.heard via).tearDown via value)

/-! Rings and heartbeats. -/

/-- A ring enabled: indices 0, the expected phase 1, its lost bit cleared (R427, R437). -/
def Ring.opened (x : Ring) : Ring := { enabled := true, lostHead := x.lostHead }

/-- PCI_RING_ENABLE (R427, R479): enabling is a ring setting, ignored but on a disabled and idle ring, and before Ready. -/
def State.ringEnable (s : State) (via q r v : Nat) : State :=
  s.written via (rRing q r 4) false (fun s =>
    let x := s.core.ring q r
    if !bit v 0 then { s with core := (s.core.modRing q r (fun x => { x with enabled := false })).stopFetch q r }
    else if s.power.stage != 8 || x.enabled || !x.started.isEmpty then { s with core := s.core.bump (kPci q 0) }
    else { s with core := (s.core.modRing q r Ring.opened).modPort q (fun p => { p with lost := p.lost && !p.trained }) })

/-- PCI_RING_ENABLE. -/
def execPciRingEnable (via port ring value : Nat) (s : State) : Host.Outcome State Fault Refusal := .next ((s.heard via).ringEnable via port ring value)

/-- PCI_HEARTBEAT (R437, R502): only over its own port, and not on a lost one. -/
def State.heartbeat (s : State) (via q v : Nat) : State :=
  s.written via (rHeartbeat q) false (fun s =>
    if via == q && bit v 0 && !(s.core.port q).lost then { s with core := s.core.modPort q (fun p => { p with sinceBeat := 0 }) } else s)

/-- PCI_HEARTBEAT. -/
def execPciHeartbeat (via port value : Nat) (s : State) : Host.Outcome State Fault Refusal := .next ((s.heard via).heartbeat via port value)

end Sys2Proof.Machine
end

