-- ==== Sys2Proof/Machine/Memory.lean ====
section
/-!
DEFINITION. Sys2Proof/Machine/Memory.lean: what happens to stacked memory by itself: refresh and heat (R341), the patrol scrub (R344).
-/

namespace Sys2Proof.Machine

/-- The number of a layer: forge die × 8 + layer (Table 16-3), and of the layer of a channel (R17). -/
def layerOf (die layer : Nat) : Nat := 8 * die + layer
def channelLayer (ch : Nat) : Nat := layerOf (ch / 32) (ch % 32 / 4)

/-- The refresh interval of a layer in periods of the local reference (Table 12-1). -/
def Power.interval (p : Power) (layer : Nat) : Nat := if p.hot.contains layer then 195 else 390

/-- REFRESH_TICK: a refresh of a channel; a new interval starts with it (R341). -/
def execRefreshTick (channel : Nat) (s : State) : Host.Outcome State Fault Refusal :=
  .next { s with core := { s.core with dram := { s.core.dram.ticked 1 with
    refreshes := kvPut s.core.dram.refreshes channel (s.power.interval (channelLayer channel)) } } }

/-- A list with a member put in or taken out. -/
def withMember (l : List Nat) (x : Nat) (b : Bool) : List Nat := if b then (if l.contains x then l else x :: l) else l.filter (· != x)

/-- Whether a layer refreshes at the short interval after a reading: above 85 °C, until 83 °C or below (R341). -/
def hotAfter (was : Bool) (t : Nat) : Bool := decide (85 < t) || (was && decide (83 < t))

/-- Whether a layer is throttled after a reading: from 95 °C, until 92 °C (Table 12-1). -/
def throttledAfter (was : Bool) (t : Nat) : Bool := decide (95 ≤ t) || (was && decide (92 < t))

/-- A layer's temperature as its sensor reads it (Table 12-1): 97 °C reached is a THERMAL fault. -/
def State.layerReads (s : State) (n t : Nat) : State :=
  let p := s.power
  let enters := !p.throttled.contains n && decide (95 ≤ t)
  let burns := decide (spGet 0 p.layerTemp n < 97) && decide (97 ≤ t)
  let c := if enters then s.core.bump (kMem 3) else s.core
  { s with power := { p with layerTemp := kvPut p.layerTemp n t, hot := withMember p.hot n (hotAfter (p.hot.contains n) t),
                             throttled := withMember p.throttled n (throttledAfter (p.throttled.contains n) t) },
           core := if burns then c.raise { cls := clsThermal, status := stOk, unit := n, detail := t } else c }

/-- LAYER_TEMPERATURE; there is none with the main converter off (entry 6). -/
def execLayerTemperature (die layer temp : Nat) (s : State) : Host.Outcome State Fault Refusal :=
  .next (if s.power.mainOn then s.layerReads (layerOf die layer) temp else s)

/-- Words of a channel that the patrol reads, spare rows included (R336, R344). -/
def patrolWords : Nat := (3145728 + 63) * 128

/-- PATROL_SCRUB_STEP: the next word of a channel read and a correction written back; spare rows hold no error of their own in this model
(R344). -/
def execPatrolScrubStep (channel : Nat) (s : State) : Host.Outcome State Fault Refusal :=
  let w := spGet 0 s.core.dram.patrol channel
  let fin := patrolWords ≤ w + 1
  let c := { s.core with dram := { s.core.dram with patrol := kvPut s.core.dram.patrol channel (if fin then 0 else w + 1) } }
  let c := if fin then c.bump (kMem 0) else c
  .next { s with core := if 16 * w < channelBytes then c.runBlock clsStorage channel 0 (senseWord .stacked (channel * channelBytes + 16 * w)) else c }

end Sys2Proof.Machine
end

