-- ==== Sys2Proof/Machine/Registers.lean ====
section
/-!
DEFINITION. Sys2Proof/Machine/Registers.lean: writes to the register file by offset and size (R493 to R497, R502) and what a read returns (R491
to R494, Tables 18-4 to 18-11).
-/

namespace Sys2Proof.Machine

/-! Writes. -/

/-- A 4-byte or 8-byte write merged into a register's old value (R493); `high` tells that only the upper half is covered. -/
def mergeWrite (size : Nat) (high : Bool) (old v : Nat) : Nat :=
  if size == 8 then v % 2 ^ 64
  else if high then old % 2 ^ 32 + (v % 2 ^ 32) <<< 32
  else (old >>> 32) <<< 32 + v % 2 ^ 32

/-- The bits of HUB_LEND_ENABLE that a port may change: of its tenant's Hearths (Table 18-3); `base` is the number of bit 0. -/
def Core.lendMask (c : Core) (via base : Nat) : Nat :=
  (List.range 64).foldl (fun m i => if (match c.physOf (base + i) with | some h => c.hearthTenant h == via | none => false) then m + 1 <<< i else m) 0

/-- A value stored in the bits of a mask only. -/
def maskedWrite (old new mask : Nat) : Nat := Nat.lor (Nat.land new mask) (Nat.land old (2 ^ 64 - 1 - mask))

/-- FAR_PORT_ENABLE written: a port that is not UP and whose bit is clear goes to OFF at once (R502). -/
def State.portEnable (s : State) (v : Nat) : State :=
  let s := { s with core := s.core.setReg rPortEnable v }
  ({ s with links := s.links.map (fun (p : Nat × Link) => (p.1, if !p.2.up && !bit v p.1 then { p.2 with position := posOff } else p.2)) }).settle

/-- The ring that a ring setting belongs to (Table 18-10). -/
def ringOfSetting (off : Nat) : Nat × Nat :=
  let o := off - pciB
  (o / 0x10000 - 1, (o % 0x10000 - 0x1000) / 0x40)

/-- A stored register given a judged value (R495, R496). -/
def State.storeReg (s : State) (via off : Nat) (spec : RegSpec) (v : Nat) : State :=
  let c := s.core
  let set (v : Nat) : State := { s with core := c.setReg off v }
  if off == rPortEnable then s.portEnable v
  else if off == rWatchMs then { s with core := [0, 1].foldl (fun c q => c.modPort q (fun p => { p with sinceBeat := 0 })) (c.setReg off v) }
  else if spec.eff == .idle then
    let (q, r) := ringOfSetting off
    let x := c.ring q r
    if !x.enabled && x.started.isEmpty then set v else { s with core := c.bump (kPci q 0) }
  else if c.twoTenant && (off == rLendEnable0 || off == rLendEnable1) then
    set (maskedWrite (c.reg off) v (c.lendMask via (if off == rLendEnable0 then 0 else 64)))
  else if c.twoTenant && inArray off (rRgnLo 0) 16 256 && bit v 6 != decide (128 ≤ (off - rRgnLo 0) / 16) then s
  else set v

/-- Ring enables and heartbeats by offset. -/
def ringEnableOf (off : Nat) : Option (Nat × Nat) :=
  let o := off - pciB
  if pciB ≤ off && 0x10000 ≤ o && o < 0x30000 && 0x1000 ≤ o % 0x10000 && o % 0x10000 < 0x2000 && (o % 0x10000) % 0x40 == 0x20 then some (ringOfSetting off)
  else none

/-- A write of a register that acts, or none if the offset is no such register. -/
def State.actReg (s : State) (via off v : Nat) : Option State :=
  if off == rDeviceId then some (s.written via off false (fun s => s.setDeviceId v))
  else if off == rJobCtrl then some (s.jobCtrl via v)
  else if off == rFaultClear then some (s.faultClear via v)
  else if off == rSvnCommit then some (s.svnCommit via v)
  else if off == rPoolSetEnable then some (s.poolEnable via v)
  else if off == rPortRetrain then some (s.retrain via v)
  else if off == rFabTeardown then some (s.tearDown via v)
  else if off == rHeartbeat 0 then some (s.heartbeat via 0 v)
  else if off == rHeartbeat 1 then some (s.heartbeat via 1 v)
  else (ringEnableOf off).map (fun k => s.ringEnable via k.1 k.2 v)

/-- The value of a power setting (Table 17-8). -/
def Power.setting (p : Power) (off : Nat) : Option Nat :=
  if off == rPowerCap then some p.cap
  else if off == rPowerMode then some (b2n p.fixed)
  else if off == rCoreSet then some p.coreSet
  else none

/-- A power setting given a judged value. -/
def Power.set (p : Power) (off v : Nat) : Power :=
  if off == rPowerCap then { p with cap := v }
  else if off == rPowerMode then { p with fixed := bit v 0 }
  else { p with coreSet := v }

/-- Whether an offset is that of a register that only reads: status, measurements, the fault log, counters (Tables 18-4 to 18-11). -/
def readOnly (off : Nat) : Bool :=
  let o := off % 0x100000
  let listed (l : List (Nat × Nat × Nat)) (o : Nat) : Bool := l.any (fun x => inArray o x.1 x.2.1 x.2.2)
  match off / 0x100000 with
  | 0 => listed [(0x00, 8, 5), (0x38, 8, 13), (0x108, 8, 1), (0x118, 8, 2), (0x130, 8, 3), (0x218, 8, 4), (0x300, 8, 3), (0x400, 8, 64), (0x1000, 8, 512)] o
  | 1 => listed [(0x100, 8, 13)] o
  | 2 => listed [(0x00, 8, 4), (0x40, 8, 1), (0x100, 8, 4)] (o % 0x80000)
  | 3 => listed [(0x00, 8, 4), (0x100, 8, 14), (0x180, 8, 2)] (o % 0x1000)
  | 4 => listed [(0x00, 8, 8), (0x100, 8, 4)] (o % 0x1000)
  | 5 => listed [(0x38, 8, 1), (0x100, 8, 8)] o
  | 6 => listed [(0x100, 8, 5)] o
  | 7 => listed [(0x100, 8, 5)] o
  | 8 => listed [(0x10, 8, 2), (0x100, 8, 3), (0x600, 8, 64)] o
  | 9 => listed [(0x10, 8, 4), (0x100, 8, 5), (0x1000, 8, 128)] o
  | 10 => listed [(0x100, 8, 3)] o || (decide (0x1000 ≤ o) && decide (o < 0x3000) && listed [(0x08, 8, 4), (0x40, 8, 16)] (o % 0x100))
  | 11 => decide (0x10000 ≤ o) && decide (o < 0x30000) &&
      (listed [(0x100, 8, 5)] (o % 0x10000) || (decide (0x1000 ≤ o % 0x10000) && decide (o % 0x10000 < 0x2000) && o % 0x40 == 0x28))
  | _ => false

/-- Whether the instance of an offset is there: a Hearth that is enabled, a Smithy that has one (R494). -/
def Core.presentAt (c : Core) (off : Nat) : Bool :=
  match off / 0x100000 with
  | 3 => c.present (off % 0x100000 / 0x1000)
  | 4 => c.mgt.logical.any (fun h => h / 4 == off % 0x100000 / 0x1000)
  | _ => true

/-- A write that reaches the register file (R493, R497). -/
def State.regWrite (s : State) (via off size v : Nat) : State :=
  let fits := (size == 8 && off % 8 == 0) || (size == 4 && off % 4 == 0)
  let a := off / 8 * 8
  let high := size == 4 && off % 8 == 4
  if !(s.core.port via).trained then s
  else if !fits then { s with core := s.core.refuseWrite via }
  else match s.actReg via a (mergeWrite size high 0 v) with
    | some t => if high then s.written via a (a == rJobCtrl || a == rFabTeardown) (fun s => s) else t
    | none =>
      match regSpec a with
      | none => if readOnly a && s.core.presentAt a then s.written via a false (fun s => s) else s
      | some spec =>
        s.written via a false (fun s =>
          match s.power.setting a with
          | some old => { s with power := s.power.set a (spec.judge (mergeWrite size high old v)) }
          | none => s.storeReg via a spec (spec.judge (mergeWrite size high (s.core.reg a) v)))

/-- REGISTER_WRITE. -/
def execRegisterWrite (via off size value : Nat) (s : State) : Host.Outcome State Fault Refusal := .next ((s.heard via).regWrite via off size value)

/-! Reads. No read of a register changes what it holds (R434). -/

/-- A set of numbers as a bit map of `n` bits from `base`. -/
def bitMap (base n : Nat) (f : Nat → Bool) : Nat := (List.range n).foldl (fun m i => if f (base + i) then m + 1 <<< i else m) 0

/-- MGT_BOOT_STATUS (Table 17-6). -/
def Power.bootStatus (p : Power) : Nat :=
  place p.stage 4 0 + place p.waitFor 4 4 + place p.portsDone 8 32 + place p.percent 8 40 + place p.failCode 8 48

/-- MGT_JOB_STATE (R451). -/
def JobState.code : JobState → Nat
  | .running => 0
  | .quiesced => 1
  | .resetting => 2
  | .restarted => 3
  | .stopped => 4

/-- A fault record's 512 bits (Table 16-2). -/
def FaultRec.word (r : FaultRec) : Nat :=
  place r.req.status 8 88 + place r.req.cls 8 96 + place r.req.detail 8 104 + place r.req.unit 16 112 + place r.wave 16 128 + place r.origin 16 144 +
    place r.seq 32 160 + place r.timeUs 32 192 + place r.req.step 32 224 + place r.req.addr 64 256

/-- Slot j of the fault log: record k lies at k mod 64 (R449). -/
def Mgt.faultSlot (m : Mgt) (j : Nat) : Nat :=
  match m.faultLog.find? (fun r => r.seq % 64 == j) with
  | some r => r.word
  | none => 0

/-- Hearths disabled by setting alone, as in force (R500). -/
def Core.disabledHearths (c : Core) : List Nat :=
  let dis := c.inForce rHearthDisable0 + c.inForce rHearthDisable1 <<< 64
  (List.range 88).filter (fun h => bit dis h && !c.part.fused.contains h && !c.mgt.retiredMap.contains h)

/-- MGT_ registers that only read (Tables 18-4 and 18-5). -/
def State.readMgt (s : State) (o : Nat) : Nat :=
  let c := s.core
  let m := c.mgt
  let p := s.power
  let map (l : List Nat) (hi : Bool) : Nat := if hi then bitMap 64 24 l.contains else bitMap 0 64 l.contains
  if o == 0x00 then place (if c.part.grade == 1 then 80 else 64) 8 16 + 0x100 + c.part.grade % 256
  else if o == 0x08 || o == 0x10 then map c.part.fused (o == 0x10)
  else if o == 0x18 || o == 0x20 then map m.retiredMap (o == 0x20)
  else if o == 0x38 then
    place c.disabledHearths.length 7 24 + place m.retiredMap.length 7 16 + place c.part.fused.length 7 8 + place m.logical.length 7 0
  else if o == 0x40 then bitMap 0 22 (fun i => m.logical.any (fun h => h / 4 == i))
  else if 0x48 ≤ o && o ≤ 0x98 then leNat ((List.range 8).map (fun i => BitVec.ofNat 8 (m.logical.getD (o - 0x48 + i) 0xFF)))
  else if o == 0x100 then m.deviceId
  else if o == 0x108 then p.bootStatus
  else if o == 0x110 then place (b2n m.active) 1 32 + place m.jobs 16 16
  else if o == 0x118 then m.jobState.code
  else if o == 0x120 then m.timeUs % 2 ^ 64
  else if o == 0x130 then m.restartCount
  else if o == 0x138 then m.snapLast
  else if o == 0x140 then m.faultHead
  else if o == 0x218 then p.coreNow
  else if o == 0x220 then p.beatRate
  else if o == 0x228 then p.powerNow
  else if o == 0x230 then p.inputMv
  else if o == 0x238 then b2n p.svnCommit
  else if 0x400 ≤ o && o < 0x600 then leNat ((((kvGet p.meas ((o - 0x400) / 64)).getD []).drop (o % 64)).take 8)
  else if 0x1000 ≤ o && o < 0x2000 then bits (m.faultSlot ((o - 0x1000) / 64)) (8 * (o % 64) + 63) (8 * (o % 64))
  else c.counter o

/-- FRG_ registers of a die (Table 18-8). -/
def State.readForge (s : State) (d o : Nat) : Nat :=
  let tt := s.core.tt
  if o < 0x20 then ((kvGet tt.rings (4 * d + o / 8)).getD []).length + ((kvGet tt.lend (4 * d + o / 8)).getD []).length
  else if o == 0x40 then (s.core.mgt.logical.filter (fun h => h / 44 == d)).foldl (fun m h => max m (spGet 0 s.power.hearthTemp h)) 0
  else s.core.counter (frgB + 0x80000 * d + o)

/-- HTH_ registers of a Hearth; an absent one reads 0 (R494). -/
def Core.readHearth (c : Core) (h o : Nat) : Nat :=
  let x := c.hearth h
  if !c.present h then 0
  else if o == 0x00 then bitMap 0 64 (fun i => (c.tally 0 h i).overSet)
  else if o == 0x08 then bitMap 0 64 (fun i => (c.tally 0 h i).underSet)
  else if o == 0x10 then x.lastEnd % 256
  else if o == 0x18 then
    Machine.place ((c.logicalOf h).getD 0xFF) 8 8 + Machine.place (b2n (c.lending h)) 1 3 + Machine.place (b2n (x.running && x.lentRun.isSome)) 1 2 +
      Machine.place (b2n (x.running && x.lentRun.isNone)) 1 1 + 1
  else c.counter (hthB + 0x1000 * h + o)

/-- SMY_ registers of a Smithy; an absent one reads 0. -/
def Core.readSmithy (c : Core) (i o : Nat) : Nat :=
  if !c.mgt.logical.any (fun h => h / 4 == i) then 0
  else if o < 0x20 then bitMap (64 * (o / 8)) 64 (fun t => (c.tally 1 i t).overSet)
  else if o < 0x40 then bitMap (64 * ((o - 0x20) / 8)) 64 (fun t => (c.tally 1 i t).underSet)
  else c.counter (smyB + 0x1000 * i + o)

/-- POOL_ registers. -/
def Core.readPool (c : Core) (o : Nat) : Nat :=
  if o == 0x08 then bitMap 0 16 (fun p => (c.poolSet p).enabled)
  else if o == 0x10 then bitMap 0 16 (fun p => (c.poolSet p).ready)
  else if o == 0x18 then bitMap 0 16 (fun p => (c.poolSet p).error)
  else if 0x600 ≤ o && o < 0x800 then c.held ((o - 0x600) / 8)
  else c.counter (poolB + o)

/-- MEM_ registers. -/
def State.readMem (s : State) (o : Nat) : Nat :=
  let d := s.core.dram
  if o == 0x10 then d.active.length * channelBytes
  else if o == 0x18 then bitMap 0 64 d.retiredChannels.contains
  else if o == 0x20 || o == 0x28 then leNat ((List.range 8).map (fun k => BitVec.ofNat 8 (spGet 0 s.power.layerTemp (layerOf ((o - 0x20) / 8) k))))
  else s.core.counter (memB + o)

/-- FAR_ registers: FAR_PORT_STATUS (Table 13-7) and counters. -/
def State.readFar (s : State) (o : Nat) : Nat :=
  if inArray o 0x1008 0x100 32 then
    let l := s.link ((o - 0x1008) / 0x100)
    place l.position 8 0 + place (if l.up then bitMap 0 8 l.lanes.contains else 0) 8 8 + place (bitMap 0 8 l.retired.contains) 8 16 + place l.gen 2 24
  else s.core.counter (farB + o)

/-- PCI_ registers of a port. -/
def Core.readPci (c : Core) (o : Nat) : Nat :=
  let q := o / 0x10000 - 1
  let i := o % 0x10000
  if 0x10000 ≤ o && o < 0x30000 && 0x1000 ≤ i && i < 0x2000 then
    let x := c.ring q ((i - 0x1000) / 0x40)
    if i % 0x40 == 0x20 then b2n x.enabled else if i % 0x40 == 0x28 then x.lostHead else 0
  else c.counter (pciB + o)

/-- A register's 64 bits (R491, R492); an offset that no table lists reads 0. -/
def State.readReg (s : State) (off : Nat) : Nat :=
  let o := off % 0x100000
  match regSpec off with
  | some _ => (s.power.setting off).getD (s.core.reg off)
  | none =>
    match off / 0x100000 with
    | 0 => s.readMgt o
    | 2 => if o < 0x100000 then s.readForge (o / 0x80000) (o % 0x80000) else 0
    | 3 => s.core.readHearth (o / 0x1000) (o % 0x1000)
    | 4 => s.core.readSmithy (o / 0x1000) (o % 0x1000)
    | 5 => if o == 0x38 then s.core.bellows.activeRev % 2 ^ 32 + place s.core.bellows.standbyRev 32 32 else s.core.counter off
    | 8 => s.core.readPool o
    | 9 => s.readMem o
    | 10 => s.readFar o
    | 11 => s.core.readPci o
    | _ => s.core.counter off

/-- What a port sees of a register that holds bits of both tenants: its own tenant's bits, the others as 0 (R497, Table 18-3). -/
def Core.ownBits (c : Core) (via off v : Nat) : Nat :=
  if !c.twoTenant then v
  else if off == rLendEnable0 then Nat.land v (c.lendMask via 0)
  else if off == rLendEnable1 then Nat.land v (c.lendMask via 64)
  else if off == rPoolSetEnable then c.ownSets via v
  else v

/-- A read over a port: what it returns and the state after it. A bad access reads 0 and is counted (R493), and so is a read of the other tenant's
register (Table 15-8). -/
def State.readAccess (s : State) (via off size : Nat) : Nat × State :=
  let fits := (size == 8 && off % 8 == 0) || (size == 4 && off % 4 == 0)
  let mine := !s.core.twoTenant || !s.core.presentAt off || match s.core.regOwner off with | .tenant t => via == t | _ => true
  if !fits || !mine then (0, { s with core := s.core.refuseWrite via })
  else
    let v := s.core.ownBits via (off / 8 * 8) (s.readReg (off / 8 * 8))
    (if size == 8 then v else if off % 8 == 4 then v >>> 32 else v % 2 ^ 32, s)

end Sys2Proof.Machine
end

