-- ==== Sys2Proof/Machine/Sha.lean ====
section
/-!
DEFINITION. Sys2Proof/Machine/Sha.lean: SHA-512, which the spec names and does not define (R484): the function of FIPS 180-4 (PRESUMED;
entry 11).
-/

namespace Sys2Proof.Machine

/-- The largest number whose k-th power is at most n, found bit by bit below 2^i on top of r. -/
def rootBelow (k n : Nat) : Nat → Nat → Nat
  | 0, r => r
  | i + 1, r => rootBelow k n i (if (r + 2 ^ i) ^ k ≤ n then r + 2 ^ i else r)

/-- The first 64 fraction bits of the k-th root of a small number. -/
def rootFraction (k p : Nat) : Nat := rootBelow k (p * 2 ^ (64 * k)) 72 0 % 2 ^ 64

/-- The primes below 410: the first 80. -/
def smallPrimes : List Nat := ((List.range 410).drop 2).filter (fun n => ((List.range n).drop 2).all (fun d => n % d != 0))

/-- The words that a digest starts from: square roots of the first 8 primes. -/
def shaInit : List Nat := (smallPrimes.take 8).map (rootFraction 2)

/-- The round constants: cube roots of the first 80 primes. -/
def shaK : List Nat := smallPrimes.map (rootFraction 3)

/-- A word of 64 bits turned right. -/
def ror64 (x n : Nat) : Nat := x >>> n + (x % 2 ^ n) <<< (64 - n)

/-- Words combined by exclusive or. -/
def xorAll (l : List Nat) : Nat := l.foldl Nat.xor 0

/-- The mixing of a word: its right turns by each of `turns`, and its shift by `k` where there is one. -/
def shaMix (turns : List Nat) (k : Option Nat) (x : Nat) : Nat := xorAll (turns.map (ror64 x) ++ (k.map (fun n => x >>> n)).toList)

/-- The message schedule extended by `n` words; the list runs backward, the last word first. -/
def shaExtend : Nat → List Nat → List Nat
  | 0, w => w
  | n + 1, w => shaExtend n ((shaMix [19, 61] (some 6) (w.getD 1 0) + w.getD 6 0 + shaMix [1, 8] (some 7) (w.getD 14 0) + w.getD 15 0) % 2 ^ 64 :: w)

/-- One round on the eight working words. -/
def shaRound (s : List Nat) (kw : Nat × Nat) : List Nat :=
  match s with
  | [a, b, c, d, e, f, g, h] =>
    let chosen := (List.range 64).foldl (fun n i => n + place (if bit e i then f >>> i else g >>> i) 1 i) 0
    let held := (List.range 64).foldl (fun n i => n + place (if bit a i == bit b i then a >>> i else c >>> i) 1 i) 0
    let t := h + shaMix [14, 18, 41] none e + chosen + kw.1 + kw.2
    [(t + shaMix [28, 34, 39] none a + held) % 2 ^ 64, a, b, c, (d + t) % 2 ^ 64, e, f, g]
  | l => l

/-- A big-endian number. -/
def beNat (b : List Byte) : Nat := b.foldl (fun n x => 256 * n + x.toNat) 0

/-- A number's `n` low bytes, the highest first. -/
def beBytes (n v : Nat) : List Byte := (leBytes n v).reverse

/-- One block of 128 bytes. -/
def shaBlock (s : List Nat) (b : List Byte) : List Nat :=
  let w := (shaExtend 64 ((chunks 8 b).map beNat).reverse).reverse
  List.zipWith (fun x y => (x + y) % 2 ^ 64) s ((shaK.zip w).foldl shaRound s)

/-- SHA-512 of a byte string: 64 bytes. -/
def sha512 (m : List Byte) : List Byte :=
  let pad := (239 - m.length % 128) % 128
  ((chunks 128 (m ++ 0x80#8 :: List.replicate pad 0#8 ++ beBytes 16 (8 * m.length))).foldl shaBlock shaInit).flatMap (beBytes 8)

end Sys2Proof.Machine
end

