-- ==== Sys2Proof/Machine/Power.lean ====
section
/-!
DEFINITION. Sys2Proof/Machine/Power.lean: input, converters and trips (R470, R471, R473), the regulator (R472), start-up (R476 to R480),
firmware verification and measurement (R481 to R484).
-/

namespace Sys2Proof.Machine

/-! Loss of power. -/

/-- A port without power: what its host has received stays with the host, its PERST# is an input (R476). -/
def HostPort.unpowered (p : HostPort) : HostPort := { perst := p.perst, sent := p.sent, writes := p.writes, config := p.config }

/-- A link without power: its retired lanes are in the retirement record (R390). -/
def Link.unpowered (l : Link) : Link := { retired := l.retired, wire := l.wire }

/-- The main converter off: everything but the standby side, flash and fuses is lost (R471, R480, R490). -/
def State.mainOff (s : State) : State :=
  let c := s.core
  { s with core := { part := c.part, mgt := { retiredHearths := c.mgt.retiredHearths, faultLog := c.mgt.faultLog, faultHead := c.mgt.faultHead },
                     dram := { retiredRows := c.dram.retiredRows, retiredChannels := c.dram.retiredChannels },
                     ports := c.ports.map (fun (p : Nat × HostPort) => (p.1, p.2.unpowered)), scratchEpoch := c.scratchEpoch + 1, free := c.free },
           links := s.links.map (fun (p : Nat × Link) => (p.1, p.2.unpowered)),
           power := { s.power with mainOn := false, portsDone := 0, percent := 0, waitFor := 0, coreNow := 750, powerNow := 0, beatRate := 2000, rates := [],
                                   hearthTemp := [], layerTemp := [], hot := [], throttled := [], tick := 0, meas := [], running := [],
                                   svnCommit := false } }

/-- Both converters off: only flash, fuses and the state of the pins are left (R471, R473). -/
def State.inputOff (s : State) (trip : Bool) (stage fail : Nat) : State :=
  let s := s.mainOff
  { s with core := { s.core with mgt := { retiredHearths := s.core.mgt.retiredHearths } },
           power := { flash := s.power.flash, fusedMin := s.power.fusedMin, rootKey := s.power.rootKey, enable := s.power.enable, replies := s.power.replies, thermTrip := trip,
                      stage := stage, failCode := fail } }

/-- Whether a start is under way after its wait for ENABLE (Table 17-5). -/
def Power.starting (p : Power) : Bool := decide (3 ≤ p.stage) && decide (p.stage ≤ 7)

/-- INPUT_CUTOFF (R471, Table 17-6): the device is off; no fault record is written. The input's loss ends a trip (R473). -/
def execInputCutoff (s : State) : Host.Outcome State Fault Refusal :=
  .next (if s.power.starting then s.inputOff false 15 5 else s.inputOff false 0 0)

/-- THERMAL_TRIP (R473); there is none with the main converter off. -/
def execThermalTrip (h : Nat) (s : State) : Host.Outcome State Fault Refusal :=
  .next (
    if !s.power.mainOn then s
    else
      let s := s.inputOff true 0 0
      { s with power := { s.power with flash := { s.power.flash with tripped := some h } } })

/-- A start that stops (R480): only the standby side stays powered. -/
def State.stopStart (s : State) (fail : Nat) : State :=
  let s := s.mainOff
  { s with power := { s.power with stage := 15, failCode := fail } }

/-! Firmware (R481 to R484). -/

/-- The image of a kind in a slot. -/
def imageOf (slot : List Image) (kind : Nat) : Option Image := slot.find? (fun i => i.kind == kind)

/-- Whether every image of a slot is there with a good signature. -/
def slotSigned (slot : List Image) : Bool :=
  [1, 2, 3, 4].all (fun k => match imageOf slot k with | some i => i.signed | none => false)

/-- Whether a slot passes: signatures, and security versions of at least the fused minimum (R482). -/
def Power.slotGood (p : Power) (slot : List Image) : Bool :=
  slotSigned slot && [1, 2, 3, 4].all (fun k => match imageOf slot k with
    | some i => decide (p.fusedMin.getD (k - 1) 0 ≤ i.version)
    | none => false)

/-- The slot that boots, true for B: the preferred one first (R482, R483). -/
def Power.bootSlot (p : Power) : Option Bool :=
  let good (b : Bool) : Bool := p.slotGood (if b then p.flash.slotB else p.flash.slotA)
  if good p.flash.preferB then some p.flash.preferB else if good (!p.flash.preferB) then some (!p.flash.preferB) else none

/-- A measurement register extended from zero by a digest (R484). -/
def extendMeas (d : List Byte) : List Byte := sha512 (List.replicate 64 0#8 ++ d)

/-- The bytes of an image: header of kind, length and security version, payload, signature (R481; the header's layout is the model's, entry 11). -/
def firmwareBytes (i : Image) : List Byte := leBytes 4 i.kind ++ leBytes 4 i.payload.length ++ leBytes 4 i.version ++ i.payload ++ i.signature

/-- Small numbers as bytes, four each. -/
def pairsOf (l : List Nat) : List Byte := l.flatMap (leBytes 4)

/-- The retirement record: rows, channels, Hearths, lanes (R348, R390, R448). -/
def State.retirement (s : State) : List Byte :=
  pairsOf (s.core.dram.retiredRows.flatMap (fun (r : Nat × Nat) => [r.1, r.2])) ++ pairsOf s.core.dram.retiredChannels ++ pairsOf s.core.mgt.retiredHearths ++
    pairsOf (s.links.flatMap (fun (p : Nat × Link) => p.2.retired.flatMap (fun i => [p.1, i])))

/-- The measurement registers after step 3. The digests of the ROM with the fused security settings (the root key's digest and the least versions), of the retirement record and of the grade with the fuse
map are of items whose bytes the spec does not lay out: each follows what its item holds (entry 11). -/
def State.measured (s : State) (slot : List Image) : List (Nat × List Byte) :=
  let img (k : Nat) : List Byte := match imageOf slot k with | some i => sha512 (firmwareBytes i) | none => []
  [(0, extendMeas (Config.freeDigest 0 (packNat 32 s.power.fusedMin + leNat s.power.rootKey <<< 128))), (1, extendMeas (img 1)), (2, extendMeas (img 2)), (3, extendMeas (img 3)),
   (4, extendMeas (img 4)), (5, extendMeas (Config.freeDigest 5 (leNat s.retirement))), (6, extendMeas (sha512 s.power.flash.config)),
   (7, extendMeas (Config.freeDigest 7 (packNat 8 (s.core.part.grade :: s.core.part.fused))))]

/-- Step 3 with a slot that passes: its images run and are measured, a trip is written into the event area (R473). -/
def State.booted (s : State) (b : Bool) : State :=
  let p := s.power
  let slot := if b then p.flash.slotB else p.flash.slotA
  { s with power := { p with mainOn := true, bootedB := b, meas := s.measured slot, stage := 4, waitFor := 0,
                             running := [1, 2, 3, 4].map (fun k => match imageOf slot k with | some i => i.version | none => 0),
                             flash := { p.flash with events := p.flash.events ++ p.flash.tripped.toList, tripped := none } } }

/-! Start-up (Table 17-5). -/

/-- A row that fails the test of step 4: into a spare row at once, or its channel is retired where none is left (R477, R347). -/
def Dram.failRow (d : Dram) (r : Nat × Nat) : Dram :=
  if d.retiredChannels.contains r.1 || d.retiredRows.contains r then d
  else if (d.retiredRows.filter (fun x => x.1 == r.1)).length < 63 then { d with retiredRows := d.retiredRows ++ [r] }
  else { d with retiredChannels := d.retiredChannels ++ [r.1] }

/-- Step 4: the memory test; every active channel then holds zeros (R477). -/
def State.memoryTest (s : State) (rows : List (Nat × Nat)) : State :=
  let d := rows.foldl Dram.failRow s.core.dram
  let d := { d with active := activeChannels d.retiredChannels }
  let s := { s with core := { s.core with dram := d, stacked := [] } }
  let s := { s with core := { s.core with counters := s.recordCounts }, power := { s.power with percent := 100 } }
  if d.active.isEmpty then s.stopStart 3
  else { s with power := { s.power with stage := 5, waitFor := if (s.core.port 0).perst && (s.core.port 1).perst then 2 else 0 } }

/-- Steps 3 and 4, once ENABLE is high: firmware from the slot that passes, then the memory test; with no such slot the start stops (R482). -/
def State.startUp (s : State) (f : BootFindings) : State :=
  match s.power.bootSlot with
  | none => s.stopStart (if slotSigned s.power.flash.slotA && slotSigned s.power.flash.slotB then 2 else 1)
  | some b => (s.booted b).memoryTest f.badRows

/-- ENABLE_HIGH (Table 17-5 step 2): in standby, or where a start that stopped saw ENABLE fall (R480), the start goes on. -/
def execEnableHigh (f : BootFindings) (s : State) : Host.Outcome State Fault Refusal :=
  .next (
    let again := s.power.stage == 15 && !s.power.enable
    let s := { s with power := { s.power with enable := true } }
    if s.power.standbyOn && (s.power.stage == 2 || again) then ({ s with power := { s.power with failCode := 0 } }).startUp f else s)

/-- The rows that fail the memory test of a start which COLD_START begins: a free value, as the command brings no findings (entry 149). -/
def bootRows (n : Nat) : List (Nat × Nat) := (Config.foundRows n).filter (fun r => decide (r.1 < 64) && decide (r.2 < 3145728 + 63))

/-- COLD_START (R471, Table 17-5 steps 1 and 2): only after a time without input, and not while a trip stands. With ENABLE high the start goes on at once. A
start that the input's cut-off stopped stands as stopped, with its fail code, until the input is cycled again or ENABLE falls and rises (R480; entry 134). -/
def execColdStart (s : State) : Host.Outcome State Fault Refusal :=
  .next (
    if s.power.standbyOn || s.power.thermTrip then s
    else if s.power.stage == 15 then { s with power := { s.power with standbyOn := true } }
    else
      let s := { s with power := { s.power with standbyOn := true, stage := 2, waitFor := 1, failCode := 0 } }
      if s.power.enable then ({ s with core := { s.core with free := s.core.free + 1 } }).startUp { badRows := bootRows s.core.free, badHearths := [] } else s)

/-- ENABLE_LOW (Table 17-9): back to standby, where step 2 waits again; a start that stopped keeps its fail code until ENABLE rises (R480). -/
def execEnableLow (s : State) : Host.Outcome State Fault Refusal :=
  .next (
    let s := { s with power := { s.power with enable := false } }
    if s.power.standbyOn && s.power.stage != 2 && s.power.stage != 15 then
      let s := s.mainOff
      { s with power := { s.power with stage := 2, waitFor := 1, failCode := 0 } }
    else s)

/-- Step 6: Hearths that fail their test are retired, logical numbering is formed; then the ports wait for a device id (R478). -/
def State.selfTest (s : State) (bad : List Nat) : State :=
  let m := s.core.mgt
  let gone := m.retiredHearths ++ bad.filter (fun h => !m.retiredHearths.contains h && !s.core.part.fused.contains h && decide (h < 88))
  let c := ({ s.core with mgt := { m with retiredHearths := gone } }).number
  if c.mgt.logical.isEmpty then ({ s with core := c }).stopStart 4
  else { s with core := c, power := { s.power with stage := 7, waitFor := 3 } }

/-- PCIE_LINK_UP: a port trains once its PERST# is deasserted (R425); the first one ends step 5. -/
def execPcieLinkUp (port : Nat) (mode : PcieMode) (f : BootFindings) (s : State) : Host.Outcome State Fault Refusal :=
  .next (
    let p := s.core.port port
    if !s.power.mainOn || s.power.stage < 5 || p.perst || p.trained then s
    else
      let s := { s with core := s.core.modPort port (fun p => { p with trained := true, gen := mode.gen, width := mode.width, sinceBeat := 0 }) }
      if s.power.stage == 5 then s.selfTest f.badHearths else s)

/-- PERST_DEASSERT: the port may train. -/
def execPerstDeassert (port : Nat) (s : State) : Host.Outcome State Fault Refusal :=
  .next { s with core := s.core.modPort port (fun p => { p with perst := false }),
                 power := if s.power.stage == 5 && s.power.waitFor == 2 then { s.power with waitFor := 0 } else s.power }

/-- CONFIG_REQUEST: answered, with retry status (2) until the port has trained (R479); none reaches a port without power or in reset. -/
def execConfigRequest (port : Nat) (s : State) : Host.Outcome State Fault Refusal :=
  .next (
    if !s.power.mainOn || (s.core.port port).perst then s
    else { s with core := s.core.modPort port (fun p => { (p.heard 1).says 1 with config := p.config ++ [if p.trained then 0 else 2] }) })

/-! The regulator (R472). -/

/-- What 64 A draw at the input voltage, in mW. -/
def Readings.currentCap (r : Readings) : Nat := 64 * r.inputMv

/-- The effective cap in mW. -/
def Power.effectiveCap (p : Power) (r : Readings) : Nat := min (1000 * p.cap) (Readings.currentCap r)

/-- The hottest of the enabled Hearths, and of the layers. -/
def Core.hottest (c : Core) (r : Readings) : Nat := c.mgt.logical.foldl (fun m h => max m (r.hearths.getD h 0)) 0
def Readings.hottestLayer (r : Readings) : Nat := r.layers.foldl max 0

/-- The setpoint that a decision may raise to. -/
def Power.target (p : Power) : Nat := if p.fixed then p.coreSet else 900

/-- The limits in a decision: 25 mV down, power, temperature, and those that allow no rise. -/
def Power.stepsDown (p : Power) (r : Readings) : Bool := decide (11 * p.effectiveCap r < 10000 * r.avg10us)
def Power.overCap (p : Power) (r : Readings) : Bool := decide (p.effectiveCap r < 1000 * r.avg1ms)
def tooHot (hearth layer : Nat) : Bool := decide (100 ≤ hearth) || decide (90 ≤ layer)
def Power.nearCap (p : Power) (r : Readings) : Bool := decide (98 * p.effectiveCap r ≤ 100000 * r.avg1ms)
def nearHot (hearth layer : Nat) : Bool := decide (98 ≤ hearth) || decide (88 ≤ layer)

/-- The next setpoint. -/
def Power.nextCore (p : Power) (r : Readings) (hearth layer : Nat) : Nat :=
  if p.stepsDown r then max 600 (p.coreNow - 25)
  else if p.overCap r || tooHot hearth layer then max 600 (p.coreNow - 5)
  else if !p.nearCap r && !nearHot hearth layer && decide (p.coreNow < p.target) then min 900 (min p.target (p.coreNow + 5))
  else p.coreNow

/-- Whether power, or temperature, held the setpoint down in a decision: it lowered it, or kept it from rising. -/
def Power.heldByPower (p : Power) (r : Readings) : Bool := p.stepsDown r || p.overCap r || (p.nearCap r && decide (p.coreNow < p.target))
def Power.heldByHeat (p : Power) (hearth layer : Nat) : Bool := tooHot hearth layer || (nearHot hearth layer && decide (p.coreNow < p.target))

/-- The counters of a decision, 10 µs each, and the clocks of the local reference: MGT_TIME_US, the watches of the ports, short refresh intervals
(R341, R437, R475). -/
def Core.decision (c : Core) (power current heat hot : Bool) : Core :=
  let c := if power && !current then c.bumpBy kCapLimited 10 else c
  let c := if power && current then c.bumpBy kCurrentLimited 10 else c
  let c := if heat then c.bumpBy kTempLimited 10 else c
  let c := if hot then c.bumpBy (kMem 4) 10 else c
  let c := { c with mgt := { c.mgt with timeUs := c.mgt.timeUs + 10 }, dram := c.dram.ticked 1 }
  [0, 1].foldl (fun c q => c.modPort q (fun p => { p with sinceBeat := p.sinceBeat + 10 })) c

/-- The beat rates of Table 17-4 at 600, 650, …, 900 mV and 75 °C, in M beats/s. -/
def beatRates : List Nat := [1300, 1550, 1780, 2000, 2200, 2380, 2520]

/-- The rate of a Hearth at 75 °C or less: between a setpoint's neighbours in Table 17-4, and the table's own value at a listed one (R474;
entry 95). -/
def rateAt (mv measured : Nat) : Nat :=
  max (beatRates.getD ((mv - 600) / 50) 2520) (min (beatRates.getD ((mv - 551) / 50) 2520) measured)

/-- The rate of the slowest enabled Hearth: 0.08 % lower for each °C above 75 (R29). -/
def slowestRate (mv measured hottest : Nat) : Nat := rateAt mv measured * (10000 - 8 * (hottest - 75)) / 10000

/-- The rates of the last 100 µs, and their average, which MGT_BEAT_RATE reports (R474). -/
def Power.rateWindow (p : Power) (rate : Nat) : List Nat := (rate :: p.rates).take 10
def Power.averageRate (p : Power) (rate : Nat) : Nat := (p.rateWindow rate).foldl (· + ·) 0 / (p.rateWindow rate).length

/-- One decision of the regulator. -/
def State.regulate (s : State) (r : Readings) : State :=
  let p := s.power
  let hearth := s.core.hottest r
  let layer := Readings.hottestLayer r
  let rate := slowestRate (p.nextCore r hearth layer) r.beatRate hearth
  let c := s.core.decision (p.heldByPower r) (decide (Readings.currentCap r < 1000 * p.cap)) (p.heldByHeat hearth layer) (!p.hot.isEmpty)
  let s := { s with core := c,
                    power := { p with coreNow := p.nextCore r hearth layer, powerNow := r.avg1ms, inputMv := r.inputMv,
                                      beatRate := p.averageRate rate, rates := p.rateWindow rate,
                                      hearthTemp := r.hearths.mapIdx (fun i t => (i, t)), tick := (p.tick + 1) % 100 } }
  if s.power.tick == 0 then { s with links := s.links.map (fun (p : Nat × Link) => (p.1, p.2.endWindow)) } else s

/-- REGULATOR_TICK; there is none with the main converter off. -/
def execRegulatorTick (r : Readings) (s : State) : Host.Outcome State Fault Refusal := .next (if s.power.mainOn then s.regulate r else s)

end Sys2Proof.Machine
end

