-- ==== Sys2Proof/Machine/Attest.lean ====
section
/-!
DEFINITION. Sys2Proof/Machine/Attest.lean: the management block's MCTP traffic (R487, R488): vendor commands, PLDM, firmware update (R483), SPDM
(R486). Replies are listed in the state; what another standard lays out of one is free (entry 18).
-/

namespace Sys2Proof.Machine

/-- Words of 16 bytes that cross into the management domain, and out of it (R365, Table 12-5). -/
def Power.heard (p : Power) (n : Nat) : Power := { p with mgtIn := p.mgtIn.pass EdgeDomain.management.pointerBits n }
def Power.says (p : Power) (n : Nat) : Power := { p with mgtOut := p.mgtOut.pass EdgeDomain.management.pointerBits n }

/-- A request served while the standby side has power (Table 17-5 step 2); nothing of the job side changes (R488). The spec gives requests no length:
one word of the edge FIFO each (entry 119). -/
def State.serve (s : State) (f : State → State) : State := if s.power.standbyOn then f { s with power := s.power.heard 1 } else s

/-- A reply sent. -/
def State.reply (s : State) (b : List Byte) : State :=
  { s with power := { s.power.says (crossings 16 b.length) with replies := s.power.replies ++ [b] } }

/-- A reply whose layout this spec leaves to another standard, about given bytes. -/
def State.freeReply (s : State) (about : List Byte) : State :=
  { s.reply (Config.freeReply s.core.free about) with core := { s.core with free := s.core.free + 1 } }

/-- A reply with a signature of the identity key over it (R486). -/
def State.signedReply (s : State) (b : List Byte) : State :=
  { s.reply (b ++ Config.freeSignature s.core.free b) with core := { s.core with free := s.core.free + 1 } }

/-- SET_DEVICE_ID (R478). -/
def execSetDeviceId (value : Nat) (s : State) : Host.Outcome State Fault Refusal := .next (s.serve (fun s => s.setDeviceId value))

/-- The cap that a value written leaves in MGT_POWER_CAP (R495). -/
def judgedCap (v : Nat) : Nat := (reg1 0 12 .now 2400 1200 2800).judge v

/-- SET_POWER_CAP (R488). -/
def execSetPowerCap (value : Nat) (s : State) : Host.Outcome State Fault Refusal :=
  .next (s.serve (fun s => { s with power := { s.power with cap := judgedCap value } }))

/-- GET_BOOT_STATUS: the register's value (Table 17-6). -/
def execGetBootStatus (s : State) : Host.Outcome State Fault Refusal :=
  .next (s.serve (fun s => s.reply (leBytes 8 s.power.bootStatus)))

/-- GET_RETIREMENT. -/
def execGetRetirement (s : State) : Host.Outcome State Fault Refusal := .next (s.serve (fun s => s.freeReply s.retirement))

/-- GET_EVENTS: the event area (R473). -/
def execGetEvents (s : State) : Host.Outcome State Fault Refusal := .next (s.serve (fun s => s.freeReply (pairsOf s.power.flash.events)))

/-- MCTP_CONTROL. -/
def execMctpControl (request : List Byte) (s : State) : Host.Outcome State Fault Refusal := .next (s.serve (fun s => s.freeReply request))

/-- What the sensors read: input power and voltage, setpoint, beat rate, junctions, layers (Table 17-7). -/
def Power.sensors (p : Power) : List Byte :=
  pairsOf ([p.powerNow, p.inputMv, p.coreNow, p.beatRate] ++ (List.range 88).map (spGet 0 p.hearthTemp) ++ (List.range 16).map (spGet 0 p.layerTemp))

/-- PLDM_SENSOR. -/
def execPldmSensor (request : List Byte) (s : State) : Host.Outcome State Fault Refusal :=
  .next (s.serve (fun s => s.freeReply (request ++ s.power.sensors)))

/-- An image put in a slot in the place of the one of its kind. -/
def withImage (slot : List Image) (i : Image) : List Image := slot.filter (fun x => x.kind != i.kind) ++ [i]

/-- An image written to the slot that did not boot; a slot that verifies whole becomes the preferred one (R483). -/
def Flash.update (f : Flash) (bootedB : Bool) (i : Image) : Flash :=
  if bootedB then
    let a := withImage f.slotA i
    { f with slotA := a, preferB := if slotSigned a then false else f.preferB }
  else
    let b := withImage f.slotB i
    { f with slotB := b, preferB := if slotSigned b then true else f.preferB }

/-- PLDM_FIRMWARE_UPDATE: the image runs only after the next cold start. -/
def execPldmFirmwareUpdate (image : Image) (s : State) : Host.Outcome State Fault Refusal :=
  .next (s.serve (fun s => { s with power := { s.power with flash := s.power.flash.update s.power.bootedB image } }))

/-- SPDM request codes (PRESUMED, DSP0274; entry 18). -/
def spdmReply (code : Nat) (d : List Byte) (s : State) : State := s.freeReply (leBytes 1 code ++ d)

/-- An SPDM ERROR message (PRESUMED, DSP0274; entry 18): version 1.2, ERROR, its code and data. -/
def spdmError (code data : Nat) : List Byte := leBytes 1 0x12 ++ leBytes 1 0x7F ++ leBytes 1 code ++ leBytes 1 data

/-- GET_VERSION. -/
def execGetVersion (s : State) : Host.Outcome State Fault Refusal := .next (s.serve (spdmReply 0x84 []))

/-- GET_CAPABILITIES. -/
def execGetCapabilities (s : State) : Host.Outcome State Fault Refusal := .next (s.serve (spdmReply 0xE1 []))

/-- The only algorithms of the device (R486), as bits of DSP0274 (PRESUMED; entry 18): RSASSA-PSS 4096 and SHA-512. -/
def spdmAsym : Nat := 0x40
def spdmHash : Nat := 0x04

/-- NEGOTIATE_ALGORITHMS: RSASSA-PSS 4096 and SHA-512 selected; a requester that does not offer both gets ERROR InvalidRequest. -/
def execNegotiateAlgorithms (asym hash : Nat) (s : State) : Host.Outcome State Fault Refusal :=
  .next (s.serve (fun s =>
    if bit asym 6 && bit hash 2 then spdmReply 0xE3 (leBytes 4 spdmAsym ++ leBytes 4 spdmHash) s else s.reply (spdmError 0x01 0)))

/-- GET_DIGESTS. -/
def execGetDigests (s : State) : Host.Outcome State Fault Refusal := .next (s.serve (spdmReply 0x81 []))

/-- GET_CERTIFICATE: slot 0 only; the bytes of the chain that the configuration area holds, behind a free header (R485). -/
def execGetCertificate (slot off len : Nat) (s : State) : Host.Outcome State Fault Refusal :=
  .next (s.serve (fun s =>
    if slot == 0 then
      { s.reply (Config.freeReply s.core.free (leBytes 1 0x82 ++ leBytes 2 off ++ leBytes 2 len) ++ (s.power.flash.config.drop off).take len) with
        core := { s.core with free := s.core.free + 1 } }
    else s.reply (spdmError 0x01 0)))

/-- CHALLENGE: slot 0 only; signed over the nonce and the measurement registers. -/
def execChallenge (slot : Nat) (nonce : List Byte) (s : State) : Host.Outcome State Fault Refusal :=
  .next (s.serve (fun s =>
    if slot == 0 then s.signedReply (nonce ++ sha512 ((List.range 8).flatMap (fun i => (kvGet s.power.meas i).getD (List.replicate 64 0#8))))
    else s.reply (spdmError 0x01 0)))

/-- GET_MEASUREMENTS: indices 1 to 8 carry registers 0 to 7; the response is signed, whether the request asks for it or not (R486). -/
def execGetMeasurements (index : Nat) (_signed : Bool) (nonce : List Byte) (s : State) : Host.Outcome State Fault Refusal :=
  .next (s.serve (fun s =>
    if index == 0 || decide (8 < index) then s.reply (spdmError 0x01 0)
    else
      let m := (kvGet s.power.meas (index - 1)).getD (List.replicate 64 0#8)
      s.signedReply (nonce ++ m)))

/-- SPDM_UNSUPPORTED: ERROR UnsupportedRequest. -/
def execSpdmUnsupported (code : Nat) (s : State) : Host.Outcome State Fault Refusal := .next (s.serve (fun s => s.reply (spdmError 0x07 code)))

end Sys2Proof.Machine
end

