-- ==== Sys2Proof/Machine/Closing.lean ====
section
/-!
DEFINITION. Sys2Proof/Machine/Closing.lean: the close of a Roll call (R327): each local participant gets the result.
-/

namespace Sys2Proof.Machine

/-- The result written over the payload of an OP_ROLL, whose descriptor then completes (Table 15-6, R327). -/
def rollBack (o : Origin) (wb : Nat) (payload : List Byte) : OpM Unit := do
  let c ← get
  let a := wb % 2 ^ 64
  if bit wb 64 then set (c.hostWrite o.port a payload)
  else storeTo { c.descWho o (wb >>> 65) with keyed := false } vcReq a payload
  update (fun c => c.descDone o stOk)

/-- The result at one local participant (R327): a ROLL of a Hearth completes with its write-back. -/
def Core.rollDeliver (payload : List Byte) (c : Core) (a : Party × List Byte × Nat) : Core :=
  match a.1 with
  | .hearth h =>
    match (c.hearth h).yq with
    | .rolled _ _ :: _ => c.perform h 4 (fun c => c) do
      writeScratch h a.2.2 payload
      update (fun c => c.yDone h)
      yPump h 5
    | _ => c
  | .host o => c.runDesc o (rollBack o a.2.2 payload)
  | .bellows e back => c.runBellows 0 (bellowsRolled e back payload)
  | .crucible => c.runCrucible (crucibleRolled payload)
  | .picker => c.runCrucible (crucibleRolled payload)
  | .snapshot => c.runSnap (snapRolled payload)

/-- The open generation of a context closes and the next one opens; its participants get the result. -/
def Core.closeRoll (c : Core) (ctx : Nat) : Core :=
  let x := c.rollCtx ctx
  match x.result with
  | none => c
  | some payload => x.arrived.foldl (Core.rollDeliver payload) (c.runBlock clsSync ctx (c.ctxRec ctx).scope (rollClose ctx))

/-- ROLL_CALL_CLOSE; not enabled before the result is here (entry 6). -/
def execRollCallClose (ctx : Nat) (s : State) : Host.Outcome State Fault Refusal :=
  .next { s with core := s.core.gated (fun c => if c.rollReady ctx then c.closeRoll ctx else c) }

end Sys2Proof.Machine
end

