-- ==== Sys2Proof/Machine/Receive.lean ====
section
/-!
DEFINITION. Sys2Proof/Machine/Receive.lean: transactions that arrive on a Farger port. Each is taken in order, waits in its receive buffer while its
block or its output port has no room, and then acts (R374 to R377, R385, R391).
-/

namespace Sys2Proof.Machine

/-! Who can take what. -/

/-- The writes that wait at the line unit. -/
def Core.lineWrites (c : Core) : List LineWrite := c.fabric.lineWait.filter (fun w => w.txn.op != opLoad)

/-- Whether the line unit has room for more parts: it holds 1,024 writes (R417). -/
def Core.lineRoom (c : Core) (parts : Nat) : Bool := decide (c.lineWrites.length + parts ≤ 1024)

/-- Whether a port's REQ and SYNC credits are withheld: the line unit is full, with a write that came over the port (R417). -/
def Core.lineHolds (c : Core) (port : Nat) : Bool := decide (1024 ≤ c.lineWrites.length) && c.lineWrites.any (fun w => w.port == port)

/-- Whether the block that a transaction is for can take it now. A full line unit holds all of REQ and SYNC (R417). The restart wave discards what comes for
the job (Table 13-8); a frame for another device waits for its output port, unless it goes nowhere. -/
def State.frameReady (s : State) (port vc : Nat) (i : Instr) : Bool :=
  if !s.core.halted && (vc == vcReq || vc == vcSync) && s.core.lineHolds port then false
  else match i with
    | .frameForward w f => (s.transit w f).isNone
    | .token _ f => s.core.halted || s.core.tokenReady f
    | .storeRequest _ t data => s.core.halted || s.core.lineRoom (cuts 64 (t.addr % 2 ^ 48) data.length).length
    | .atomicRequest _ _ => s.core.halted || s.core.lineRoom 1
    | .signalRequest _ _ => s.core.halted || s.core.lineRoom 1
    | _ => true

/-! What each does. -/

/-- What a transaction does on the job side once it has left its receive buffer. -/
def Core.takeFrame (c : Core) (i : Instr) : Core :=
  match i with
  | .pullRequest _ f => c.pullRequest f
  | .granule _ f => c.runBellows f.layer (landGranule f)
  | .token _ f => c.runBellows f.layer (takeToken f)
  | .answer _ f => c.runBellows 0 (takeAnswer f)
  | .progress _ holder epoch => if (c.batch epoch).isSome then c.hear holder epoch else c
  | .contrib _ f => c.runCrucible (takeContrib f)
  | .gatherGranule _ f => c.runCrucible do
    landGather f
    forwardGather f
    gatherCheck
    serveReady
  | .rollArrivalMsg w f => if c.rollForeign w.port f then c.bump kKeyRefused else c.runBlock clsSync f.ctx (c.ctxRec f.ctx).scope (rollMessage f)
  | .rollResultMsg _ f => c.runBlock clsSync f.ctx (c.ctxRec f.ctx).scope (rollResult f)
  | .loadRequest w t => c.loadRequest w.port { t with op := opLoad }
  | .storeRequest w t data => c.storeRequest w.port { t with op := opStore } data
  | .atomicRequest w t => c.atomicRequest w.port { t with op := opAtomic }
  | .signalRequest w t => c.signalRequest w.port { t with op := opSignalTx }
  | .dataResponse _ t data => c.dataResponse t data
  | .doneResponse _ t => c.doneResponse t
  | .resultResponse _ t => c.resultResponse t
  | .frameForward _ f => c.refuseTransit f
  | _ => c

/-- The same for the state: the wave and frames for other devices pass while the restart wave holds the device; the rest is then discarded (R420,
Table 13-8). The device writes no reserved status, so a wave that brings one counts as ST_FORMAT (R12; entry 96). -/
def State.takeFrame (s : State) (i : Instr) : State :=
  match i with
  | .frameForward w f => if s.core.isSelf f.txn.dst then { s with core := s.core.gated (fun c => c.takeFrame i) } else s.dropTransit w f
  | .restartWave w number origin status sender => { s with core := s.core.waveArrives w.port number origin (knownStatus status) sender }
  | .dataResponse _ t _ => { s with core := if s.core.halted then s.core.lateResponse t [opLoad] else s.core.takeFrame i }
  | .doneResponse _ t => { s with core := if s.core.halted then s.core.lateResponse t [opStore, opSignalTx] else s.core.takeFrame i }
  | .resultResponse _ t => { s with core := if s.core.halted then s.core.lateResponse t [opAtomic] else s.core.takeFrame i }
  | _ => { s with core := s.core.gated (fun c => c.takeFrame i) }

/-! Arrival. -/

/-- Whether nothing of a channel waits on a port. -/
def Link.channelEmpty (l : Link) (vc : Nat) : Bool := !l.rx.any (fun h => h.vc == vc)

/-- A transaction's frames arrive, clean: discarded where they are not the next in order; else taken at once, or held behind others of the channel and
until there is room. -/
def State.arrive (s : State) (w : Head) (vc bytes : Nat) (i : Instr) : State :=
  if !(s.link w.port).inOrder w then s
  else if (s.link w.port).channelEmpty vc && s.frameReady w.port vc i then
    let a := s.accept w vc bytes
    let r := a.portSensed w.port
    let a := { a with core := r.1 }
    if r.2 then a.takeFrame i else a
  else s.hold w vc bytes i

/-- The first held transaction of a port that can go now: the head of a channel that its block can take. -/
def State.heldReady (s : State) (p : Nat) : Option Held :=
  let l := s.link p
  [vcSync, vcReq, vcRsp, vcBulk].findSome? (fun vc =>
    match l.rx.find? (fun h => h.vc == vc) with
    | some h => if s.frameReady p h.vc h.cmd then some h else none
    | none => none)

/-- A held transaction leaves its buffer, its credits are owed, and it acts. -/
def State.takeHeld (s : State) (p : Nat) (h : Held) : State :=
  let s := s.leave p h.vc p
  let r := s.portSensed p
  let s := { s with core := r.1 }
  if r.2 then s.takeFrame h.cmd else s

/-! Commands. -/

/-- PULL_REQUEST. -/
def execPullRequest (w : Head) (f : PullF) (s : State) : Host.Outcome State Fault Refusal := .next (s.arrive w vcReq 0 (.pullRequest w f))

/-- GRANULE. -/
def execGranule (w : Head) (f : GranuleF) (s : State) : Host.Outcome State Fault Refusal := .next (s.arrive w vcBulk f.data.length (.granule w f))

/-- TOKEN. -/
def execToken (w : Head) (f : TokenF) (s : State) : Host.Outcome State Fault Refusal := .next (s.arrive w vcReq f.data.length (.token w f))

/-- ANSWER. -/
def execAnswer (w : Head) (f : AnswerF) (s : State) : Host.Outcome State Fault Refusal := .next (s.arrive w vcRsp f.data.length (.answer w f))

/-- PROGRESS: a holder still works on guests of a batch (R419). -/
def execProgress (w : Head) (holder epoch : Nat) (s : State) : Host.Outcome State Fault Refusal := .next (s.arrive w vcRsp 0 (.progress w holder epoch))

/-- CONTRIB. -/
def execContrib (w : Head) (f : ContribF) (s : State) : Host.Outcome State Fault Refusal := .next (s.arrive w vcBulk (s.core.contribLength f) (.contrib w f))

/-- GATHER_GRANULE. -/
def execGatherGranule (w : Head) (f : GatherF) (s : State) : Host.Outcome State Fault Refusal :=
  .next (s.arrive w vcBulk f.data.length (.gatherGranule w f))

/-- ROLL_ARRIVAL_MSG; one for the other tenant's context is refused, which is counted here (R314, R405). -/
def execRollArrivalMsg (w : Head) (f : RollMsg) (s : State) : Host.Outcome State Fault Refusal := .next (s.arrive w vcSync 64 (.rollArrivalMsg w f))

/-- ROLL_RESULT_MSG. -/
def execRollResultMsg (w : Head) (f : RollMsg) (s : State) : Host.Outcome State Fault Refusal := .next (s.arrive w vcSync 64 (.rollResultMsg w f))

/-- LOAD_REQUEST. A request for another device changes nothing here: it is a frame to forward. -/
def execLoadRequest (w : Head) (t : Txn) (s : State) : Host.Outcome State Fault Refusal :=
  .next (if s.core.isSelf t.dst then s.arrive w vcReq 0 (.loadRequest w t) else s)

/-- STORE_REQUEST, on its channel (Table 14-3). -/
def execStoreRequest (w : Head) (t : Txn) (data : List Byte) (s : State) : Host.Outcome State Fault Refusal :=
  .next (if s.core.isSelf t.dst then s.arrive w (if t.copy then vcBulk else vcReq) data.length (.storeRequest w t data) else s)

/-- ATOMIC_REQUEST. -/
def execAtomicRequest (w : Head) (t : Txn) (s : State) : Host.Outcome State Fault Refusal :=
  .next (if s.core.isSelf t.dst then s.arrive w vcReq 0 (.atomicRequest w t) else s)

/-- SIGNAL_REQUEST. -/
def execSignalRequest (w : Head) (t : Txn) (s : State) : Host.Outcome State Fault Refusal :=
  .next (if s.core.isSelf t.dst then s.arrive w vcSync 0 (.signalRequest w t) else s)

/-- DATA_RESPONSE. -/
def execDataResponse (w : Head) (t : Txn) (data : List Byte) (s : State) : Host.Outcome State Fault Refusal :=
  .next (s.arrive w vcRsp data.length (.dataResponse w t data))

/-- DONE_RESPONSE. -/
def execDoneResponse (w : Head) (t : Txn) (s : State) : Host.Outcome State Fault Refusal :=
  .next (s.arrive w (s.core.doneChannel t) 0 (.doneResponse w t))

/-- RESULT_RESPONSE. -/
def execResultResponse (w : Head) (t : Txn) (s : State) : Host.Outcome State Fault Refusal := .next (s.arrive w vcRsp 0 (.resultResponse w t))

/-- RESTART_WAVE (R452, R453). -/
def execRestartWave (w : Head) (number origin status sender : Nat) (s : State) : Host.Outcome State Fault Refusal :=
  .next (s.arrive w vcSync 0 (.restartWave w number origin status sender))

/-- FRAME_FORWARD: a clean frame for another device has come in; the switch works through a restart wave (Table 13-8). Of the frames for this device only
one with a reserved op is this command's: it is discarded, and a fault (Table 14-3). -/
def execFrameForward (w : Head) (f : Frame) (s : State) : Host.Outcome State Fault Refusal :=
  .next (if s.core.isSelf f.txn.dst && !reservedOp f.txn.op then s else s.arrive w f.vc f.data.length (.frameForward w f))

end Sys2Proof.Machine
end

