-- ==== Sys2Proof/Machine/Tick.lean ====
section
/-!
DEFINITION. Sys2Proof/Machine/Tick.lean: what the device does by itself when no command waits (entry 5): one step of the first of its own engines,
in a fixed order, that has one to make.
-/

namespace Sys2Proof.Machine

/-- The first of a list of steps that changes the job side. -/
def firstChange (c : Core) : List (Core → Core) → Option Core
  | [] => none
  | f :: rest => let d := f c; if d == c then firstChange c rest else some d

/-- Descriptors that may start, by port and ring (R431). -/
def Core.ringSteps (c : Core) : List (Core → Core) :=
  c.ports.flatMap (fun (p : Nat × HostPort) => p.2.rings.flatMap (fun (r : Nat × Ring) =>
    match r.2.fetched with
    | f :: _ => if c.canStart p.1 r.1 f then [fun (c : Core) => c.startHead p.1 r.1 f] else []
    | [] => []))

/-- Transfers whose bytes have come and whose work was held back. -/
def Core.transferSteps (c : Core) : List (Core → Core) :=
  (c.fabric.xfers.filter Transfer.full).map (fun (t : Transfer) (c : Core) => c.endXfer t (contBody t.cont t.bytes))

/-- Descriptors whose last write has become visible (R434). -/
def Core.awaitedSteps (c : Core) : List (Core → Core) :=
  c.ports.flatMap (fun (p : Nat × HostPort) => p.2.rings.flatMap (fun (r : Nat × Ring) =>
    (r.2.started.filter (fun t => t.awaited == 1)).map (fun (t : Started) (c : Core) => c.descDelivered ⟨p.1, r.1, t.slot⟩)))

/-- The engines of the hub: line unit, snapshots, Roll calls, Timetable, pools. -/
def Core.hubSteps (c : Core) : List (Core → Core) :=
  ((c.fabric.lineWait.take 1).map (fun (w : LineWrite) (c : Core) => c.serveLine w.line)) ++
  (if c.snap.phase == 2 && c.snapDrained then [fun (c : Core) => c.runSnap snapDrainTry] else []) ++
  (if c.snap.phase == 0 && !c.snap.waiting.isEmpty then [Core.snapNext] else []) ++
  ((c.sync.ctxs.filter (fun (p : Nat × RollCtx) => c.rollReady p.1)).map (fun (p : Nat × RollCtx) (c : Core) => c.closeRoll p.1)) ++
  ((c.tt.waiting.filter (fun (p : Nat × List Item) => !p.2.isEmpty)).map (fun (p : Nat × List Item) (c : Core) => (c.postAll p.1 (p.2.length + 1)).runBellows 0 (pure ()))) ++
  ((c.pools.sets.filter (fun (p : Nat × PoolSet) => p.2.enabled && !p.2.ready)).map (fun (p : Nat × PoolSet) (c : Core) => c.runPool (poolInit p.1)))

/-- The scatter buffers: a queued chunk of a bank, a drain. -/
def Core.smithySteps (c : Core) : List (Core → Core) :=
  c.smithies.flatMap (fun (p : Nat × Smithy) =>
    ((p.2.banks.filter (fun (b : Nat × List Chunk) => !b.2.isEmpty)).map (fun (b : Nat × List Chunk) (c : Core) => c.runDrain (bankStep p.1 b.1))) ++
    (if c.drainReady p.1 then [fun (c : Core) => c.runDrain (frameDrain p.1)] else []))

/-- The units of a Hearth: a writeback, the queued operations that may start, the Y queue, a TAKE, the end of its run, its next word, a lent item. -/
def Core.hearthSteps (c : Core) (h : Nat) : List (Core → Core) :=
  (if c.writebackReady h then [fun (c : Core) => c.runWriteback h] else []) ++
  (c.startables h).map (fun (i : Issued) (c : Core) => c.runQueued h i) ++
  (if (c.hearth h).running && !(c.hearth h).yq.isEmpty then [fun (c : Core) => c.pumpY h] else []) ++
  (match (c.hearth h).taking with
   | some r => [fun (c : Core) => c.perform h 5 (fun c => c) (do let _ ← tryTake h r)]
   | none => []) ++
  (if c.runEndReady h then [fun (c : Core) => c.runEnd h] else []) ++
  (if (c.hearth h).running && (c.hearth h).ended.isNone then [fun (c : Core) => c.issueNext h] else []) ++
  (if c.lentReady h then [fun (c : Core) => c.takeLent h] else [])

/-- Every engine's steps, in the order in which they are tried. -/
def Core.engineSteps (c : Core) : List (Core → Core) :=
  c.ringSteps ++ c.awaitedSteps ++ c.transferSteps ++ c.hubSteps ++ c.smithySteps ++ c.mgt.logical.flatMap c.hearthSteps

/-- One step of the device's own: a frame leaves a port; else one leaves a receive buffer; else an engine moves, unless the restart wave holds the device;
else nothing is left to do and it idles. -/
def State.tick (s : State) : State :=
  match s.links.find? (fun (p : Nat × Link) => s.sends p.1) with
  | some p => s.linkStep p.1
  | none =>
    match s.links.findSome? (fun (p : Nat × Link) => (s.heldReady p.1).map (fun h => (p.1, h))) with
    | some (p, h) => s.takeHeld p h
    | none =>
    if s.core.halted then s
    else match firstChange s.core s.core.engineSteps with
      | some c => { s with core := c }
      | none => s

end Sys2Proof.Machine
end

