-- ==== Sys2Proof/Machine/Dispatch.lean ====
section
/-!
DEFINITION. Sys2Proof/Machine/Dispatch.lean: the meaning of every command.
-/

namespace Sys2Proof.Machine

/-- What a command does to everything but the queue of waiting commands. -/
def exec (i : Instr) (s : State) : Host.Outcome State Fault Refusal :=
  match i with
  | .opLessonLoad o d => Sys2Proof.Machine.execOpLessonLoad o d s
  | .opCard o d => Sys2Proof.Machine.execOpCard o d s
  | .opRun o d => Sys2Proof.Machine.execOpRun o d s
  | .opRunLend o d => Sys2Proof.Machine.execOpRunLend o d s
  | .opCopy o d => Sys2Proof.Machine.execOpCopy o d s
  | .opFill o d => Sys2Proof.Machine.execOpFill o d s
  | .opSignal o d => Sys2Proof.Machine.execOpSignal o d s
  | .opSignalSub o d => Sys2Proof.Machine.execOpSignalSub o d s
  | .opRoll o d => Sys2Proof.Machine.execOpRoll o d s
  | .forwardBatch o d => Sys2Proof.Machine.execForwardBatch o d s
  | .backwardBatch o d => Sys2Proof.Machine.execBackwardBatch o d s
  | .releaseBatch o d => Sys2Proof.Machine.execReleaseBatch o d s
  | .cancelBatch o d => Sys2Proof.Machine.execCancelBatch o d s
  | .opCrucibleStep o d => Sys2Proof.Machine.execOpCrucibleStep o d s
  | .snapshotTake o d => Sys2Proof.Machine.execSnapshotTake o d s
  | .snapshotRestore o d => Sys2Proof.Machine.execSnapshotRestore o d s
  | .opSeat o d => Sys2Proof.Machine.execOpSeat o d s
  | .tload h f => Sys2Proof.Machine.execTload h f s
  | .tgather h f => Sys2Proof.Machine.execTgather h f s
  | .tfill h f => Sys2Proof.Machine.execTfill h f s
  | .tstore h f => Sys2Proof.Machine.execTstore h f s
  | .tscatter h f => Sys2Proof.Machine.execTscatter h f s
  | .aload h f => Sys2Proof.Machine.execAload h f s
  | .astream h f => Sys2Proof.Machine.execAstream h f s
  | .abind h f => Sys2Proof.Machine.execAbind h f s
  | .aclose h f => Sys2Proof.Machine.execAclose h f s
  | .acatch h f => Sys2Proof.Machine.execAcatch h f s
  | .groupWriteback h => Sys2Proof.Machine.execGroupWriteback h s
  | .vdef h chain record => Sys2Proof.Machine.execVdef h chain record s
  | .vrun h f => Sys2Proof.Machine.execVrun h f s
  | .vlen h reg => Sys2Proof.Machine.execVlen h reg s
  | .wait h f => Sys2Proof.Machine.execWait h f s
  | .waitSatisfied h => Sys2Proof.Machine.execWaitSatisfied h s
  | .signal h f => Sys2Proof.Machine.execSignal h f s
  | .sub h f => Sys2Proof.Machine.execSub h f s
  | .roll h f => Sys2Proof.Machine.execRoll h f s
  | .fence h => Sys2Proof.Machine.execFence h s
  | .loop h f => Sys2Proof.Machine.execLoop h f s
  | .brk h f => Sys2Proof.Machine.execBrk h f s
  | .jump h f => Sys2Proof.Machine.execJump h f s
  | .alu h f => Sys2Proof.Machine.execAlu h f s
  | .li h d imm => Sys2Proof.Machine.execLi h d imm s
  | .ldx h d off => Sys2Proof.Machine.execLdx h d off s
  | .take h ring => Sys2Proof.Machine.execTake h ring s
  | .timetableItemTaken h => Sys2Proof.Machine.execTimetableItemTaken h s
  | .runEnd h => Sys2Proof.Machine.execRunEnd h s
  | .lentItemTake h => Sys2Proof.Machine.execLentItemTake h s
  | .lentBudgetExpiry h => Sys2Proof.Machine.execLentBudgetExpiry h s
  | .routerRecord record => Sys2Proof.Machine.execRouterRecord record s
  | .timetablePost ring => Sys2Proof.Machine.execTimetablePost ring s
  | .intakeTimeout epoch => Sys2Proof.Machine.execIntakeTimeout epoch s
  | .pullRequest w f => Sys2Proof.Machine.execPullRequest w f s
  | .mergeWindowClose layer expert step => Sys2Proof.Machine.execMergeWindowClose layer expert step s
  | .granule w f => Sys2Proof.Machine.execGranule w f s
  | .token w f => Sys2Proof.Machine.execToken w f s
  | .answer w f => Sys2Proof.Machine.execAnswer w f s
  | .frameRecord h record => Sys2Proof.Machine.execFrameRecord h record s
  | .combineScatter h f => Sys2Proof.Machine.execCombineScatter h f s
  | .scatterChunk smithy bank => Sys2Proof.Machine.execScatterChunk smithy bank s
  | .closeRecord h record => Sys2Proof.Machine.execCloseRecord h record s
  | .frameDrain smithy => Sys2Proof.Machine.execFrameDrain smithy s
  | .hashScatter h f => Sys2Proof.Machine.execHashScatter h f s
  | .mergeRecord a record => Sys2Proof.Machine.execMergeRecord a record s
  | .announce a record => Sys2Proof.Machine.execAnnounce a record s
  | .contrib w f => Sys2Proof.Machine.execContrib w f s
  | .gatherGranule w f => Sys2Proof.Machine.execGatherGranule w f s
  | .rollArrivalMsg w f => Sys2Proof.Machine.execRollArrivalMsg w f s
  | .rollResultMsg w f => Sys2Proof.Machine.execRollResultMsg w f s
  | .rollCallClose ctx => Sys2Proof.Machine.execRollCallClose ctx s
  | .rollCallTimeout ctx => Sys2Proof.Machine.execRollCallTimeout ctx s
  | .tallyWindowStore a off len key word => Sys2Proof.Machine.execTallyWindowStore a off len key word s
  | .tallyWindowLoad h off len key dst => Sys2Proof.Machine.execTallyWindowLoad h off len key dst s
  | .atomicRecord a off record => Sys2Proof.Machine.execAtomicRecord a off record s
  | .poolRequest tenant record => Sys2Proof.Machine.execPoolRequest tenant record s
  | .poolFree tenant record => Sys2Proof.Machine.execPoolFree tenant record s
  | .poolSetInitDone set => Sys2Proof.Machine.execPoolSetInitDone set s
  | .loadRequest w t => Sys2Proof.Machine.execLoadRequest w t s
  | .storeRequest w t data => Sys2Proof.Machine.execStoreRequest w t data s
  | .atomicRequest w t => Sys2Proof.Machine.execAtomicRequest w t s
  | .signalRequest w t => Sys2Proof.Machine.execSignalRequest w t s
  | .lineUnitWrite line => Sys2Proof.Machine.execLineUnitWrite line s
  | .dataResponse w t data => Sys2Proof.Machine.execDataResponse w t data s
  | .doneResponse w t => Sys2Proof.Machine.execDoneResponse w t s
  | .resultResponse w t => Sys2Proof.Machine.execResultResponse w t s
  | .progress w holder epoch => Sys2Proof.Machine.execProgress w holder epoch s
  | .progressTimer origin epoch => Sys2Proof.Machine.execProgressTimer origin epoch s
  | .fabResendTimer dst => Sys2Proof.Machine.execFabResendTimer dst s
  | .fabTimeout dst tag => Sys2Proof.Machine.execFabTimeout dst tag s
  | .replayEntryEvict src seq => Sys2Proof.Machine.execReplayEntryEvict src seq s
  | .frameForward w f => Sys2Proof.Machine.execFrameForward w f s
  | .badFrame port lanes => Sys2Proof.Machine.execBadFrame port lanes s
  | .ackFrame port r => Sys2Proof.Machine.execAckFrame port r s
  | .ackTimer port => Sys2Proof.Machine.execAckTimer port s
  | .nakFrame port r => Sys2Proof.Machine.execNakFrame port r s
  | .laneRateWindow port lane window => Sys2Proof.Machine.execLaneRateWindow port lane window s
  | .laneSet w lanes => Sys2Proof.Machine.execLaneSet w lanes s
  | .idleFrame port ack creditVc credit => Sys2Proof.Machine.execIdleFrame port ack creditVc credit s
  | .creditFrame port ack r => Sys2Proof.Machine.execCreditFrame port ack r s
  | .trainFrame port m => Sys2Proof.Machine.execTrainFrame port m s
  | .basePage port gen1 gen2 => Sys2Proof.Machine.execBasePage port gen1 gen2 s
  | .portTraining port e => Sys2Proof.Machine.execPortTraining port e s
  | .trainingTimeout port => Sys2Proof.Machine.execTrainingTimeout port s
  | .peerSignalLost port => Sys2Proof.Machine.execPeerSignalLost port s
  | .restartWave w number origin status sender => Sys2Proof.Machine.execRestartWave w number origin status sender s
  | .warmResetEnd => Sys2Proof.Machine.execWarmResetEnd s
  | .snapshotDrainTimeout => Sys2Proof.Machine.execSnapshotDrainTimeout s
  | .refreshTick channel => Sys2Proof.Machine.execRefreshTick channel s
  | .patrolScrubStep channel => Sys2Proof.Machine.execPatrolScrubStep channel s
  | .layerTemperature die layer temp => Sys2Proof.Machine.execLayerTemperature die layer temp s
  | .regulatorTick r => Sys2Proof.Machine.execRegulatorTick r s
  | .thermalTrip h => Sys2Proof.Machine.execThermalTrip h s
  | .inputCutoff => Sys2Proof.Machine.execInputCutoff s
  | .coldStart => Sys2Proof.Machine.execColdStart s
  | .enableHigh f => Sys2Proof.Machine.execEnableHigh f s
  | .enableLow => Sys2Proof.Machine.execEnableLow s
  | .perstDeassert port => Sys2Proof.Machine.execPerstDeassert port s
  | .perstAssert port => Sys2Proof.Machine.execPerstAssert port s
  | .pcieLinkDown port => Sys2Proof.Machine.execPcieLinkDown port s
  | .heartbeatTimeout port => Sys2Proof.Machine.execHeartbeatTimeout port s
  | .configRequest port => Sys2Proof.Machine.execConfigRequest port s
  | .sqTail port ring value => Sys2Proof.Machine.execSqTail port ring value s
  | .cqHead port ring value => Sys2Proof.Machine.execCqHead port ring value s
  | .msixUnmask port vector => Sys2Proof.Machine.execMsixUnmask port vector s
  | .pciRingEnable via port ring value => Sys2Proof.Machine.execPciRingEnable via port ring value s
  | .pciHeartbeat via port value => Sys2Proof.Machine.execPciHeartbeat via port value s
  | .jobStart via => Sys2Proof.Machine.execJobStart via s
  | .jobEnd via => Sys2Proof.Machine.execJobEnd via s
  | .mgtFaultClear via value => Sys2Proof.Machine.execMgtFaultClear via value s
  | .mgtSvnCommit via value => Sys2Proof.Machine.execMgtSvnCommit via value s
  | .mgtDeviceIdWrite via value => Sys2Proof.Machine.execMgtDeviceIdWrite via value s
  | .poolSetEnable via value => Sys2Proof.Machine.execPoolSetEnable via value s
  | .farPortRetrain via value => Sys2Proof.Machine.execFarPortRetrain via value s
  | .hubFabTeardown via value => Sys2Proof.Machine.execHubFabTeardown via value s
  | .registerWrite via off size value => Sys2Proof.Machine.execRegisterWrite via off size value s
  | .setDeviceId value => Sys2Proof.Machine.execSetDeviceId value s
  | .setPowerCap value => Sys2Proof.Machine.execSetPowerCap value s
  | .getBootStatus => Sys2Proof.Machine.execGetBootStatus s
  | .getRetirement => Sys2Proof.Machine.execGetRetirement s
  | .getEvents => Sys2Proof.Machine.execGetEvents s
  | .mctpControl request => Sys2Proof.Machine.execMctpControl request s
  | .pldmSensor request => Sys2Proof.Machine.execPldmSensor request s
  | .pldmFirmwareUpdate image => Sys2Proof.Machine.execPldmFirmwareUpdate image s
  | .getVersion => Sys2Proof.Machine.execGetVersion s
  | .getCapabilities => Sys2Proof.Machine.execGetCapabilities s
  | .negotiateAlgorithms asym hash => Sys2Proof.Machine.execNegotiateAlgorithms asym hash s
  | .getDigests => Sys2Proof.Machine.execGetDigests s
  | .getCertificate slot off len => Sys2Proof.Machine.execGetCertificate slot off len s
  | .challenge slot nonce => Sys2Proof.Machine.execChallenge slot nonce s
  | .getMeasurements index signed nonce => Sys2Proof.Machine.execGetMeasurements index signed nonce s
  | .spdmUnsupported code => Sys2Proof.Machine.execSpdmUnsupported code s
  | .pcieLinkUp port mode f => Sys2Proof.Machine.execPcieLinkUp port mode f s
  | .lostHostReadTimeout id => Sys2Proof.Machine.execLostHostReadTimeout id s
  | .hostReadCompletion id ok data => Sys2Proof.Machine.execHostReadCompletion id ok data s

end Sys2Proof.Machine
end

