-- ==== Sys2Proof/Machine/Wire.lean ====
section
/-!
DEFINITION. Sys2Proof/Machine/Wire.lean: a frame as units on the lanes of a port: the header's layout (Tables 13-2 and 14-2), its CRC, what a receiver
refuses by them, and the lanes that units take (R373, R401).
-/

namespace Sys2Proof.Machine

/-! The header. -/

/-- A transaction in header bits [511:128] (Table 14-2); reserved bits are 0. -/
def txnField (t : Txn) : Nat :=
  place t.addr 64 128 + place t.key 32 224 + place t.op 8 264 + place (b2n t.wide) 1 275 + place t.aop 4 276 + place t.status 8 280
    + place (b2n t.window) 1 288 + place (b2n t.resend) 1 289 + place t.tenant 1 290 + place (t.len - 1) 13 291 + place t.tag 16 304
    + place t.seq 32 320 + place t.ackSeq 32 352 + place t.opndA 64 384 + place t.opndB 64 448

/-- The kind of a frame. -/
def frameKind : WireFrame → Nat
  | .data _ _ _ _ _ => 1
  | .ack _ _ _ => 2
  | .nak _ => 3
  | .credit _ _ _ => 4
  | .train _ => 5
  | .laneSet _ _ => 6
  | .basePage _ _ => 5

/-- The acknowledgement and the credits that a frame of this device carries. -/
def frameReturns : WireFrame → Returns
  | .data _ a v n _ => { ack := a, creditVc := v, credit := n }
  | .ack a v n => { ack := a, creditVc := v, credit := n }
  | .nak a => { ack := a }
  | .credit a v n => { ack := a, creditVc := v, credit := n }
  | .laneSet a _ => { ack := a }
  | .train _ => {}
  | .basePage _ _ => {}

/-- Header bits [63:32]: all that a frame without a transaction says. -/
def linkField (kind units hops vc : Nat) (r : Returns) : Nat :=
  place r.credit 14 32 + place r.creditVc 2 46 + place kind 3 48 + place vc 2 51 + place hops 4 53 + place units 7 57 + place r.ack 16 64

/-- Header bits [511:32] of a frame, in place. -/
def headerField (w : WireFrame) : Nat :=
  match w with
  | .data seq _ _ _ f => linkField 1 (unitCount f.data.length) f.hops f.vc (frameReturns w) + place seq 16 80 + place f.txn.src 16 96 + place f.txn.dst 16 112
      + txnField f.txn
  | _ => linkField (frameKind w) 0 0 0 (frameReturns w)

/-- Bytes after a frame's header, in whole units. -/
def payloadOf (w : WireFrame) : List Byte :=
  match w with
  | .data _ _ _ _ f => f.data ++ List.replicate (64 * unitCount f.data.length - f.data.length) 0#8
  | _ => []

/-! The CRC. -/

/-- One bit of CRC-32, the low bit first. -/
def crcBit (c : Nat) : Nat := if c % 2 == 1 then (c >>> 1) ^^^ 0xEDB88320 else c >>> 1

/-- One byte of it. -/
def crcByte (c : Nat) (b : Byte) : Nat := (List.range 8).foldl (fun c _ => crcBit c) (c ^^^ b.toNat)

/-- CRC-32 of IEEE 802.3 (entry 120). -/
def crc32 (l : List Byte) : Nat := l.foldl crcByte 0xFFFFFFFF ^^^ 0xFFFFFFFF

/-- What a frame's CRC covers: header bits [511:32], then every payload unit in order. -/
def crcOver (header : Nat) (payload : List Byte) : List Byte := leBytes 60 (header >>> 32) ++ payload

/-- A frame's header, whole. -/
def headerOf (w : WireFrame) : Nat := headerField w + crc32 (crcOver (headerField w) (payloadOf w))

/-- Whether a receiver takes a frame for clean by its header: at most 64 units, no kind 7, the CRC right. One that is not is a BAD_FRAME (R374, R385). -/
def headerClean (header : Nat) (payload : List Byte) : Bool :=
  decide (bits header 63 57 ≤ 64) && bits header 50 48 != 7 && bits header 31 0 == crc32 (crcOver header payload)

/-! Units and lanes. -/

/-- A frame as the units that a port's outbound edge FIFO carries. -/
def unitsOf (w : WireFrame) : List (List Byte) := leBytes 64 (headerOf w) :: chunks 64 (payloadOf w)

/-- Each unit of a stream with the lane that takes it: unit i goes to active lane i mod n, in rising lane number (R373). -/
def stripe (lanes : List Nat) (units : List (List Byte)) : List (Nat × List Byte) :=
  let up := sortBy (fun a b => decide (a < b)) lanes
  units.mapIdx (fun i u => ((up[i % up.length]?).getD 0, u))

/-- What a lane carries of a stream, and the stream put together again from its lanes in the same order. -/
def onLane (lane : Nat) (l : List (Nat × List Byte)) : List (List Byte) := (l.filter (fun x => x.1 == lane)).map (fun x => x.2)
def gathered (lanes : List Nat) (carried : Nat → List (List Byte)) (units : Nat) : List (List Byte) :=
  let up := sortBy (fun a b => decide (a < b)) lanes
  (List.range units).filterMap (fun i => (carried ((up[i % up.length]?).getD 0))[i / up.length]?)

/-- The unit stream that a port has put on its lanes. -/
def Link.stream (l : Link) : List (Nat × List Byte) := stripe l.lanes (l.wire.flatMap unitsOf)

end Sys2Proof.Machine
end

