-- ==== Sys2Proof/Safety.lean ====
section
/-!
DEFINITION. Sys2Proof/Safety.lean: the words that claims are said in: when two states read alike, what a command comes to, the conditions under
which a Hearth's operation runs, and the bounds that every step keeps.
-/

namespace Sys2Proof.Machine

/-! Next states. -/

/-- `d` reads as `c` everywhere: Hearth by Hearth, Smithy by Smithy, host port by host port, counter by counter, and alike in every other field. -/
def Core.Same (c d : Core) : Prop :=
  (∀ h, d.hearth h = c.hearth h) ∧ (∀ i, d.smithy i = c.smithy i) ∧ (∀ q, d.port q = c.port q) ∧ (∀ k, d.counter k = c.counter k) ∧
    d = { c with hearths := d.hearths, smithies := d.smithies, ports := d.ports, counters := d.counters }

/-- A command answers a next state whose job side reads as `d` and whose power, links and queue are those of `s`. -/
def State.Becomes (s : State) (o : Host.Outcome State Fault Refusal) (d : Core) : Prop :=
  ∃ t, o = .next t ∧ Core.Same d t.core ∧ t = { s with core := t.core }

/-- A command answers a next state that reads as `t`: link by link, its job side as in `Core.Same`, alike in every other field. -/
def State.Follows (t : State) (o : Host.Outcome State Fault Refusal) : Prop :=
  ∃ u, o = .next u ∧ (∀ p, u.link p = t.link p) ∧ Core.Same t.core u.core ∧ u = { t with core := u.core, links := u.links }

/-! Operations of a Lesson. -/

/-- A Hearth can issue a unit's operation now: its unit has completed what issued to it before, and nothing under way touches its ranges (R124, R127). -/
def State.Issues (s : State) (h : Nat) (op : SlotOp) : Prop :=
  s.core.halted = false ∧ s.core.canIssue h op = true ∧ s.core.startsNow h op = true

/-- The job side once a Hearth has issued one more operation to its units. -/
def Core.issued (c : Core) (h : Nat) : Core := c.modHearth h (fun x => { x with seq := x.seq + 1 })

/-- A Hearth can issue an operation of the control slot now (R124). -/
def State.Controls (s : State) (h : Nat) : Prop :=
  s.core.halted = false ∧ (s.core.hearth h).running = true ∧ (s.core.hearth h).ended = none ∧ (s.core.hearth h).issueHeld = false

/-- A Hearth runs its own tenant's work and keeps nothing back for lending (R137, R441). -/
def Core.Own (c : Core) (h : Nat) : Prop := (c.hearth h).lentRun = none ∧ c.lending h = false

/-- A Hearth can issue an operation of the Y slot now, and its Y queue is empty (R124). -/
def State.Syncs (s : State) (h : Nat) (op : SlotOp) : Prop :=
  s.core.halted = false ∧ s.core.canIssue h op = true ∧ (s.core.hearth h).yq = []

/-- A Tally that an operation of a Hearth may name (R137, R314). -/
def Core.TallyAllowed (c : Core) (h scope i : Nat) : Prop :=
  match scope with
  | 0 => if (c.hearth h).lentRun.isSome then 56 ≤ i else c.lending h = false ∨ i < 56
  | 1 => (c.hearth h).lentRun = none
  | _ => (c.hearth h).lentRun = none ∧ c.tallyOwned (c.hearthTenant h) i = true

/-- Whether an operation at the head of the Y queue waits for a delivery or a Roll call. -/
def YOp.awaits : YOp → Bool
  | .sent _ => true
  | .rolled _ _ => true
  | _ => false

/-- The count of a Tally operation (R120). -/
def Hearth.tallyCount (x : Hearth) (f : TallyF) : Nat := if f.n = 0 then f.imm else (x.reg f.n).toNat

/-- No batch, waiting record or held row of the Bellows can move on. -/
def Core.BellowsAtRest (c : Core) : Prop := bellowsPump.run c = .ok () c

/-- The state after the item that a Hearth has of a ring, of local rows only, has retired (R214). -/
def Core.itemRetired (c : Core) (h ring : Nat) : Core :=
  if (c.hearth h).items.any (fun i => i.ring == ring) then c.modHearth h (fun x =>
    { x with items := dropFirst (fun i => i.ring == ring) x.items, allocs := x.allocs.filter (fun a => a.2.2 != ring || x.footprintUsed a) })
  else c

/-- The state after a TAKE of an item found in a segment, its rows allocated at a base slot (R123, R218). -/
def Core.itemTaken (c : Core) (h ring key base n : Nat) (i : Item) : Core :=
  ({ c with tt := { c.tt with rings := kvPut c.tt.rings key (dropFirst (fun j => j == i) ((kvGet c.tt.rings key).getD [])) } } : Core).modHearth h (fun x =>
    ({ x with taking := none, allocs := x.allocs ++ [(base, n, ring)],
              items := x.items ++ [{ ring := ring, epoch := i.epoch, backward := i.backward, weight := i.kind == 5, layer := i.layer, guests := i.guests }],
              regs := kvPut (kvPut (kvPut (kvPut (kvPut x.regs 8 (BitVec.ofNat 32 i.x8)) 9 (BitVec.ofNat 32 i.x9)) 10 (BitVec.ofNat 32 i.x10)) 11
                (BitVec.ofNat 32 i.x11)) 12 (BitVec.ofNat 32 base) } : Hearth).endDueLoop)

/-- The state after a TAKE at the close of a batch; a batch whose close every Hearth has been shown is forgotten (R123, R218). -/
def Core.closeTaken (c : Core) (h ring : Nat) (v : RingView) : Core :=
  Core.pruneEnded <| c.modHearth h (fun x =>
    ({ x with taking := none, seenClose := x.seenClose ++ [(v.acc, ring)],
              regs := kvPut (kvPut (kvPut (kvPut (kvPut x.regs 8 0xFFFFFFFF#32) 9 0#32) 10 0#32) 11 0#32) 12 0#32 } : Hearth).endDueLoop)

/-- A Hearth can issue a unit's operation for its own tenant, with nothing in front of it and no error of the symbol code about. -/
def State.Ready (s : State) (h : Nat) (op : SlotOp) : Prop := s.Issues h op ∧ s.core.Own h ∧ s.core.dram.errors = []

/-- The ranges lie in this device's memory, may be read under the reader's key and hold these bytes. -/
def Core.Reads (c : Core) (w : Who) (rs : List (Nat × Nat)) (b : List Byte) : Prop :=
  ∀ cont, (readRanges w cont rs).run c = .ok (some b) c

/-- A Hearth may name these ranges through a descriptor (R137). -/
def Core.Windows (c : Core) (h : Nat) (rs : List (Nat × Nat)) : Prop := (rs.forM (fun r => checkWindow h r.1 r.2)).run c = .ok () c

/-- The stores of these pieces by a slot through a descriptor, one after another, all go through and leave `d`. -/
def Core.Stores (c : Core) (h slot : Nat) (t : TDesc) (ws : List Piece) (d : Core) : Prop :=
  (ws.forM (storePiece h slot t)).run c = .ok () d

/-- A row of `n` bytes at a global address lies in stacked memory, at these channel bytes, and may be written by who it is. -/
def Core.RowPlace (c : Core) (w : Who) (a n : Nat) (ks : List Nat) : Prop :=
  a < 2 ^ 64 ∧ badGlobal a = false ∧ c.isLocal a = true ∧ ks.Nodup ∧ (∃ p, c.place (a % 2 ^ 48) n = .ok (.stacked p) ∧ c.dram.keys p n = some ks) ∧
    (checkKey w (a % 2 ^ 48) n .write).run c = .ok () c

/-- A command leaves these bytes at these channel bytes of memory, every other byte of memory as it was, the partly written words counted, and is `d` in all else. -/
def State.LeavesRow (s : State) (o : Host.Outcome State Fault Refusal) (ks : List Nat) (b : List Byte) (d : Core) : Prop :=
  ∃ u, o = .next u ∧ (∀ (i k : Nat), ks[i]? = some k → memGet zeroByte u.core.stacked k = b[i]?) ∧
    (∀ k, k ∉ ks → memGet zeroByte u.core.stacked k = memGet zeroByte s.core.stacked k) ∧ (∀ k, k ≠ kMem 2 → u.core.counter k = d.counter k) ∧
    s.Becomes (.next u) { d with stacked := u.core.stacked, counters := u.core.counters }

/-- The bytes of a range of a Hearth's scratch. -/
def Core.scratchBytes (c : Core) (h off n : Nat) : List Byte := (List.range n).map (fun i => c.scratchByte h (off + i))

/-- A Hearth's scratch with bytes written from an offset on. -/
def Core.putScratch (c : Core) (h off : Nat) (b : List Byte) : Core :=
  c.modHearth h (fun x => { x with scratch := memPutAll none x.scratch off b })

/-- The state after rows out of range have been counted with no strict card: a notice stays pending (R175 to R178). -/
def Core.rangeNoted (c : Core) (h bad : Nat) : Core :=
  if bad = 0 then c else (c.bumpBy (kHth h 8) bad).modHearth h (fun x => if x.pendingStatus = 0 then { x with pendingStatus := stIndexRange } else x)

/-- The elements that a TSTORE of a dense tile writes: copied codes, or codes converted into the tensor's format (R113, R505). -/
def TileArgs.outs (t : TileArgs) (x : Hearth) (src : Fmt) (tile : List (Nat × Nat × (Nat × Nat))) : List (Nat × Nat × Word32) × List (Nat × Nat × OutElem) :=
  let vals := tile.map (fun e => (e.1, e.2.1, if src = t.d.fmt then toF32 (t.d.value e.2.2) else toF32 (decodeElem src 0 e.2.2.1)))
  (vals, if src = t.d.fmt then tile.map (fun e => (e.1, e.2.1, rawElem e.2.2)) else convList t.d t.d.fmt t.d.blockDim x.seed x.step vals)

/-! Descriptors and devices. -/

/-- A ring fetches, nothing of it is fetched or started, and the descriptor of this slot is the only one its doorbell has announced (R428, R431). -/
def Core.Announced (c : Core) (o : Origin) : Prop :=
  let x := c.ring o.port o.ring
  c.fetches o.port o.ring = true ∧ x.fetchHead = o.slot ∧ x.sqTail ≠ o.slot ∧ x.sqTail = (o.slot + 1) % c.ringEntries o.port o.ring ∧ x.fetched = [] ∧ x.started = []

/-- The state in which that descriptor has been fetched and has started. -/
def Core.begun (c : Core) (o : Origin) (op : Nat) (d : Desc) (hearths : List Nat) : Core :=
  let t : Started := { slot := o.slot, tag := d.tag, opcode := op, irq := d.irq, barrier := d.barrier, hearths := hearths }
  (({ c with fabric := { c.fabric with xfers := c.fabric.xfers.filter (fun t => !isFetch o.port o.ring t) } } : Core).modPort o.port (fun p => p.heard 1)).modRing o.port o.ring (fun x =>
    { x with fetchHead := x.sqTail, started := [t] })

/-- The Hearths that a descriptor names are free for it, and no other step is under way (R300, R431, R136, R138). -/
def Core.Unhindered (c : Core) (o : Origin) (op : Nat) (d : Desc) : Prop :=
  let f : Fetched := { slot := o.slot, opcode := op, d := d }
  (∀ h ∈ c.descHearths o.port f, c.hearthFree o.port o.ring op (c.descRefused o.port op d) h = true) ∧ (∀ h ∈ c.signalHearths o.port f, c.unclaimed o.port o.ring h = true) ∧
    (op = 9 → c.crucible.phase = .idle ∧ ∀ p ∈ c.ports, ∀ y ∈ p.2.rings, ∀ t ∈ y.2.started, t.opcode ≠ 9)

/-- A descriptor that is not refused starts where its ring announces it and nothing hinders it (R430, R431). -/
def State.Starts (s : State) (o : Origin) (op : Nat) (d : Desc) (hs : List Nat) : Prop :=
  s.core.halted = false ∧ s.core.Announced o ∧ s.core.descRefused o.port op d = false ∧ s.core.descHearths o.port { slot := o.slot, opcode := op, d := d } = hs ∧
    s.core.Unhindered o op d

/-- A read of a host's memory asked for. -/
def Core.hostAsked (c : Core) (a : Actor) (q : Nat) (k : Cont) (addr n : Nat) : Core :=
  let x : Transfer := { id := c.fabric.nextXfer, actor := a, cont := k, host := some q, pieces := [(addr, n)] }
  ({ c with fabric := { c.fabric with nextXfer := c.fabric.nextXfer + 1, xfers := c.fabric.xfers ++ [x] } } : Core).modPort q (fun p => p.says 1)

/-- The agent that stores a record to a page of the hub is at work for its own tenant: a Hearth whose Tongs are free, or a host descriptor. -/
def Core.agentFree (c : Core) (a : Agent) : Prop :=
  match a with | .hearth h => c.tongsFree h 1 [] = true ∧ (c.hearth h).lentRun = none | .host _ => True

/-! Frames that arrive. -/

/-- Where a transaction comes in, on which channel and with how many bytes. A request for another device does not (R391), nor does a frame to forward that is
this device's own and another command's (Table 14-3). -/
def State.arrivalOf (s : State) (i : Instr) : Option (Head × Nat × Nat) :=
  let own (t : Txn) (x : Head × Nat × Nat) : Option (Head × Nat × Nat) := if s.core.isSelf t.dst then some x else none
  match i with
  | .pullRequest w _ => some (w, vcReq, 0)
  | .granule w f => some (w, vcBulk, f.data.length)
  | .token w f => some (w, vcReq, f.data.length)
  | .answer w f => some (w, vcRsp, f.data.length)
  | .progress w _ _ => some (w, vcRsp, 0)
  | .contrib w f => some (w, vcBulk, s.core.contribLength f)
  | .gatherGranule w f => some (w, vcBulk, f.data.length)
  | .rollArrivalMsg w _ => some (w, vcSync, 64)
  | .rollResultMsg w _ => some (w, vcSync, 64)
  | .loadRequest w t => own t (w, vcReq, 0)
  | .storeRequest w t d => own t (w, if t.copy then vcBulk else vcReq, d.length)
  | .atomicRequest w t => own t (w, vcReq, 0)
  | .signalRequest w t => own t (w, vcSync, 0)
  | .dataResponse w _ d => some (w, vcRsp, d.length)
  | .doneResponse w t => some (w, s.core.doneChannel t, 0)
  | .resultResponse w _ => some (w, vcRsp, 0)
  | .restartWave w _ _ _ _ => some (w, vcSync, 0)
  | .frameForward w f => if s.core.isSelf f.txn.dst && !reservedOp f.txn.op then none else some (w, f.vc, f.data.length)
  | _ => none

/-- A transaction is the next in order on its port, nothing of its channel waits before it, its block can take it, and no word of the device holds an error. -/
def State.Arrives (s : State) (w : Head) (vc : Nat) (i : Instr) : Prop :=
  (s.link w.port).inOrder w = true ∧ (s.link w.port).channelEmpty vc = true ∧ s.frameReady w.port vc i = true ∧ s.core.dram.errors = []

/-! Snapshots. -/

/-- What the header of an area in stacked memory says (R458). -/
def Core.areaHead (c : Core) (a : Nat) : AreaHead :=
  let n := leNat (((c.dram.keys a 16).getD []).map (fun k => (memGet zeroByte c.stacked k).getD 0#8))
  { area := a, step := bits n 31 0, committed := bit n 32, turn := bits n 41 40, bytes := bits n 127 64 }

/-- The snapshot engine may read an area's header and write its first 4 KiB under a key (R404, R457); `ks` are the channel bytes of these. -/
def Core.AreaOpen (c : Core) (key a : Nat) (ks : List Nat) : Prop :=
  c.dram.keys a 4096 = some ks ∧ ks.Nodup ∧ c.keyCheck a 16 key .read 0 false = stOk ∧ c.keyCheck a 4096 key .write 0 false = stOk

/-- The committed areas of a record, the highest step first. -/
def Core.committed (c : Core) (r : SnapRec) : List AreaHead :=
  sortBy (fun x y => decide (y.step < x.step)) ([c.areaHead r.areaA, c.areaHead r.areaB].filter (fun h => h.committed))

/-- The area that a TAKE writes, and its turn: the one that does not hold the highest committed step, A where none does (R459). -/
def Core.nextArea (c : Core) (r : SnapRec) : Nat × Nat :=
  match c.committed r with
  | [] => (r.areaA, 1)
  | [h] => (if h.area = r.areaA then r.areaB else r.areaA, (h.turn + 1) % 3)
  | h :: g :: _ => (g.area, (h.turn + 1) % 3)

/-- The snapshot engine can arrive at a context of device or job scope: the record is the tenant's, names the engine and MAX, this device is one of the participants
and has a route to the others, and the engine has not arrived for the open generation (R314, R323 to R325, R328, R459, Table 16-5). -/
def Core.SnapJoins (c : Core) (tenant ctx : Nat) : Prop :=
  let r := c.ctxRec ctx
  let x := c.rollCtx ctx
  let l := if r.scope = 0 then [c.selfId] else c.jobNames
  (c.twoTenant = true → c.ctxTenant ctx = tenant) ∧ r.valid = true ∧ r.source = 5 ∧ r.reduction = 2 ∧ r.scope < 2 ∧ spGet 0 x.counts 132 = x.gen ∧ x.gen < 256 ∧
    (∀ a ∈ x.arrived, a.1.key ≠ 132) ∧ x.sentUp = false ∧ (c.selfIn l).isSome = true ∧
    ∀ k ∈ l, c.isSelf k = false → ∃ p, c.outPort (c.srcName k) k = some p ∧ c.route.gen1.contains p = false

/-- What an arrival of the snapshot engine at a context and its access to an area leave as it was. -/
def Core.SnapFrame (c : Core) (ctx : Nat) (d : Core) : Prop :=
  (∀ k, k ≠ ctx → d.rollCtx k = c.rollCtx k) ∧ d.sync.tallies = c.sync.tallies ∧ d.sync.waiters = c.sync.waiters ∧
    Core.Same { c with snap := d.snap, sync := d.sync, fabric := { c.fabric with tx := d.fabric.tx }, stacked := d.stacked, counters := d.counters } d

/-! Who a command concerns. -/

/-- A command of the job side: it acts on nothing of power and start-up and arrives on no Farger port. -/
def jobSide (i : Instr) : Bool :=
  match i with
  | .pullRequest _ _ | .granule _ _ | .token _ _ | .answer _ _ | .contrib _ _ | .gatherGranule _ _ | .rollArrivalMsg _ _ | .rollResultMsg _ _
  | .loadRequest _ _ | .storeRequest _ _ _ | .atomicRequest _ _ | .signalRequest _ _ | .dataResponse _ _ _ | .doneResponse _ _ | .resultResponse _ _
  | .progress _ _ _ | .frameForward _ _ | .badFrame _ _ | .ackFrame _ _ | .ackTimer _ | .nakFrame _ _ | .laneRateWindow _ _ _ | .laneSet _ _
  | .idleFrame _ _ _ _ | .creditFrame _ _ _ | .trainFrame _ _ | .basePage _ _ _ | .portTraining _ _ | .trainingTimeout _ | .peerSignalLost _
  | .restartWave _ _ _ _ _ | .layerTemperature _ _ _ | .regulatorTick _ | .thermalTrip _ | .inputCutoff | .coldStart | .enableHigh _ | .enableLow
  | .perstDeassert _ | .perstAssert _ | .jobStart _ | .mgtSvnCommit _ _ | .mgtDeviceIdWrite _ _ | .farPortRetrain _ _ | .registerWrite _ _ _ _
  | .setDeviceId _ | .setPowerCap _ | .getBootStatus | .getRetirement | .getEvents | .mctpControl _ | .pldmSensor _ | .pldmFirmwareUpdate _
  | .getVersion | .getCapabilities | .negotiateAlgorithms _ _ | .getDigests | .getCertificate _ _ _ | .challenge _ _ | .getMeasurements _ _ _
  | .spdmUnsupported _ | .pcieLinkUp _ _ _ => false
  | .opLessonLoad _ _ | .opCard _ _ | .opRun _ _ | .opRunLend _ _ | .opCopy _ _ | .opFill _ _ | .opSignal _ _ | .opSignalSub _ _ | .opRoll _ _
  | .forwardBatch _ _ | .backwardBatch _ _ | .releaseBatch _ _ | .cancelBatch _ _ | .opCrucibleStep _ _ | .snapshotTake _ _ | .snapshotRestore _ _
  | .opSeat _ _ | .tload _ _ | .tgather _ _ | .tfill _ _ | .tstore _ _ | .tscatter _ _ | .aload _ _ | .astream _ _ | .abind _ _ | .aclose _ _
  | .acatch _ _ | .groupWriteback _ | .vdef _ _ _ | .vrun _ _ | .vlen _ _ | .wait _ _ | .waitSatisfied _ | .signal _ _ | .sub _ _ | .roll _ _ | .fence _
  | .loop _ _ | .brk _ _ | .jump _ _ | .alu _ _ | .li _ _ _ | .ldx _ _ _ | .take _ _ | .timetableItemTaken _ | .runEnd _ | .lentItemTake _
  | .lentBudgetExpiry _ | .routerRecord _ | .timetablePost _ | .intakeTimeout _ | .mergeWindowClose _ _ _ | .frameRecord _ _ | .combineScatter _ _
  | .scatterChunk _ _ | .closeRecord _ _ | .frameDrain _ | .hashScatter _ _ | .mergeRecord _ _ | .announce _ _ | .rollCallClose _ | .rollCallTimeout _
  | .tallyWindowStore _ _ _ _ _ | .tallyWindowLoad _ _ _ _ _ | .atomicRecord _ _ _ | .poolRequest _ _ | .poolFree _ _ | .poolSetInitDone _
  | .lineUnitWrite _ | .progressTimer _ _ | .fabResendTimer _ | .fabTimeout _ _ | .replayEntryEvict _ _ | .warmResetEnd | .snapshotDrainTimeout
  | .refreshTick _ | .patrolScrubStep _ | .pcieLinkDown _ | .heartbeatTimeout _ | .configRequest _ | .sqTail _ _ _ | .cqHead _ _ _ | .msixUnmask _ _
  | .pciRingEnable _ _ _ _ | .pciHeartbeat _ _ _ | .jobEnd _ | .mgtFaultClear _ _ | .poolSetEnable _ _ | .hubFabTeardown _ _ | .lostHostReadTimeout _
  | .hostReadCompletion _ _ _ => true

/-- The Farger port that a command comes in on, training aside. -/
def arrivesOn (i : Instr) : Option Nat :=
  match i with
  | .pullRequest w _ | .granule w _ | .token w _ | .answer w _ | .contrib w _ | .gatherGranule w _ | .rollArrivalMsg w _ | .rollResultMsg w _
  | .loadRequest w _ | .storeRequest w _ _ | .atomicRequest w _ | .signalRequest w _ | .dataResponse w _ _ | .doneResponse w _ | .resultResponse w _
  | .progress w _ _ | .frameForward w _ | .laneSet w _ | .restartWave w _ _ _ _ => some w.port
  | .badFrame p _ | .ackFrame p _ | .ackTimer p | .nakFrame p _ | .laneRateWindow p _ _ | .idleFrame p _ _ _ | .creditFrame p _ _ | .peerSignalLost p => some p
  | _ => none

/-! Bounds that every step keeps. -/

/-- The core setpoint lies in the regulator's range (R472). -/
def State.SetpointInRange (s : State) : Prop := 600 ≤ s.power.coreNow ∧ s.power.coreNow ≤ 900

/-- Every port that is UP works on at least its fewest lanes (R379, R389). -/
def State.LanesSuffice (s : State) : Prop := ∀ p, (s.link p).up = true → minLanes p ≤ (s.link p).lanes.length

end Sys2Proof.Machine
end

