-- ==== Sys2Proof/Certificates/Slice0/Obligations.lean ====
section
/-!
DEFINITION. Sys2Proof/Certificates/Slice0/Obligations.lean: the statements for the provers. `s.Becomes (exec c s) d` says that the command answers a next
state whose job side reads as `d`, and whose power, links and queue are those of `s` (Safety.lean).
-/

open Sys2Proof Sys2Proof.Machine

/-! The queue, reset, bounds. -/

/-- A step takes the command at the front of the queue and runs it with the rest. -/
def Obligations.StepRunsFrontCommand : Prop :=
  ∀ (s : State) (c : Instr) (rest : List Instr), s.pending = c :: rest → step s = exec c { s with pending := rest }

/-- After reset every stored register reads the Reset column of its table, every counter reads 0, every Tally is 0 with neither flag, and no job and no command
is there (R310, R498, Tables 18-4 to 18-11). -/
def Obligations.ResetLeaves : Prop :=
  (∀ (off : Nat) (r : RegSpec), regSpec off = some r → State.reset.readReg off = r.resetValue) ∧ (∀ off, State.reset.core.counter off = 0) ∧
    State.reset.pending = [] ∧ State.reset.core.mgt.active = false ∧ (∀ scope unit i, State.reset.core.tally scope unit i = {}) ∧
    [rRestartLimit, mgtB + 0x138, mgtB + 0x140, rPowerCap, rCoreSet, rHopLimit, rPortEnable, rPoolQuota 5, rConcFrac, rPullRatio, rRing 1 7 2, rRing 1 7 3].map State.reset.readReg =
      [3, 0xFFFFFFFF, 0, 2400, 750, 8, 0xFFFFFFFF, 0xFFFFFFFF, 8192, 0x100, 6, 7]

/-- The setpoint at reset lies in the regulator's range (750 mV is the model's choice, entry 14). At reset no port is UP. -/
def Obligations.BoundsHoldAtReset : Prop :=
  (State.reset.SetpointInRange) ∧
  (State.reset.LanesSuffice)

/-- Every step keeps the setpoint in the regulator's range (R472). -/
def Obligations.SetpointStaysInRange : Prop :=
  ∀ s t : State, s.SetpointInRange → step s = .next t → t.SetpointInRange

/-- Every step keeps every port that is UP on at least its fewest lanes (R379, R389). -/
def Obligations.LanesStaySufficient : Prop :=
  ∀ s t : State, s.LanesSuffice → step s = .next t → t.LanesSuffice

/-- Decoding the encoding of a well-formed operation in its slot gives the operation (Tables 4-4 to 4-9). -/
def Obligations.SlotEncodingRoundTrip : Prop :=
  ∀ op : SlotOp, op.wf = true → decodeSlot (slotOf op) (encodeSlot op) = some op

/-! The control slot. -/

/-- ALU and LI write their register and nothing else; x0 discards the write (R103, R122). LDX reads four scratch bytes, little-endian, into its register; x0
stays 0 (Table 4-9, R6, R103). -/
def Obligations.RegisterOperationsWriteOneRegister : Prop :=
  (∀ (s : State) (h : Nat) (f : AluF), s.Controls h →
    let x := s.core.hearth h
    let a := x.reg f.a
    let y := if f.imm then BitVec.signExtend 32 (BitVec.ofNat 24 f.imm24) else x.reg f.b
    let v : Word32 := match f.fn with
      | 0 => a + y | 1 => a - y | 2 => a * y | 3 => a <<< (y.toNat % 32) | 4 => a >>> (y.toNat % 32) | 5 => a &&& y
      | 6 => if a.toNat < y.toNat then 1#32 else 0#32 | _ => a ||| y
    ∃ t, exec (.alu h f) s = .next t ∧ (t.core.hearth h).reg f.d = (if f.d = 0 then 0#32 else v) ∧
      (∀ r, r ≠ f.d → (t.core.hearth h).reg r = x.reg r) ∧ (∀ j, j ≠ h → t.core.hearth j = s.core.hearth j) ∧
      t.core.hearth h = { x with regs := (t.core.hearth h).regs } ∧ t = { s with core := { s.core with hearths := t.core.hearths } }) ∧
  (∀ (s : State) (h d imm : Nat), s.Controls h →
    ∃ t, exec (.li h d imm) s = .next t ∧ (t.core.hearth h).reg d = (if d = 0 then 0#32 else BitVec.ofNat 32 imm) ∧
      (∀ r, r ≠ d → (t.core.hearth h).reg r = (s.core.hearth h).reg r) ∧ (∀ j, j ≠ h → t.core.hearth j = s.core.hearth j) ∧
      t.core.hearth h = { s.core.hearth h with regs := (t.core.hearth h).regs } ∧ t = { s with core := { s.core with hearths := t.core.hearths } }) ∧
  (∀ (s : State) (h d off : Nat), s.Issues h (.ldx d off) → s.core.dram.errors = [] → s.core.Own h → off + 4 ≤ 0x800000 →
    ∃ t, exec (.ldx h d off) s = .next t ∧
      ((t.core.hearth h).reg d).toNat = (if d = 0 then 0 else (s.core.scratchByte h off).toNat + 2 ^ 8 * (s.core.scratchByte h (off + 1)).toNat +
        2 ^ 16 * (s.core.scratchByte h (off + 2)).toNat + 2 ^ 24 * (s.core.scratchByte h (off + 3)).toNat) ∧
      (∀ r, r ≠ d → (t.core.hearth h).reg r = (s.core.hearth h).reg r) ∧ (∀ j, j ≠ h → t.core.hearth j = s.core.hearth j) ∧
      t.core.hearth h = { (s.core.issued h).hearth h with regs := (t.core.hearth h).regs } ∧ t = { s with core := { s.core with hearths := t.core.hearths } })

/-- JUMP goes to its target where its condition holds; BREAK leaves the innermost loop where no outer loop shares its last word (Table 4-9, R121, R131; entry
35); with no loop around it BREAK does nothing (the model's choice, entry 108). LOOP with a count enters its body at iteration 0; with a count of 0 it goes
on after the word at `end` (R129, R130). -/
def Obligations.JumpsAndLoopsMoveThePc : Prop :=
  (∀ (s : State) (h : Nat) (f : BranchF), s.Controls h → f.cond < 3 →
    let x := s.core.hearth h
    let holds := f.cond = 0 ∨ (f.cond = 1 ∧ x.reg f.reg = 0#32) ∨ (f.cond = 2 ∧ x.reg f.reg ≠ 0#32)
    (holds → s.Becomes (exec (.jump h f) s) (s.core.modHearth h (fun x => { x with pc := f.target }))) ∧
      (¬ holds → s.Becomes (exec (.jump h f) s) s.core)) ∧
  (∀ (s : State) (h : Nat) (f : BranchF), s.Controls h → f.cond < 3 →
    let x := s.core.hearth h
    let holds := f.cond = 0 ∨ (f.cond = 1 ∧ x.reg f.reg = 0#32) ∨ (f.cond = 2 ∧ x.reg f.reg ≠ 0#32)
    (holds → ∀ l rest, x.loops = l :: rest → (∀ k ∈ rest, k.endW ≠ l.endW) →
        s.Becomes (exec (.brk h f) s) (s.core.modHearth h (fun x => { x with pc := l.after, loops := rest }))) ∧
      (holds → x.loops = [] → s.Becomes (exec (.brk h f) s) s.core) ∧
      (¬ holds → s.Becomes (exec (.brk h f) s) s.core)) ∧
  (∀ (s : State) (h : Nat) (f : LoopF) (w : LWord), s.Controls h → s.core.dram.errors = [] → f.endW < 32768 →
    let x := s.core.hearth h
    let n := if f.count = 0 then f.imm else (x.reg f.count).toNat
    decodeWord f.endW (memRange (fun _ => 0#8) x.lesson (2 * f.endW) (min 38 (65536 - 2 * f.endW))) = some w →
    (n ≠ 0 → s.Becomes (exec (.loop h f) s) (s.core.modHearth h (fun x =>
        ({ x with loops := { body := x.pc, endW := f.endW, after := w.next, reg := f.index, iter := 0, count := n } :: x.loops }).setReg f.index 0#32))) ∧
      (n = 0 → (∀ k ∈ x.loops, k.endW ≠ f.endW) → s.Becomes (exec (.loop h f) s) (s.core.modHearth h (fun x => { x with pc := w.next }))))

/-! Tallies and Roll calls of a Lesson. -/

/-- SIGNAL adds its count; a sum past 0xFFFF_FFFF sticks at it, sets OVER and is a fault (R311). One to another device goes out as a request and keeps its
place until its delivery; with a count of 0 it sends nothing (R126, R315). SUB subtracts; more than the value leaves 0, sets UNDER and advances the under
counter (R313); a Tally that is OVER stays (R311). -/
def Obligations.SignalAndSubMoveTheirTally : Prop :=
  (∀ (s : State) (h : Nat) (f : TallyF), s.Syncs h (.signal f) → f.scope < 3 → s.core.dram.errors = [] →
    let x := s.core.hearth h
    let dev := (x.reg f.dev).toNat % 2 ^ 15
    let away := f.scope = 2 ∧ f.dev ≠ 0 ∧ s.core.isSelf dev = false
    let u := scopeUnit h f.scope
    let n := x.tallyCount f
    let y := s.core.tally f.scope u f.index
    (¬ away → s.core.TallyAllowed h f.scope f.index →
      (y.overSet = true → s.Becomes (exec (.signal h f) s) (s.core.setTally f.scope u f.index y)) ∧
      (y.overSet = false → y.value + n ≤ 0xFFFFFFFF →
        s.Becomes (exec (.signal h f) s) (s.core.setTally f.scope u f.index { y with value := y.value + n })) ∧
      (y.overSet = false → 0xFFFFFFFF < y.value + n → s.core.route.gen1 = [] → x.splitsOpen = [] → ∃ t, exec (.signal h f) s = .next t ∧
        t.core.tally f.scope u f.index = { y with value := 0xFFFFFFFF, overSet := true } ∧ (t.core.hearth h).running = false ∧
        (t.core.mgt.faultLog.getLast?).map (fun r => (r.req.cls, r.req.status)) = some (clsSync, stTallyOver))) ∧
    (away → n = 0 → s.Becomes (exec (.signal h f) s) s.core) ∧
    (away → n ≠ 0 → x.lentRun = none → ∀ c,
      (sendRequest { actor := .hearth h, tenant := s.core.hearthTenant h, keyed := false } .signal
        { op := opSignalTx, dst := dev, addr := globalAddr dev (0x500060000000 + 8 * f.index), len := 8, opndA := n + 1 <<< 32 } vcSync []).run s.core = .ok () c →
      s.Becomes (exec (.signal h f) s) (c.modHearth h (fun x => { x with yq := [.sent s.core.fabric.nextTag] })))) ∧
  (∀ (s : State) (h : Nat) (f : TallyF), s.Syncs h (.sub f) → f.scope < 3 → s.core.TallyAllowed h f.scope f.index → s.core.dram.errors = [] →
    let u := scopeUnit h f.scope
    let n := (s.core.hearth h).tallyCount f
    let y := s.core.tally f.scope u f.index
    (y.overSet = true → s.Becomes (exec (.sub h f) s) (s.core.setTally f.scope u f.index y)) ∧
      (y.overSet = false → n ≤ y.value → s.Becomes (exec (.sub h f) s) (s.core.setTally f.scope u f.index { y with value := y.value - n })) ∧
      (y.overSet = false → y.value < n → s.Becomes (exec (.sub h f) s)
        ((s.core.setTally f.scope u f.index { y with value := 0, underSet := true }).bump (underCounter f.scope u))))

/-- WAIT completes at once where its Tally holds its count and nobody waits there before it: it subtracts the count; a count of 0 completes whoever waits
(R120, R311, R312). At a Tally that is OVER it completes in its turn and subtracts nothing (the model's choice, entry 23). Else the wait is kept in order
of arrival and nothing is subtracted. Behind an operation that itself waits for a delivery or a Roll call it is queued. WAIT_SATISFIED: the wait at the
head of a Hearth's Y queue completes once its Tally holds its count, or is OVER (the model's choice, entry 23), and the Hearth is the first that waits
there; it subtracts its count and leaves the queue, and the next operation stays where it waits itself. A wait whose turn or count has not come stays
(R311, R312). FENCE completes at once where nothing that issued before it still has a write to another device under way or to come; else it stays in the Y
queue with the work that it waits for. Behind an operation that itself waits it is queued with that work (R319). -/
def Obligations.WaitsAndFencesHoldTheYQueue : Prop :=
  (∀ (s : State) (h : Nat) (f : TallyF), s.Syncs h (.wait f) → f.scope < 3 → s.core.TallyAllowed h f.scope f.index → s.core.dram.errors = [] →
    (∀ w ∈ s.core.sync.waiters, w.hearth ≠ h) →
    let u := scopeUnit h f.scope
    let n := (s.core.hearth h).tallyCount f
    let y := s.core.tally f.scope u f.index
    let ready := n = 0 ∨ ((y.overSet = true ∨ n ≤ y.value) ∧ ∀ w ∈ s.core.sync.waiters, ¬ (w.scope = f.scope ∧ w.unit = u ∧ w.index = f.index))
    let taken : Tally := if y.overSet = true then y else { y with value := y.value - n }
    (ready → ∃ t, exec (.wait h f) s = .next t ∧ t.core.tally f.scope u f.index = taken ∧ (t.core.hearth h).yq = [] ∧ t.core.sync.waiters = s.core.sync.waiters ∧
      Core.Same (s.core.setTally f.scope u f.index taken) t.core ∧ t = { s with core := t.core }) ∧
    (¬ ready → s.Becomes (exec (.wait h f) s)
        (({ s.core with sync := { s.core.sync with
            waiters := s.core.sync.waiters ++ [{ scope := f.scope, unit := u, index := f.index, n := n, hearth := h }] } } : Core).modHearth h
          (fun x => { x with yq := [.wait f.scope f.index n] })))) ∧
  (∀ (s : State) (h : Nat) (f : TallyF) (o : YOp) (rest : List YOp), s.core.halted = false → s.core.canIssue h (.wait f) = true → (s.core.hearth h).yq = o :: rest →
    o.awaits = true → f.scope < 3 → s.core.TallyAllowed h f.scope f.index → s.core.dram.errors = [] →
    s.Becomes (exec (.wait h f) s) (s.core.modHearth h (fun x => { x with yq := x.yq ++ [.wait f.scope f.index (x.tallyCount f)] }))) ∧
  (∀ (s : State) (h scope i n : Nat) (rest : List YOp), s.core.halted = false → (s.core.hearth h).yq = .wait scope i n :: rest → s.core.dram.errors = [] →
    (∃ w ∈ s.core.sync.waiters, w.hearth = h) → (∀ o, rest.head? = some o → o.awaits = true) →
    let u := scopeUnit h scope
    let y := s.core.tally scope u i
    let ready := n = 0 ∨ ((y.overSet = true ∨ n ≤ y.value) ∧ s.core.firstWaiter scope u i h = true)
    let taken : Tally := if y.overSet = true then y else { y with value := y.value - n }
    (ready → ∃ t, exec (.waitSatisfied h) s = .next t ∧ t.core.tally scope u i = taken ∧ (t.core.hearth h).yq = rest ∧
      t.core.sync.waiters = s.core.sync.waiters.filter (fun w => w.hearth != h) ∧
      Core.Same (((s.core.setTally scope u i taken).dropWaiter h).modHearth h (fun x => { x with yq := rest })) t.core ∧ t = { s with core := t.core }) ∧
    (¬ ready → s.Becomes (exec (.waitSatisfied h) s) s.core)) ∧
  (∀ (s : State) (h : Nat), s.Syncs h .fence → s.core.dram.errors = [] →
    (s.core.fenceWaits h (s.core.priorWork h) = false → ∃ t, exec (.fence h) s = .next t ∧ (t.core.hearth h).yq = [] ∧ Core.Same s.core t.core ∧ t = { s with core := t.core }) ∧
    (s.core.fenceWaits h (s.core.priorWork h) = true → s.Becomes (exec (.fence h) s)
        (s.core.modHearth h (fun x => { x with yq := [.fence (s.core.priorWork h)] }))) ∧
    (s.core.remoteWrites h = [] → (s.core.hearth h).waitq = [] → (s.core.hearth h).wbq = [] → s.core.readsOf h = [] → ∃ t, exec (.fence h) s = .next t ∧
      (t.core.hearth h).yq = [] ∧ Core.Same s.core t.core ∧ t = { s with core := t.core }) ∧
    (s.core.remoteWrites h ≠ [] → ∃ t, exec (.fence h) s = .next t ∧ (t.core.hearth h).yq ≠ [])) ∧
  (∀ (s : State) (h : Nat) (o : YOp) (rest : List YOp), s.core.halted = false → s.core.canIssue h .fence = true → (s.core.hearth h).yq = o :: rest → o.awaits = true →
    s.core.dram.errors = [] → s.Becomes (exec (.fence h) s) (s.core.modHearth h (fun x => { x with yq := x.yq ++ [.fence (s.core.priorWork h)] })))

/-- ROLL arrives at its context with 64 scratch bytes and waits for the result; as the last participant of a device-scope context it makes the result. In any
scope: with its own participants or a sender still to come it waits; with all there the device's arrival goes up to its parent, or at the root becomes the
result, which goes down. An arrival for the next generation is held and counted; a duplicate completes at once, is counted and writes nothing back (R323 to
R327). -/
def Obligations.RollArrivesWithItsPayload : Prop :=
  (∀ (s : State) (h : Nat) (f : RollF), s.Syncs h (.roll f) → s.core.rollClear h f.payload (s.core.priorWork h) = true → s.core.dram.errors = [] → s.core.Own h →
    64 * f.payload + 64 ≤ 0x800000 → (s.core.twoTenant = true → s.core.ctxTenant f.ctx = s.core.hearthTenant h) →
    let r := s.core.ctxRec f.ctx
    let x := s.core.rollCtx f.ctx
    let pay := (List.range 64).map (fun i => s.core.scratchByte h (64 * f.payload + i))
    r.valid = true → r.scope = 0 → r.reduction = f.red → r.admits s.core (s.core.ctxTenant f.ctx) (.hearth h) = true →
    spGet 0 x.counts h = x.gen → x.gen < 256 → (∀ a ∈ x.arrived, a.1.key ≠ h) → x.sentUp = false →
      ∃ t, exec (.roll h f) s = .next t ∧ (t.core.rollCtx f.ctx).arrived = x.arrived ++ [(.hearth h, pay, 64 * f.payload)] ∧
        (t.core.rollCtx f.ctx).gen = x.gen ∧ (t.core.hearth h).yq = [.rolled f.ctx f.payload] ∧
        ((∀ k ∈ (s.core.targets (s.core.ctxTenant f.ctx) r.unitPath).getD [], k = h ∨ ∃ a ∈ x.arrived, a.1 = .hearth k) →
          (t.core.rollCtx f.ctx).result = some (rollReduce f.red (x.arrived.map (fun a => a.2.1) ++ [pay]))) ∧
        (∀ j, j ≠ h → t.core.hearth j = s.core.hearth j) ∧
        t = { s with core := { s.core with hearths := t.core.hearths, sync := t.core.sync } }) ∧
  (∀ (s : State) (h me : Nat) (f : RollF) (l : List Nat), s.Syncs h (.roll f) → s.core.rollClear h f.payload (s.core.priorWork h) = true → s.core.dram.errors = [] →
    s.core.Own h → 64 * f.payload + 64 ≤ 0x800000 → (s.core.twoTenant = true → s.core.ctxTenant f.ctx = s.core.hearthTenant h) →
    let r := s.core.ctxRec f.ctx
    let x := s.core.rollCtx f.ctx
    let pay := (List.range 64).map (fun i => s.core.scratchByte h (64 * f.payload + i))
    r.valid = true → r.reduction = f.red → r.admits s.core (s.core.ctxTenant f.ctx) (.hearth h) = true → x.gen < 256 → x.sentUp = false →
    (∀ d, d.hub = s.core.hub → d.cfg = s.core.cfg → d.latched = s.core.latched → d.mgt = s.core.mgt → d.dram = s.core.dram → d.stacked = s.core.stacked →
      (ctxNames r).run d = .ok l d) → s.core.selfIn l = some me →
    (spGet 0 x.counts h = x.gen → (∀ a ∈ x.arrived, a.1.key ≠ h) →
      let y : RollCtx := { x with counts := spPut 0 x.counts h ((x.gen + 1) % 256), arrived := x.arrived ++ [(.hearth h, pay, 64 * f.payload)] }
      let b := s.core.setRollCtx f.ctx y
      let kids := treeChildren l me
      let here := b.localArrived f.ctx r = true ∧ ∀ k ∈ kids, ∃ m ∈ x.remote, m.1 = k
      let all := rollReduce f.red (y.arrived.map (fun a => a.2.1) ++ (x.remote.filter (fun m => kids.contains m.1)).map (fun m => m.2))
      let waits := fun (c : Core) => c.modHearth h (fun z => { z with yq := [.rolled f.ctx f.payload] })
      (¬ here → s.Becomes (exec (.roll h f) s) (waits b)) ∧
      (here → ∀ p c, treeParent l me = some p → (sendRoll 0 f.ctx x.gen f.red p all).run (b.setRollCtx f.ctx { y with sentUp := true }) = .ok () c →
        s.Becomes (exec (.roll h f) s) (waits c)) ∧
      (here → ∀ c, treeParent l me = none →
        (kids.forM (fun k => sendRoll 1 f.ctx x.gen f.red k all)).run (b.setRollCtx f.ctx { y with sentUp := true, result := some all }) = .ok () c →
        s.Becomes (exec (.roll h f) s) (waits c))) ∧
    (spGet 0 x.counts h = (x.gen + 1) % 256 → (∀ a ∈ x.held, a.1.key ≠ h) → s.Becomes (exec (.roll h f) s)
      (((s.core.setRollCtx f.ctx { x with counts := spPut 0 x.counts h ((x.gen + 2) % 256), held := x.held ++ [(.hearth h, pay, 64 * f.payload, (x.gen + 1) % 256)] }).bump
        (kSyn 1)).modHearth h (fun z => { z with yq := [.rolled f.ctx f.payload] }))) ∧
    (spGet 0 x.counts h = x.gen → (∃ a ∈ x.arrived, a.1.key = h) → s.Becomes (exec (.roll h f) s) (s.core.bump (kSyn 2))))

/-! Items and ends of runs. -/

/-- TAKE retires the previous item of the ring; it and a waiting TAKE when its item comes write the item's words to x8 to x11 and its base slot to x12; at the
close of the batch x8 is 0xFFFF_FFFF and x9 to x12 are 0; with nothing to take the Hearth waits (R123, R214, R218). Which base slot it has, and that a
cancelled batch's rings count as closed, are the model's choices (entries 100 and 36). -/
def Obligations.TakeWritesTheItemsWords : Prop :=
  (∀ (s : State) (h ring : Nat) (v : RingView) (key base : Nat) (i : Item), s.Controls h → (s.core.hearth h).lentRun = none →
    (s.core.twoTenant = true → ring / 2 = s.core.hearthTenant h) → (∀ j, (s.core.hearth h).items.find? (fun k => k.ring == ring) = some j → j.guests = []) →
    s.core.dram.errors = [] →
    let b := s.core.itemRetired h ring
    let x := b.hearth h
    b.BellowsAtRest →
    (b.currentBatch h ring = none → s.Becomes (exec (.take h ring) s) (b.modHearth h (fun x => { x with taking := some ring }))) ∧
    (b.currentBatch h ring = some v → (v.batchGone = true ∨ b.nextItem h ring v = none) →
      (v.closed ring = false → s.Becomes (exec (.take h ring) s) (b.modHearth h (fun x => { x with taking := some ring }))) ∧
      (v.closed ring = true → s.Becomes (exec (.take h ring) s) (b.closeTaken h ring v))) ∧
    (b.currentBatch h ring = some v → v.batchGone = false → b.nextItem h ring v = some (key, i) →
      poolFind x (itemSlots x i) x.usedSlots = some base → (poolFind x (itemSlots x i) []).isSome = true →
      (b.itemTaken h ring key base (itemSlots x i) i).BellowsAtRest →
        s.Becomes (exec (.take h ring) s) (b.itemTaken h ring key base (itemSlots x i) i)) ∧
    (b.currentBatch h ring = some v → v.batchGone = false → b.nextItem h ring v = some (key, i) →
      poolFind x (itemSlots x i) x.usedSlots = none → (poolFind x (itemSlots x i) []).isSome = true →
        s.Becomes (exec (.take h ring) s) (b.modHearth h (fun x => { x with taking := some ring })))) ∧
  (∀ (s : State) (h ring : Nat) (v : RingView) (key base : Nat) (i : Item), s.core.halted = false → (s.core.hearth h).taking = some ring →
    s.core.currentBatch h ring = some v → s.core.dram.errors = [] →
    let x := s.core.hearth h
    ((v.batchGone = true ∨ s.core.nextItem h ring v = none) → v.closed ring = true → s.Becomes (exec (.timetableItemTaken h) s) (s.core.closeTaken h ring v)) ∧
    (v.batchGone = false → s.core.nextItem h ring v = some (key, i) →
      poolFind x (itemSlots x i) x.usedSlots = some base → (poolFind x (itemSlots x i) []).isSome = true →
      (s.core.itemTaken h ring key base (itemSlots x i) i).BellowsAtRest →
        s.Becomes (exec (.timetableItemTaken h) s) (s.core.itemTaken h ring key base (itemSlots x i) i)))

/-- RUN_END: the Hearth stops and keeps its end code, its items retire, its open groups are counted as abandoned, and with the last member the descriptor
completes with rank 0's end code, whether another differs, and the lowest rank that does; before that its member is noted. A lent item's end completes the
borrower's descriptor with the item's code, its Tallies 56 to 63 at 0 and its reserve free (R88, R108, R214, R433, R443). -/
def Obligations.RunEndCompletesTheRun : Prop :=
  (∀ (s : State) (h code : Nat) (o : Origin) (d : Started), s.core.halted = false → s.core.runEndReady h = true →
    (s.core.hearth h).ended = some code → (s.core.hearth h).lentRun = none → (∀ i ∈ (s.core.hearth h).items, i.guests = []) → (s.core.hearth h).runOf = some o →
    (s.core.ring o.port o.ring).started = [d] → d.slot = o.slot →
    let codes := d.hearths.map (fun k => ((d.members ++ [(h, some code, stOk)]).find? (fun m => m.1 == k)).bind (fun m => m.2.1))
    (d.members.length + 1 < d.hearths.length → ∃ t, exec (.runEnd h) s = .next t ∧ (t.core.hearth h).running = false ∧ (t.core.hearth h).lastEnd = code ∧
      (t.core.ring o.port o.ring).started = [{ d with members := d.members ++ [(h, some code, stOk)] }] ∧ (t.core.port o.port).writes = (s.core.port o.port).writes) ∧
    (d.members.length + 1 = d.hearths.length → d.irq = false → (s.core.port o.port).lost = false → (s.core.ring o.port o.ring).lost = false →
      (∀ m ∈ d.members, m.2.2 = stOk) → ∀ cs : List Nat, codes = cs.map some →
      let z := cs.headD 0
      let data := match cs.findIdx? (fun k => k != z) with | some i => z + 2 ^ 8 + 2 ^ 16 * (i % 2 ^ 16) | none => z + 2 ^ 16 * 0xFFFF
      ∃ t, exec (.runEnd h) s = .next t ∧ (t.core.hearth h).running = false ∧ (t.core.hearth h).lastEnd = code ∧ (t.core.hearth h).groups = [] ∧
        (t.core.hearth h).items = [] ∧ t.core.counter (kHth h 2) = satAdd 32 (s.core.counter (kHth h 2)) (s.core.hearth h).groups.length ∧
        (t.core.ring o.port o.ring).started = [] ∧ (t.core.port o.port).writes = (s.core.port o.port).writes ++
          [(s.core.reg (rRing o.port o.ring 1) + 16 * (s.core.ring o.port o.ring).cqTail,
            completionRecord d.tag data o.slot d.opcode stOk (s.core.ring o.port o.ring).phase)] ∧
        (∀ j, j ≠ h → (t.core.hearth j).running = (s.core.hearth j).running) ∧
        t.core.stacked = s.core.stacked ∧ t.core.hub = s.core.hub ∧ t = { s with core := t.core })) ∧
  (∀ (s : State) (h code : Nat) (c : Core), s.core.halted = false → s.core.runEndReady h = true → (s.core.hearth h).ended = some code →
    (retireAll h).run s.core = .ok () c → (c.hearth h).lentRun = none → ∀ o, (c.hearth h).runOf = some o →
    s.Becomes (exec (.runEnd h) s) ((((c.abandonGroups h).stopHearth h).modHearth h (fun x => { x with lastEnd := code })).memberEnd o h (some code) stOk)) ∧
  (∀ (s : State) (h code : Nat) (l : LentItem), s.core.halted = false → s.core.runEndReady h = true → (s.core.hearth h).ended = some code →
    (s.core.hearth h).lentRun = some l → (s.core.hearth h).items = [] →
    let d := (((s.core.abandonGroups h).clearLent h).modHearth h (fun x => { x with lastEnd := code, allocs := [] })).bump (kPci l.origin.port 4)
    s.Becomes (exec (.runEnd h) s) (d.complete l.origin stOk (code + 2 ^ 16 * 0xFFFF)) ∧ (d.hearth h).lentRun = none ∧ (d.hearth h).running = false ∧
      (∀ i, 56 ≤ i → i < 64 → d.tally 0 h i = {}) ∧ (∀ i, i < 56 → d.tally 0 h i = s.core.tally 0 h i))

/-- LENT_ITEM_TAKE: the oldest lent item leaves its ring, the Hearth is the borrower's, and the image is asked for, or read, and the card after it; with both
in hand the item starts at the card's entry, or, where the image or the card fails its checks, the borrower's descriptor completes with ST_FORMAT (R441,
R442). LENT_BUDGET_EXPIRY: the lent item stops; once no split part of it is open or on its way, its Hearth and its reserve are free and the borrower's
descriptor completes with ST_BUDGET (R97, R442); the end code of a run that reached no END is free (the model's choice, entry 17). -/
def Obligations.LentItemsBindAndEnd : Prop :=
  (∀ (s : State) (h key : Nat) (p : LendPost), s.core.halted = false → s.core.lentReady h = true → s.core.lentNext h = some (key, p) → s.core.dram.errors = [] →
    let n := p.record
    let o := p.origin
    let b := ({ s.core with tt := { s.core.tt with lend := kvPut s.core.tt.lend key (((kvGet s.core.tt.lend key).getD []).drop 1) } } : Core).modHearth h (fun x =>
      { x with lentRun := some { origin := o, irq := p.irq, budget := bits n 271 240, slots := bits n 287 272 } })
    (bit n 288 = true → s.Becomes (exec (.lentItemTake h) s) (b.hostAsked (.desc o) o.port (.lendImage o h n) (bits n 63 0) (bits n 239 224))) ∧
    (∀ image, bit n 288 = false → b.Reads { actor := .desc o, tenant := b.originTenant o, key := bits n 127 96 } [(bits n 63 0, bits n 239 224)] image →
      (bit n 289 = true → s.Becomes (exec (.lentItemTake h) s) (b.hostAsked (.desc o) o.port (.lendCard o h n image) (bits n 191 128) 512)) ∧
      (∀ card picks ok g c, bit n 289 = false → b.Reads { actor := .desc o, tenant := b.originTenant o, key := bits n 223 192 } [(bits n 191 128, 512)] card →
        b.cardPicked ({ b.hearth h with card1 := card } : Hearth).card = some picks → (loadImage [h] 0xE000 image).run b = .ok ok c →
        let d := c.modHearth h (fun x => { x with card1 := card })
        (cardOk h picks).run d = .ok g d →
        let e := d.modHearth h (fun x => x.resolved picks)
        (ok = true → g = true → 0xE000 ≤ 2 * (e.hearth h).cardField 319 304 →
          s.Becomes (exec (.lentItemTake h) s) ((e.modHearth h (fun x => x.started 0 1 ((e.logicalOf h).getD 0))).noteCard h)) ∧
        (ok = false ∨ g = false ∨ 2 * (e.hearth h).cardField 319 304 < 0xE000 → s.Becomes (exec (.lentItemTake h) s) ((e.clearLent h).complete o stFormat 0))))) ∧
  (∀ (s : State) (h : Nat) (l : LentItem), s.core.halted = false → (s.core.hearth h).running = true → (s.core.hearth h).lentRun = some l → l.ending = none →
    (s.core.hearth h).splitsOpen = [] → s.core.splitBusy h = false →
      let d := ((s.core.clearLent h).bump (kPci l.origin.port 3)).completeStopped l.origin stBudget
      s.Becomes (exec (.lentBudgetExpiry h) s) (if l.irq then d.msix l.origin.port 65 else d) ∧
        (d.hearth h).running = false ∧ (d.hearth h).lentRun = none ∧ (d.hearth h).card1 = [] ∧
        (∀ i, 56 ≤ i → i < 64 → d.tally 0 h i = {}) ∧ (∀ i, i < 56 → d.tally 0 h i = s.core.tally 0 h i))

/-! Tiles (chapters 4 and 6). -/

/-- Bytes written to scratch are read back, and the bytes beside them stay (R105). TFILL writes its pattern over its range of scratch, and no other byte (Table
4-4). -/
def Obligations.TfillWritesItsPattern : Prop :=
  (∀ (c : Core) (h off : Nat) (b : List Byte),
    (∀ i, i < b.length → some ((c.putScratch h off b).scratchByte h (off + i)) = b[i]?) ∧
      (∀ a, a < off ∨ off + b.length ≤ a → (c.putScratch h off b).scratchByte h a = c.scratchByte h a) ∧
      (∀ j a, j ≠ h → (c.putScratch h off b).scratchByte j a = c.scratchByte j a)) ∧
  (∀ (s : State) (h : Nat) (f : TfillF), s.Ready h (.tfill f) → 1024 * f.scratch < 0x800000 → 1024 * f.scratch + 1024 * f.length ≤ 0x800000 →
    ∃ t, exec (.tfill h f) s = .next t ∧
      (∀ i, i < 1024 * f.length → t.core.scratchByte h (1024 * f.scratch + i) = BitVec.ofNat 8 (f.pattern / 256 ^ (i % 2))) ∧
      (∀ a, a < 1024 * f.scratch ∨ 1024 * f.scratch + 1024 * f.length ≤ a → t.core.scratchByte h a = s.core.scratchByte h a) ∧
      (∀ j, j ≠ h → t.core.hearth j = s.core.hearth j) ∧ t.core.hearth h = { (s.core.issued h).hearth h with scratch := (t.core.hearth h).scratch } ∧
      t = { s with core := { s.core with hearths := t.core.hearths } })

/-- TLOAD stages its rows and their scales at its scratch offset; where part of them lies on another device the load requests go out and the operation stays
open (R110, R111, R505). A TLOAD of a compressed tensor under a pattern or an observing card reads the tag lines of its window, then stages the half they
name (R173). Where it is the second half of a window both halves have one form: a mismatch in either stages both as dense (R174), the second no lower than
the first KiB boundary after the first. How a second half is known and its first staged again is the model's choice (entries 31, 99). -/
def Obligations.TloadStagesItsTile : Prop :=
  (∀ (s : State) (h : Nat) (f : TloadF), s.Ready h (.tload f) →
    let x := s.core.hearth h
    let t := x.tloadArgs f
    (f.transpose = true → t.d.fmt.isMx = false) → t.off < 0x800000 → t.off + t.size t.d.fmt ≤ 0x800000 → (t.rows ≠ 0 → t.d.readAligned t.row0 t.col0 = true) →
    x.windowLoad t.d = false → s.core.Windows h t.ranges →
    (∀ b, s.core.Reads (s.core.who h t.d) t.ranges b → s.Becomes (exec (.tload h f) s) ((s.core.issued h).putScratch h t.off (t.staged f.transpose b))) ∧
      (∀ d, (readRanges (s.core.who h t.d) (.tload h f x.regs) t.ranges).run (s.core.issued h) = .ok none d → s.Becomes (exec (.tload h f) s) d)) ∧
  (∀ (s : State) (h : Nat) (f : TloadF), s.Ready h (.tload f) →
    let x := s.core.hearth h
    let t := x.tloadArgs f
    let tags := t.lineList.map (fun p => (t.d.tagAt p.1 p.2, 16))
    let form := if x.pattern = 0 then 2 else 1
    f.transpose = false → t.off < 0x800000 → (t.rows ≠ 0 → t.d.readAligned t.row0 t.col0 = true) → x.windowLoad t.d = true → t.col0 % 256 = 0 → t.cols % 256 = 0 →
    s.core.Windows h tags →
    ∀ b, s.core.Reads (s.core.who h t.d) tags b →
      let ns := (chunks 16 b).map leNat
      let cause := if ns.any (fun n => !tagNames t.d x.step n) then 1 else if ns.any (fun n => bit n 96) then 2 else 0
      let me := x.halfRecord t f.desc (if cause = 0 then form else 0)
      let c := s.core.issued h
      let c1 := if cause = 0 then c else c.bump (kHth h 9)
      let after := fun (a : WindowHalf) => x.halfRecord (if t.off < a.next then { t with off := a.next } else t) f.desc 0
      (x.windows.find? (fun w => followsHalf t.d.fmt w me) = none → ∀ d, (stageHalf h me cause).run c1 = .ok () d → s.Becomes (exec (.tload h f) s) d) ∧
      (∀ a, x.windows.find? (fun w => followsHalf t.d.fmt w me) = some a →
        (a.kind = 0 → ∀ d, (stageHalf h (after a) (if cause = 0 then 3 else cause)).run c = .ok () d → s.Becomes (exec (.tload h f) s) d) ∧
        (a.kind ≠ 0 → cause = 0 → ∀ d, (stageHalf h me 0).run c = .ok () d → s.Becomes (exec (.tload h f) s) d) ∧
        (a.kind ≠ 0 → cause ≠ 0 →
          let first := x.halfRecord (x.halfArgs a) a.desc 0
          ∀ d e, (stageHalf h first 3).run c1 = .ok () d → (stageHalf h (after first) cause).run d = .ok () e → s.Becomes (exec (.tload h f) s) e)))

/-- TSTORE of a tile writes its elements and scales, copied or converted, to the rows of its tensor; a RECOMPUTE tensor is not written but counted (R112, R113,
R270, R505); under an observing card the bitmap lines of a compressed form follow (R170; a block that the tile covers in part is the model's choice, entry
137). With a second copy, a shadow or an N:M form it does what `tstoreArrived` says with the tag lines that it reads (R114, R170). A TSTORE of one row that
is copied in whole bytes into stacked memory leaves the row's bytes of scratch there, and no other byte of memory changes (R112, R113). -/
def Obligations.TstoreWritesItsTile : Prop :=
  (∀ (s : State) (h : Nat) (f : TstoreF) (src : Fmt), s.Ready h (.tstore f) →
    let x := s.core.hearth h
    let t := x.tstoreArgs f
    let c := s.core.issued h
    let (r, k) := if f.transpose then (t.cols, t.rows) else (t.rows, t.cols)
    let gs := if f.transpose then rows32 r else t.groups
    let n := stagedBytes src (t.d.blockDim == 0) gs k
    fmtOfCode f.srcFmt = some src → sourceOk (some src) t.d.fmt = true → (f.transpose = true → t.d.fmt.isMx = false) → t.off < 0x800000 →
    t.off + (if f.transpose then stagedBytes src false (rows32 t.cols) t.rows else t.size src) ≤ 0x800000 →
    (t.rows ≠ 0 → t.d.fmt.isMx = true → t.d.wholeBlocks t.d.blockDim t.row0 t.rows t.col0 t.cols = true) →
    let tags := if t.d.compress = true ∧ (x.pattern ≠ 0 ∨ x.observe = true) then t.lineList.map (fun p => (t.d.tagAt p.1 p.2, 16)) else []
    s.core.Windows h tags →
    ((t.d.compress = true → x.pattern = 0) → t.d.hasAlt = false → t.d.shadow = false → ∀ b, s.core.Reads (s.core.who h t.d) tags b →
    let tile := stagedCodes src (t.d.blockDim == 0) gs k (s.core.scratchBytes h t.off n)
    let (vals, out) := t.outs x src (t.inside (if f.transpose then transposeTile t.rows tile else tile))
    let lines := (t.lineList.zip ((chunks 16 b).map leNat)).flatMap (fun (p : (Nat × Nat) × Nat) => bitmapLine t x.step out p.1.1 p.1.2 p.2)
    let ws := elemWrites t.d out ++ scaleWrites t.d t.d.blockDim out ++
      (if t.d.compress = true ∧ x.observe = true then lines else []).map (fun p => ({ addr := p.1, data := p.2 } : Piece))
    let c1 := if src = t.d.fmt then c else c.feedStats t.d x.step (gaugeOf t.d.fmt.isMx vals out)
    (t.d.keep ≠ 2 → ∀ c2, c1.Stores h 1 t.d ws c2 → s.Becomes (exec (.tstore h f) s) (c2.keepBytes h t.d.keep (pieceBytes ws))) ∧
      (t.d.keep = 2 → s.Becomes (exec (.tstore h f) s) (c1.keepBytes h 2 (pieceBytes ws)))) ∧
    (∀ b, s.core.Reads (s.core.who h t.d) tags b → ∀ e, (tstoreArrived h f x.regs b).run c = .ok () e → s.Becomes (exec (.tstore h f) s) e) ∧
    (∀ e, (readRanges (s.core.who h t.d) (.tstore h f x.regs) tags).run c = .ok none e → s.Becomes (exec (.tstore h f) s) e)) ∧
  (∀ (s : State) (h : Nat) (f : TstoreF) (ks : List Nat), s.Ready h (.tstore f) →
    let x := s.core.hearth h
    let t := x.tstoreArgs f
    let n := t.cols * t.d.fmt.elemBits / 8
    let a := t.d.rowAddr t.row0 + t.col0 * t.d.fmt.elemBits / 8
    fmtOfCode f.srcFmt = some t.d.fmt → t.d.fmt.isMx = false → t.d.fmt.elemBits % 8 = 0 → f.transpose = false → t.d.compress = false → t.d.shadow = false →
    t.d.keep = 0 → t.rows = 1 → t.row0 < t.d.rows → t.col0 + t.cols ≤ t.d.ext0 → t.off + n ≤ 0x800000 →
    s.core.RowPlace { s.core.who h t.d with slot := 1 } a n ks → s.core.Windows h [(a, n)] →
    s.LeavesRow (exec (.tstore h f) s) ks (s.core.scratchBytes h t.off n) (s.core.issued h))

/-- TGATHER stages the rows that its indices name; an index out of range reads as zeros and is counted, and under a strict card it is a fault (R111, R175 to
R177). Where part of the rows lies on another device the requests go out and the operation stays open. TSCATTER into a tensor writes each row that an index
in range names, in order (R112, R175); one into the scatter buffer or a table's window is below. -/
def Obligations.IndexedRowsAreMoved : Prop :=
  (∀ (s : State) (h : Nat) (f : TindexF), s.Ready h (.tgather f) →
    let x := s.core.hearth h
    let d := x.desc f.desc
    let count := (x.reg f.count).toNat
    let col0 := (x.reg f.col0).toNat
    let cols := 32 * (f.cols32 + 1)
    1024 * f.index < 0x800000 → 1024 * f.index + 4 * count ≤ 0x800000 → 1024 * f.scratch < 0x800000 → 1024 * f.scratch + gatherRowBytes d cols * count ≤ 0x800000 →
    (count ≠ 0 → d.fmt.isMx = true → d.blockDim = 0 → col0 % 32 = 0) →
    let ms := indexRows d (s.core.scratchBytes h (1024 * f.index) (4 * count)) count
    let bad := (ms.filter Option.isNone).length
    let c := s.core.issued h
    (bad = 0 ∨ x.strict = false → ∀ b, (c.rangeNoted h bad).Windows h (gatherRanges d col0 cols ms) →
        (c.rangeNoted h bad).Reads (s.core.who h d) (gatherRanges d col0 cols ms) b →
        s.Becomes (exec (.tgather h f) s) ((c.rangeNoted h bad).putScratch h (1024 * f.scratch) (gatherStaged d col0 cols ms b))) ∧
      (bad = 0 ∨ x.strict = false → (c.rangeNoted h bad).Windows h (gatherRanges d col0 cols ms) →
        ∀ e, (readRanges (s.core.who h d) (.tgather h f x.regs) (gatherRanges d col0 cols ms)).run (c.rangeNoted h bad) = .ok none e →
        s.Becomes (exec (.tgather h f) s) e) ∧
      (bad ≠ 0 → x.strict = true → s.Becomes (exec (.tgather h f) s) ((c.bump (kHth h 8)).lessonFault h 0 { cls := 0, status := stIndexRange }))) ∧
  (∀ (s : State) (h : Nat) (f : TindexF), s.Ready h (.tscatter f) →
    let x := s.core.hearth h
    let d := x.desc f.desc
    let count := (x.reg f.count).toNat
    let col0 := (x.reg f.col0).toNat
    let cols := 32 * (f.cols32 + 1)
    let n := stagedRowBytes d.fmt true cols * count
    (d.fmt.isMx = true → d.blockDim = 0 ∧ (count ≠ 0 → d.wholeBlocks 0 0 1 col0 cols = true)) →
    1024 * f.index < 0x800000 → 1024 * f.index + 4 * count ≤ 0x800000 → 1024 * f.scratch < 0x800000 → 1024 * f.scratch + n ≤ 0x800000 →
    (∀ m a, s.core.place (d.base % 2 ^ 48) 1 = .ok (.combine m a) → s.core.isLocal d.base = false) → (∀ k a, s.core.place (d.base % 2 ^ 48) 1 ≠ .ok (.hashTbl k a)) →
    let ms := indexRows d (s.core.scratchBytes h (1024 * f.index) (4 * count)) count
    let bad := (ms.filter Option.isNone).length
    let c := s.core.issued h
    let rows := (ms.zip (stagedCodes d.fmt true (rows32 count) cols (s.core.scratchBytes h (1024 * f.scratch) n))).filterMap (fun p =>
      p.1.map (fun m => (p.2.mapIdx (fun j e => (m, col0 + j, rawElem e))).filter (fun e => decide (e.2.1 < d.ext0))))
    (bad = 0 ∨ x.strict = false → ∀ c2, (rows.forM (storeElems h 1 d 0)).run (c.rangeNoted h bad) = .ok () c2 →
        s.Becomes (exec (.tscatter h f) s) c2) ∧
      (bad ≠ 0 → x.strict = true → s.Becomes (exec (.tscatter h f) s) ((c.bump (kHth h 8)).lessonFault h 1 { cls := 0, status := stIndexRange })))

/-! The scatter buffer and the hash accumulator (chapter 8). -/

/-- FRAME_RECORD opens a frame on the Hearth's Smithy, or waits while one is open and holds the Hearth's Tongs; a record that breaks R231 is a fault.
CLOSE_RECORD is counted by the open frame, and is a fault where none is open (R231, R236). COMBINE_SCATTER hands every row in the frame to its cells'
banks, weighted by its entry; a row outside is dropped, counted and noted in the frame, and under a strict card it is a fault. A TSCATTER whose tensor lies
in the Smithy's buffer does the same, and one that lies in another Smithy's buffer, or past the cells, is a fault (R175 to R177, R229, R232, R233). -/
def Obligations.FramesTakeContributions : Prop :=
  (∀ (s : State) (h record : Nat), s.core.halted = false → s.core.tongsFree h 1 [] = true → (s.core.hearth h).lentRun = none → s.core.dram.errors = [] →
    ((frameRecOf record).ok = true → (s.core.smithy (h / 4)).frame = none →
      s.Becomes (exec (.frameRecord h record) s) (s.core.modSmithy (h / 4) (fun y => { y with frame := some { record := record } }))) ∧
    ((frameRecOf record).ok = true → (s.core.smithy (h / 4)).frame.isSome = true →
      s.Becomes (exec (.frameRecord h record) s) (s.core.modSmithy (h / 4) (fun y => { y with held := y.held ++ [(h, record)] }))) ∧
    ((frameRecOf record).ok = false → s.Becomes (exec (.frameRecord h record) s) (s.core.lessonFault h 1 { cls := 0, status := stFormat }))) ∧
  (∀ (s : State) (h record : Nat), s.core.halted = false → s.core.tongsFree h 1 [] = true → (s.core.hearth h).lentRun = none →
    (∀ f, (s.core.smithy (h / 4)).frame = some f → f.closes < (frameRecOf f.record).parts →
      s.Becomes (exec (.closeRecord h record) s) (s.core.modSmithy (h / 4) (fun y => { y with frame := some { f with closes := f.closes + 1 } }))) ∧
    ((∀ f, (s.core.smithy (h / 4)).frame = some f → (frameRecOf f.record).parts ≤ f.closes) →
      s.Becomes (exec (.closeRecord h record) s) (s.core.lessonFault h 1 { cls := 0, status := stFormat }))) ∧
  (∀ (s : State) (h : Nat) (f : TindexF) (fr : CFrame), s.Ready h (.tscatter f) →
    let x := s.core.hearth h
    let d := x.desc f.desc
    let count := (x.reg f.count).toNat
    let col0 := (x.reg f.col0).toNat
    let cols := 32 * (f.cols32 + 1)
    let n := count * stagedRowBytes d.fmt true cols
    let r := frameRecOf fr.record
    let c := s.core.issued h
    (d.fmt = .fp32 ∨ d.fmt = .bf16 ∨ d.fmt = .fp16) → 1024 * f.index < 0x800000 → 1024 * f.index + 16 * count ≤ 0x800000 → 1024 * f.scratch < 0x800000 →
    1024 * f.scratch + n ≤ 0x800000 →
    (s.core.smithy (h / 4)).frame = some fr → fr.closes < r.parts → col0 % 16 = 0 → r.col0 ≤ col0 → col0 + cols ≤ r.col0 + r.cols →
    let entries := unpackCodes 128 count 0 (s.core.scratchBytes h (1024 * f.index) (16 * count))
    let rows := rowsAsF32 d.fmt count cols (s.core.scratchBytes h (1024 * f.scratch) n)
    let bad := (entries.filter r.outside).length
    let noted := if bad = 0 then c else (c.bumpBy (kHth h 8) bad).modSmithy (h / 4) (fun y =>
      { y with frame := some (if fr.pendingStatus = 0 then { fr with pendingStatus := stIndexRange } else fr) })
    (bad = 0 ∨ x.strict = false → ∃ c1,
      ((entries.zip rows).forM (fun (p : Nat × List Word32) => if r.outside p.1 then pure () else contribute (h / 4) r col0 p.1 p.2)).run noted = .ok () c1 ∧
      s.Becomes (exec (.combineScatter h f) s) c1) ∧
    (bad ≠ 0 → x.strict = true → s.Becomes (exec (.combineScatter h f) s) ((c.bump (kHth h 8)).lessonFault h 1 { cls := 0, status := stIndexRange })) ∧
    (∀ off, off < 0x200000 → s.core.place (d.base % 2 ^ 48) 1 = .ok (.combine (h / 4) off) → s.core.isLocal d.base = true →
      exec (.tscatter h f) s = exec (.combineScatter h f) s) ∧
    (∀ m off, (m ≠ h / 4 ∨ 0x200000 ≤ off) → s.core.place (d.base % 2 ^ 48) 1 = .ok (.combine m off) → s.core.isLocal d.base = true →
      s.Becomes (exec (.tscatter h f) s) (c.lessonFault h 1 { cls := 0, status := stFormat, addr := d.base })))

/-- SCATTER_CHUNK: a bank adds its oldest chunk to the frame's cells; in ordered mode a cell's first product is written, not added (R234, R235, R237).
FRAME_DRAIN: the closed values are converted and written row by row, the step's statistics take them, and where nothing is under way elsewhere the next
held record opens its frame and done_tally is signalled (R231, R234 to R236, R317). -/
def Obligations.FramesAddAndDrain : Prop :=
  (∀ (s : State) (m b : Nat) (k : Chunk) (rest : List Chunk) (fr : CFrame), s.core.halted = false → s.core.dram.errors = [] →
    kvGet (s.core.smithy m).banks b = some (k :: rest) → (s.core.smithy m).frame = some fr →
    let ordered := (frameRecOf fr.record).ordered
    ∃ t g, exec (.scatterChunk m b) s = .next t ∧ (t.core.smithy m).frame = some g ∧
      (∀ i v, k.vals[i]? = some v → spGet 0#32 g.cells (k.cell + i) =
        if ordered = true ∧ k.cell + i ∉ fr.written then v else fadd (spGet 0#32 fr.cells (k.cell + i)) v) ∧
      (∀ a, a < k.cell ∨ k.cell + k.vals.length ≤ a → spGet 0#32 g.cells a = spGet 0#32 fr.cells a) ∧
      g.record = fr.record ∧ g.closes = fr.closes ∧ g.touched = fr.touched ∧ ((kvGet (t.core.smithy m).banks b).getD []) = rest ∧
      (∀ a, a ≠ b → kvGet (t.core.smithy m).banks a = kvGet (s.core.smithy m).banks a) ∧ (∀ j, j ≠ m → t.core.smithy j = s.core.smithy j) ∧
      (∀ a, a ≠ kSmy m 0 → t.core.counter a = s.core.counter a) ∧
      (∀ n, n = ((List.range k.vals.length).filter (fun i => ordered && fr.written.contains (k.cell + i))).length →
        t.core.counter (kSmy m 0) = if n = 0 then s.core.counter (kSmy m 0) else satAdd 32 (s.core.counter (kSmy m 0)) n) ∧
      t = { s with core := { s.core with smithies := t.core.smithies, counters := t.core.counters } }) ∧
  (∀ (s : State) (m : Nat) (f : CFrame), s.core.halted = false → s.core.dram.errors = [] → s.core.drainReady m = true → (s.core.smithy m).frame = some f →
    let r := frameRecOf f.record
    let d := r.desc
    let w : Who := { actor := .smithy m, tenant := s.core.smithyTenant m, key := r.key }
    let vals := fun t => (List.range r.cols).map (fun j => (r.token0 + t, r.col0 + j, f.value r t j))
    let outs := fun t => convList d d.fmt 0 r.seed r.step (vals t)
    let put := fun t => putAny w vcReq ((r.outBase + (r.token0 + t) * r.outStride + r.col0 * (d.fmt.elemBits / 8)) % 2 ^ 64)
      (packCodes d.fmt.elemBits ((outs t).map (fun e => e.2.2.code)))
    let g := gaugeOf false ((List.range r.tokens).map vals).flatten ((List.range r.tokens).map outs).flatten
    let y := s.core.tally 1 m r.doneTally
    0 < r.cols → r.gauge = 0 → y.overSet = false → y.value < 0xFFFFFFFF →
    ∀ c1, ((List.range r.tokens).forM put).run s.core = .ok () c1 → c1.waits (.smithy m) = false → c1.smithy m = s.core.smithy m → c1.dram.errors = [] →
      s.Becomes (exec (.frameDrain m) s)
        ((((c1.feedStats d r.step g).bump (kSmy m 2)).modSmithy m (fun x =>
            match x.held with | [] => { x with frame := none } | (_, k) :: l => { x with frame := some { record := k }, held := l })).setTally 1 m r.doneTally
          { y with value := y.value + 1 }))

/-- HASH_SCATTER into a table of this device adds every row in range to its lines under the scatter's key; a row out of range is dropped and counted, and under
a strict card it is a fault. One into a table of another device sends each row there. A TSCATTER whose tensor lies in a table's window does the same (R175
to R177, R239, R240, R242). MERGE_RECORD: the resident lines go to the spill table; then the merged rows are written and the accumulator is empty, or,
where they do not fit, the header alone is written, for no rows and with the bytes they need; the record's Tally is signalled (R244). -/
def Obligations.HashRowsAreAddedAndMerged : Prop :=
  (∀ (s : State) (h : Nat) (f : TindexF) (t : Nat), s.Ready h (.tscatter f) →
    let x := s.core.hearth h
    let d := x.desc f.desc
    let count := (x.reg f.count).toNat
    let col0 := (x.reg f.col0).toNat
    let cols := 32 * (f.cols32 + 1)
    let n := count * stagedRowBytes d.fmt true cols
    let c := s.core.issued h
    (d.fmt = .fp32 ∨ d.fmt = .bf16) → 1024 * f.index < 0x800000 → 1024 * f.index + 8 * count ≤ 0x800000 → 1024 * f.scratch < 0x800000 → 1024 * f.scratch + n ≤ 0x800000 →
    bit d.base 48 = false → hashTable d.base = some t → col0 + cols ≤ 32768 →
    let entries := unpackCodes 64 count 0 (s.core.scratchBytes h (1024 * f.index) (8 * count))
    let rows := rowsAsF32 d.fmt count cols (s.core.scratchBytes h (1024 * f.scratch) n)
    let win := d.base - d.base % 0x1000000
    (∀ e ∈ entries, bits e 63 48 = 0) →
    (∀ nrows width, s.core.isLocal d.base = true → s.core.hashSetting t = some (nrows, width) → col0 + cols ≤ width →
      let bad := (entries.filter (fun e => decide (nrows ≤ bits e 31 0))).length
      let add : Nat × List Word32 → OpM Unit := fun er => if nrows ≤ bits er.1 31 0 then pure () else do
        (linePieces col0 er.2).forM (fun p => checkKey (s.core.who h d) (hashSpot win p % 2 ^ 48) (8 + 4 * p.2.2.length) .write)
        hashAddRow t er.1 col0 er.2
      (bad = 0 ∨ x.strict = false → ∀ c1, ((entries.zip rows).forM add).run (c.rangeNoted h bad) = .ok () c1 → s.Becomes (exec (.hashScatter h f) s) c1) ∧
      (bad ≠ 0 → x.strict = true → s.Becomes (exec (.hashScatter h f) s) ((c.bump (kHth h 8)).lessonFault h 1 { cls := 0, status := stIndexRange }))) ∧
    (s.core.isLocal d.base = false → ∀ c1,
      ((entries.zip rows).forM (fun (er : Nat × List Word32) => hashSend { s.core.who h d with slot := 1 } d.base d.key x.strict er.1 col0 er.2)).run c = .ok () c1 →
      s.Becomes (exec (.hashScatter h f) s) c1) ∧
    (∀ k off, s.core.place (d.base % 2 ^ 48) 1 = .ok (.hashTbl k off) → exec (.tscatter h f) s = exec (.hashScatter h f) s)) ∧
  (∀ (s : State) (a : Agent) (record : Nat), s.core.halted = false → s.core.agentFree a →
    let base := bits record 63 0
    let step := bits record 159 128
    bits record 511 160 = 0 → bits record 127 112 = 0 → s.core.tallyOwned (s.core.agentWho a).tenant (bits record 111 96) = true →
    ∀ lines c1, (s.core.hash.lines.mapM (fun l => do let i ← writeSpill l; pure { l with spill := some i })).run s.core = .ok lines c1 →
    ∀ live c2, liveSpill.run { c1 with hash := { c1.hash with lines := lines } } = .ok live c2 →
    let rows := mergeRows live
    let width := fun t => match s.core.hashSetting t with | some (_, w) => w | none => 0
    let need := 64 + (rows.map (fun (r : Nat × Nat) => roundUp (16 + 4 * width r.1) 64)).foldl (· + ·) 0
    let ended := fun (c : Core) => (List.range 256).foldl (fun c t => { c with latched := kvPut c.latched (rHashTbl t) (c.reg (rHashTbl t)) }) (c.bump kHashMerge)
    (bits record 95 64 < need → ∀ c3 c4, (blockPut base (sparseHeader step 0 need stQuota)).run c2 = .ok () c3 →
      (signalFabric (bits record 111 96) 1).run (ended c3) = .ok () c4 → s.Becomes (exec (.mergeRecord a record) s) c4) ∧
    (need ≤ bits record 95 64 → ∀ bodies c3 c4 c5 c6,
      (rows.mapM (fun (r : Nat × Nat) => do
        let ls ← (List.range (width r.1 / 128)).mapM (mergeLine live r.1 r.2)
        let b := leBytes 16 (r.1 + place r.2 32 32 + place (width r.1) 32 64) ++ bytesOfWords ls.flatten
        pure (b ++ List.replicate (roundUp b.length 64 - b.length) 0#8))).run c2 = .ok bodies c3 →
      (blockPut base (sparseHeader step rows.length need stOk ++ bodies.flatten)).run c3 = .ok () c4 →
      (live.forM (fun p => blockPut (s.core.spillTagAt p.2) (List.replicate 16 0#8))).run c4 = .ok () c5 →
      (signalFabric (bits record 111 96) 1).run (ended { c5 with hash := {}, hub := c5.clearedLines }) = .ok () c6 → s.Becomes (exec (.mergeRecord a record) s) c6))

/-! The Anvil and the Temper (chapters 3 to 6). -/

/-- ALOAD fills the empty shadow plane from staged bytes, neuron by neuron, with +0 beyond the tensor's extents; with the plane full it waits in the A queue
(R74 to R77, R124). In narrow mode each segment takes its own tile, by the narrow-K table (R101, R118); in a skip run the plane takes the columns of its
lane map, and pair 1 the probe plane (R183). -/
def Obligations.AloadFillsTheShadowPlane : Prop :=
  ∀ (s : State) (h : Nat) (f : AloadF), s.Ready h (.aload f) →
    let x := s.core.hearth h
    let off := x.scratchOff f.scratch f.idx 14
    let k0 := (x.reg f.k0).toNat
    let n0 := (x.reg f.n0).toNat
    let st := (x.pairT f.pair).1
    let sm := (x.pairT f.pair).2
    let kp := kPerBeat x.accFormat st.fmt sm.fmt
    let tile := fun kp a => st.tileCols f.kinner kp k0 n0 (s.core.scratchBytes h a (st.tileBytes f.kinner kp k0 n0))
    let plane : Plane := { loaded := true, k0 := k0, n0 := n0, width := kp, kinner := f.kinner }
    let c := s.core.issued h
    off < 0x800000 →
    (x.skipMode ≠ 0 → f.pair = 1 →
      (x.skipMode = 3 → s.Becomes (exec (.aload h f) s) (c.lessonFault h 2 { cls := 0, status := stFormat })) ∧
      (x.skipMode ≠ 3 → x.probeNext.isSome = true → s.Becomes (exec (.aload h f) s) (c.queueOp h (x.issued (.aload f)))) ∧
      (x.skipMode ≠ 3 → ∀ d, (loadProbe h f off k0 n0).run c = .ok () d → s.Becomes (exec (.aload h f) s) d)) ∧
    (x.skipMode ≠ 0 → f.pair ≠ 1 → x.shadow = none → f.narrow = false → (f.pair = 0 → x.pattern = 0 ∧ x.observe = false ∨ st.compress = false) →
      pairAllowed st.fmt sm.fmt x.accFormat = true → ∀ m c1 span c2, (laneMap h n0 f.kinner).run c = .ok m c1 →
      (readSpan h st f.kinner kp k0 n0 off m.width).run c1 = .ok span c2 →
      let cols := (List.range 128).map (fun l => match m.chosen[l]? with
        | some j => st.colVals f.kinner k0 (n0 + j) (span.getD j [])
        | none => List.replicate kp FV.zero)
      s.Becomes (exec (.aload h f) s) (c2.modHearth h (fun x => { x with shadow := some { plane with rounds := [cols.map numbered] } }))) ∧
    ((x.skipMode ≠ 0 → f.pair ≠ 1) → pairAllowed st.fmt sm.fmt x.accFormat = true →
    (x.shadow.isSome = true → s.Becomes (exec (.aload h f) s) (c.queueOp h (x.issued (.aload f)))) ∧
    (x.shadow = none → x.skipMode = 0 → f.narrow = false → (f.pair = 0 → x.pattern = 0 ∧ x.observe = false ∨ st.compress = false) → off + st.tileBytes f.kinner kp k0 n0 ≤ 0x800000 →
      let rounds := [(tile kp off).mapIdx (fun j col => numbered (st.colVals f.kinner k0 (n0 + j) col))]
      s.Becomes (exec (.aload h f) s) (c.modHearth h (fun x => { x with shadow := some { plane with rounds := rounds } }))) ∧
    (x.shadow = none → f.narrow = false → f.pair = 0 → (x.pattern ≠ 0 ∨ x.observe = true) → st.compress = true →
      ∀ p, (loadWindow h st sm f off k0 n0).run c = .ok p c →
        s.Becomes (exec (.aload h f) s) (c.modHearth h (fun x => { x with shadow := some p }))) ∧
    (x.shadow = none → f.narrow = true → narrowAllowed st.fmt sm.fmt x.accFormat = true → 1024 * x.cardField 396 384 + 64 ≤ 0x800000 →
      ∀ tab, (chunks 16 (s.core.scratchBytes h (1024 * x.cardField 396 384) 64)).mapM (fun e => narrowEntry (leNat e)) = some tab →
      (∀ e ∈ tab, e.1 ≠ 0 → off + 1024 * e.2.2 < 0x800000 ∧ off + 1024 * e.2.2 + st.tileBytes f.kinner 64 k0 n0 ≤ 0x800000) →
      let rounds := tab.map (fun e => if e.1 = 0 then List.replicate 128 (numbered (List.replicate 64 .zero))
          else (tile 64 (off + 1024 * e.2.2)).map (fun col => numbered (col.mapIdx (fun i v => if i < e.1 then st.value v else .zero))))
      s.Becomes (exec (.aload h f) s) (c.modHearth h (fun x => { x with shadow := some { plane with narrow := true, rounds := rounds } }))))

/-- ASTREAM: a loaded shadow plane becomes current, every element of the group takes its column's exact partial sum, rounded once, and the terms are counted;
an opening stream starts from +0 (R43, R53, R74, R83 to R86, R116). In narrow mode each of four groups takes its own segment of 64 rows, with its own
streamed rows (R101, R118). A closing stream then closes its groups (R87). An opening stream whose rows a writeback still holds waits in the A queue (Table
3-5). In a skip run the probe sums, the sums of magnitudes and the largest shadow scales follow the stream (R183, R185). -/
def Obligations.AstreamAddsToItsGroup : Prop :=
  ∀ (s : State) (h : Nat) (f : AstreamF) (gr : Nat → Group), s.Ready h (.astream f) →
    let x := s.core.hearth h
    let off := x.scratchOff f.scratch f.idx 14
    let rows := (x.reg f.rows).toNat
    let base := (x.reg f.base).toNat
    let st := (x.pairT f.pair).1
    let sm := (x.pairT f.pair).2
    let kp := kPerBeat x.accFormat st.fmt sm.fmt
    let pl := x.shadow.getD x.current
    let width := if pl.loaded then pl.width else kp
    let cover := min width (pl.kLimit st sm - pl.k0)
    let slots := rows * x.groupSlots.1
    let parts := if f.narrow then 4 else 1
    let bind := fun j => (kvGet x.bindings (f.g + j)).getD {}
    let values := fun w a => (stagedCodes sm.fmt true (rows32 rows) w (s.core.scratchBytes h a (rows * stagedRowBytes sm.fmt true w))).map (fun r => r.map sm.value)
    let limit := fun j => if (gr j).fmt = 2 then 4096 else 2 ^ 22
    let c := s.core.issued h
    let streamed := fun (groups : List (Nat × Group)) => c.modHearth h (fun x =>
      { x with current := pl, shadow := none, probeCur := match x.probeNext with | some p => some p | none => x.probeCur, probeNext := none, groups := groups })
    pairAllowed st.fmt sm.fmt x.accFormat = true → off < 0x800000 →
    (x.skipMode ≠ 0 → f.pair = 0 → f.narrow = false → rows ≠ 0 → (f.opens = true → x.wbq.any (fun w => slotsMeet base slots w.base w.slots) = false) →
      ∀ c0 g sp, (if f.opens = true then (openGroup h f.g base rows false).run c = .ok () c0 else c0 = c) →
      kvGet (c0.hearth h).groups f.g = some g → g.rows = rows → g.skip = some sp → sp.judged = false → pl.loaded = true → pl.narrow = false → pl.n0 = sp.map.n0 →
      width ≤ 1024 → off + rows * stagedRowBytes sm.fmt true width ≤ 0x800000 → g.total + cover ≤ 2 ^ 22 →
      let q := match x.probeNext with | some p => some p | none => x.probeCur
      let data := values width off
      (x.skipMode = 3 ∨ sp.map.probe = [] ∨ ∃ p, q = some p ∧ p.n0 = pl.n0 ∧ p.k0 = pl.k0) →
      let cols := match q with | some p => p.cols | none => []
      let sigma := match q with | some p => p.sigma | none => []
      let absSum := (sp.absSum.zip data).map (fun r => addUp r.1 (toF32Up (FV.sum ((r.2.take cover).map FV.abs))))
      let probes := (sp.probes.zip data).map (fun r => (r.1.zip cols).map (fun y =>
        fadd y.1 (toF32 (FV.sum (((r.2.take cover).zip y.2).map (fun xw => xw.1.mul xw.2))))))
      let sp1 : SkipPart := if x.skipMode = 3 then sp
        else if sp.map.probe = [] then { sp with absSum := absSum }
        else { sp with absSum := absSum, probes := probes, sigma := (sp.sigma.zip sigma).map (fun y => fvMax y.1 y.2) }
      let sp2 : SkipPart := { sp1 with tiles := sp.tiles ++ [(pl.k0, pl.kinner)] }
      let g2 : Group := { g with acc := accumulate g.fmt cover width (pl.whole kp) data g.acc, terms := g.terms + cover, total := g.total + cover, skip := some sp2 }
      let d := c0.modHearth h (fun x => { x with current := pl, shadow := none, probeCur := q, probeNext := none, groups := kvPut x.groups f.g g2 })
      (f.closes = false → s.Becomes (exec (.astream h f) s) d) ∧
        (f.closes = true → ∀ e, (closeOp h f.g).run d = .ok () e → s.Becomes (exec (.astream h f) s) e)) ∧
    (x.skipMode = 0 →
    (f.opens = true → rows ≠ 0 → (f.narrow = true → narrowAllowed st.fmt sm.fmt x.accFormat = true) → x.wbq.any (fun w => slotsMeet base (parts * slots) w.base w.slots) = true →
      s.Becomes (exec (.astream h f) s) (c.queueOp h (x.issued (.astream f)))) ∧
    ((f.opens = true → x.wbq.any (fun w => slotsMeet base (parts * slots) w.base w.slots) = false) →
    (f.opens = true → 1 ≤ rows ∧ rows ≤ 1024 ∧ ∀ j, j < parts → kvGet x.groups (f.g + j) = none ∧ (base + j * slots) % x.groupSlots.2 = 0 ∧
      base + j * slots + slots ≤ 16384 ∧ (∀ p ∈ x.groups, slotsMeet (base + j * slots) slots p.2.base (p.2.rows * p.2.slotsPerRow) = false) ∧
      splitWordOk (bind j).split f.narrow = true ∧
      gr j = { base := base + j * slots, rows := rows, slotsPerRow := x.groupSlots.1, fmt := x.accFormat, fold := bit x.card 107, binding := bind j,
               acc := List.replicate rows (List.replicate 128 (0#32, 0#32)) }) →
    (f.opens = false → ∀ j, j < parts → kvGet x.groups (f.g + j) = some (gr j) ∧ (gr j).rows = rows ∧ (gr j).skip = none ∧ (gr j).fmt = (gr 0).fmt) →
    (f.narrow = false → width ≤ 1024 → off + rows * stagedRowBytes sm.fmt true width ≤ 0x800000 → (gr 0).terms + cover ≤ limit 0 →
      let d := streamed (kvPut x.groups f.g { gr 0 with acc := accumulate (gr 0).fmt cover width (pl.whole kp) (values width off) (gr 0).acc,
                                                        terms := (gr 0).terms + cover, total := (gr 0).total + cover })
      (f.closes = false → s.Becomes (exec (.astream h f) s) d) ∧
        (f.closes = true → ∀ e, (closeOp h f.g).run d = .ok () e → s.Becomes (exec (.astream h f) s) e)) ∧
    (f.narrow = true → narrowAllowed st.fmt sm.fmt x.accFormat = true → 1024 * x.cardField 396 384 + 64 ≤ 0x800000 →
      ∀ tab, (chunks 16 (s.core.scratchBytes h (1024 * x.cardField 396 384) 64)).mapM (fun e => narrowEntry (leNat e)) = some tab →
      (∀ e ∈ tab, e.1 ≠ 0 → off + 1024 * e.2.1 < 0x800000 ∧ off + 1024 * e.2.1 + rows * stagedRowBytes sm.fmt true 64 ≤ 0x800000) →
      (∀ j, j < 4 → (gr j).terms + 64 ≤ limit j) →
      let data := fun j => match tab[j]? with
        | some e => if e.1 = 0 then List.replicate rows (List.replicate 64 FV.zero) else values 64 (off + 1024 * e.2.1)
        | none => []
      let d := streamed ((List.range 4).foldl (fun m j => kvPut m (f.g + j)
        { gr j with acc := accumulate (gr j).fmt 64 64 [pl.segment j] (data j) (gr j).acc, terms := (gr j).terms + 64, total := (gr j).total + 64 }) x.groups)
      (f.closes = false → s.Becomes (exec (.astream h f) s) d) ∧
        (f.closes = true → ∀ e, ([f.g, f.g + 1, f.g + 2, f.g + 3].forM (closeOp h)).run d = .ok () e → s.Becomes (exec (.astream h f) s) e))))

/-- ABIND latches its group's output, chain, coordinates and split word (R117, R119). ACLOSE: a group with no output is abandoned and counted; else it leaves
the store and its closed values, from all its segments, wait for the Temper; with no open group it is a fault of the A slot. In narrow mode its four groups
close one after another (R55, R56, R80, R87, R102). A group of a skip run, whatever its output, is judged: its neurons that open a row, all forced ones,
and in REPLAY those alone, are called back (R182, R186). -/
def Obligations.GroupsAreBoundAndClosed : Prop :=
  (∀ (s : State) (h : Nat) (f : AbindF), s.core.halted = false → s.core.canIssue h (.abind f) = true →
    let x := s.core.hearth h
    let b : Binding := { out := f.out, record := kvGet x.chains f.chain, m0 := (x.reg f.m0).toNat, n0 := (x.reg f.n0).toNat,
                         split := (x.reg f.split).toNat, noSplit := f.split == 0 }
    s.Becomes (exec (.abind h f) s) ((s.core.issued h).modHearth h (fun x => { x with bindings := kvPut x.bindings f.g b }))) ∧
  (∀ (s : State) (h : Nat) (f : AcloseF), s.Issues h (.aclose f) → s.core.dram.errors = [] →
    let x := s.core.hearth h
    let c := s.core.issued h
    (f.narrow = true → (∃ fm rows, ∀ j, j < 4 → ∃ gr, kvGet x.groups (f.g + j) = some gr ∧ gr.fmt = fm ∧ gr.rows = rows) →
      ∀ d, ([f.g, f.g + 1, f.g + 2, f.g + 3].forM (closeOp h)).run c = .ok () d → s.Becomes (exec (.aclose h f) s) d) ∧
    (f.narrow = false →
    (kvGet x.groups f.g = none → s.Becomes (exec (.aclose h f) s) (c.lessonFault h 2 { cls := 0, status := stSlotBusy })) ∧
    (∀ gr, kvGet x.groups f.g = some gr → gr.skip = none → gr.binding.out = 7 →
      s.Becomes (exec (.aclose h f) s) ((c.modHearth h (fun x => ({ x with groups := kvDel x.groups f.g } : Hearth).freeFootprint gr.base)).bump (kHth h 2))) ∧
    (∀ gr, kvGet x.groups f.g = some gr → gr.binding.out ≠ 7 → gr.skip = none → gr.closedSegs = 0 → gr.binding.split = 0 →
      let vals := (List.range gr.rows).map (fun i => (List.range 128).map (fun j => closeGroup [(gr.acc.getD i []).getD j (0#32, 0#32)]))
      let w : Writeback :=
        { binding := gr.binding, base := gr.base, slots := gr.rows * gr.slotsPerRow, segments := 1, flags := gr.flags, fmt := gr.fmt, terms := gr.total, seq := x.seq + 1,
          values := if gr.fmt = 0 then vals else gr.acc.map (fun r => r.map (plainClosed gr)) }
      s.Becomes (exec (.aclose h f) s) (c.modHearth h (fun x => { x with groups := kvDel x.groups f.g, wbq := x.wbq ++ [w] }))) ∧
    (∀ gr segs, kvGet x.groups f.g = some gr → gr.binding.out ≠ 7 → gr.skip = none → gr.fmt = 0 → (groupSegments h gr).run c = .ok segs c →
      let w : Writeback :=
        { binding := gr.binding, base := gr.base, slots := gr.rows * gr.slotsPerRow, segments := gr.closedSegs + 1, fmt := 0, terms := gr.total, seq := x.seq + 1,
          flags := flagIf (gr.closedSegs != 0) gfSegmented gr.flags, values := closeSegments gr.rows segs, pairs := if gr.binding.split = 0 then [] else segs }
      s.Becomes (exec (.aclose h f) s) (c.modHearth h (fun x => { x with groups := kvDel x.groups f.g, wbq := x.wbq ++ [w] }))) ∧
    (∀ gr sp hd, kvGet x.groups f.g = some gr → gr.skip = some sp → sp.judged = false →
      (x.skipMode ≠ 3 → (readLocal (s.core.who h x.companion) x.auxArea 64).run c = .ok hd c) →
      let tau := if x.skipMode = 3 then 0#32 else BitVec.ofNat 32 (bits (leNat hd) 191 160)
      let res := (List.range sp.map.probe.length).map (judgeProbe x.skipMode sp (judgeFactor gr.total) tau)
      let ung := (res.filter (fun r => r.2)).length
      let called := ((sp.map.probe.zip res).filter (fun p => p.2.1)).map (fun p => p.1)
      let judged : SkipPart :=
        { sp with judged := true, called := sortBy (fun a b => decide (a < b)) called, forcedCount := (sp.map.forced.filter (fun b => b)).length, unguarded := ung }
      s.Becomes (exec (.aclose h f) s)
        ((c.bumpBy (kHth h 10) ung).modHearth h (fun x => { x with groups := kvPut x.groups f.g { gr with skip := some judged } })))))

/-- ACATCH of a judged group writes the plan's counts and the called-back columns, frees the group and queues its writeback passes, with those columns caught
up from the streamed rows, round by round (R188, R189); one that names no output is abandoned. A plan whose columns lie on another device waits for them.
That the fetch buffers hold free bytes afterwards is the model's choice (entry 30). GROUP_WRITEBACK: the oldest closed group leaves the queue, the Y slot
learns of it, and its values go through its chain into its tensor, or into its split slot (R59, R80, R87, R90, R94, R127, R145, R319). That its item's
footprint is free with the last group in it, and that it counts with the A slot's operation, are the model's choice (entries 68, 100). A GROUP_WRITEBACK of
one row through no chain into a tensor in stacked memory leaves the converted row there, in the active lanes, and feeds the step's statistics (R59, R60,
R64, R80, R153). -/
def Obligations.WritebacksLeaveTheQueue : Prop :=
  (∀ (s : State) (h : Nat) (f : AcatchF) (gr : Group) (sp : SkipPart), s.Ready h (.acatch f) →
    let x := s.core.hearth h
    let list := x.scratchOff f.list f.idx 14
    let n := sp.called.length
    let (st, sm) := x.pairT 0
    let kp := kPerBeat x.accFormat st.fmt sm.fmt
    let rs := sp.tiles.flatMap (fun t => sp.called.flatMap (fun j => columnRanges st kp (sp.map.n0 + j) t))
    let c1 := ((s.core.issued h).putScratch h (list + 16) (leBytes 4 n ++ leBytes 4 sp.forcedCount ++ leBytes 4 sp.unguarded ++ leBytes 4 (ceilDiv n 128))).putScratch h (list + 64)
      (sp.called.flatMap (fun j => leBytes 2 j))
    let passes := fun (c : Core) (caught : List (List Word32)) => c.modHearth h (fun x =>
      { x with groups := kvDel x.groups f.g, wbq := x.wbq ++ skipPasses x.skipMode (x.seq) gr sp caught })
    kvGet x.groups f.g = some gr → gr.skip = some sp → sp.judged = true → list + 64 + 2 * n ≤ 0x800000 →
    (sp.called = [] → gr.binding.out ≠ 7 → s.Becomes (exec (.acatch h f) s) (passes c1 [])) ∧
    (sp.called = [] → gr.binding.out = 7 →
      s.Becomes (exec (.acatch h f) s) ((c1.modHearth h (fun x => ({ x with groups := kvDel x.groups f.g } : Hearth).freeFootprint gr.base)).bump (kHth h 2))) ∧
    (c1.Windows h rs → ∀ b, c1.Reads (s.core.who h st) rs b →
      (∀ e, (acatchFinish h f x.regs (x.seq + 1) b).run c1 = .ok () e → s.Becomes (exec (.acatch h f) s) e) ∧
      (∀ t, sp.tiles = [t] → sp.called ≠ [] → gr.binding.out ≠ 7 →
        let plan := leNat (c1.scratchBytes h list 8)
        let buf := 1024 * bits plan 44 32
        let c2 := c1.modHearth h (fun x => { x with scratch := memClear x.scratch buf 0x20000 })
        buf + 0x20000 ≤ 0x800000 → ∀ rows, (streamRows h sm (1024 * bits plan 12 0) kp gr.rows).run c2 = .ok rows c2 →
        let cols := (splitSizes (sp.called.map (fun _ => columnSize st kp t)) b).map (fun y => numbered (columnValues st kp t y))
        let acc := accumulate 0 (tilePositions st kp t).length kp [cols] rows (List.replicate gr.rows (sp.called.map (fun _ => (0#32, 0#32))))
        s.Becomes (exec (.acatch h f) s) (passes c2 (acc.map (fun r => r.map (fun p => fadd p.1 p.2)))))) ∧
    (c1.Windows h rs → ∀ e, (readRanges (s.core.who h st) (.acatch h f x.regs (x.seq + 1)) rs).run c1 = .ok none e → s.Becomes (exec (.acatch h f) s) e)) ∧
  (∀ (s : State) (h : Nat) (w : Writeback) (rest : List Writeback), s.core.halted = false → s.core.writebackReady h = true → (s.core.hearth h).wbq = w :: rest →
    let x := s.core.hearth h
    let c1 := s.core.modHearth h (fun x => ({ x with wbq := rest } : Hearth).freeFootprint w.base)
    let told := fun (d : Core) => s.core.fenced h (fun p => decide (w.seq ≤ p.upTo)) d
    let pass := fun (ch : Chain) =>
      ({ slot := 2, chain := ch, out := some (x.desc w.binding.out), m0 := w.binding.m0, n0 := w.binding.n0, rows := w.values.length,
         lanes := activeLanes (x.desc w.binding.out) w.binding.n0, vals := w.values, skip := w.skip, segments := w.segments, flags := w.flags,
         status := w.status } : Pass)
    (w.binding.split = 0 → w.skip = none → ∀ ch c2 live d, (readChain h w.binding.record).run c1 = .ok ch c2 → (runPass h (pass ch)).run c2 = .ok live d →
      s.Becomes (exec (.groupWriteback h) s) (told d)) ∧
    (w.binding.split = 0 → ∀ k, w.skip = some k → ∀ ch c2 live c3 d, (readChain h w.binding.record).run c1 = .ok ch c2 → (runPass h (pass ch)).run c2 = .ok live c3 →
      (do maskRecord h (x.desc w.binding.out) w.binding k
          skipCounts h k w.binding.n0 w.values.length (activeLanes (x.desc w.binding.out) w.binding.n0) live : OpM Unit).run c3 = .ok () d →
      s.Becomes (exec (.groupWriteback h) s) (told d)) ∧
    (w.binding.split ≠ 0 → ∀ d, (splitWriteback h w).run c1 = .ok () d → s.Becomes (exec (.groupWriteback h) s) (told d))) ∧
  (∀ (s : State) (h : Nat) (w : Writeback) (rest : List Writeback) (v : List Word32) (ks : List Nat), s.core.halted = false → s.core.Own h → s.core.dram.errors = [] →
    s.core.writebackReady h = true → (s.core.hearth h).wbq = w :: rest →
    let x := s.core.hearth h
    let d := x.desc w.binding.out
    let lanes := activeLanes d w.binding.n0
    let n := lanes * d.fmt.elemBits / 8
    let a := d.rowAddr w.binding.m0 + w.binding.n0 * d.fmt.elemBits / 8
    let el := (v.take lanes).mapIdx (fun j y => (w.binding.m0, w.binding.n0 + j, y))
    let out := convList d d.fmt d.blockDim x.seed x.step el
    let c1 := s.core.modHearth h (fun x => ({ x with wbq := rest } : Hearth).freeFootprint w.base)
    w.values = [v] → v.length = 128 → w.binding.split = 0 → w.skip = none → w.binding.record = none → d.fmt.isMx = false → d.fmt.elemBits % 8 = 0 → d.keep = 0 →
    w.binding.m0 < d.rows → x.cardField 191 128 = 0 → s.core.RowPlace { s.core.who h d with slot := 2 } a n ks → s.core.Windows h [(a, n)] →
    s.LeavesRow (exec (.groupWriteback h) s) ks (packCodes d.fmt.elemBits (out.map (fun e => e.2.2.code)))
      (s.core.fenced h (fun p => decide (w.seq ≤ p.upTo)) (c1.feedStats d x.step (gaugeOf false el out))))

/-- The stages of a chain act one after another, lane by lane, the first on the input row (R143, R146). -/
def Obligations.ChainStagesActInOrder : Prop :=
  ∀ (p : Pass) (inp : List Word32) (ops : List (Stage × List Word32)), p.skip = none →
    (stageRow p inp ops).length = ops.length + 1 ∧ (stageRow p inp ops).head? = some inp ∧
      (stageRow p inp ops).getLastD [] = ops.foldl (fun v s => List.zipWith (stageFn s.1.op) v s.2) inp

/-- VDEF puts a record in force for its chain, VLEN sets the lanes to at most 128, and VRUN runs its chain's pass over scratch rows (R119, R153, R154); one of
one FP32 row, through no chain, leaves the converted row in memory and feeds the step's statistics. -/
def Obligations.VSlotRunsItsChain : Prop :=
  (∀ (s : State) (h chain record : Nat), s.core.halted = false → s.core.canIssue h (.vdef chain record) = true →
    s.Becomes (exec (.vdef h chain record) s) ((s.core.issued h).modHearth h (fun x => { x with chains := kvPut x.chains chain record }))) ∧
  (∀ (s : State) (h r : Nat), s.core.halted = false → s.core.canIssue h (.vlen r) = true →
    s.Becomes (exec (.vlen h r) s) ((s.core.issued h).modHearth h (fun x => { x with vlen := min 128 (x.reg r).toNat }))) ∧
  (∀ (s : State) (h : Nat) (f : VrunF) (ch : Chain) (c1 d : Core) (live : List Nat), s.Issues h (.vrun f) →
    let x := s.core.hearth h
    let out := if f.out = 7 then none else some (x.desc f.out)
    (readChain h (kvGet x.chains f.chain)).run (s.core.issued h) = .ok ch c1 →
    (runPass h { chain := ch, out := out, m0 := (x.reg f.m0).toNat, n0 := (x.reg f.n0).toNat, rows := (x.reg f.rows).toNat,
                 lanes := match out with | some d => min x.vlen (d.ext0 - (x.reg f.n0).toNat) | none => x.vlen,
                 src := some (x.scratchOff f.src f.idx 15) }).run c1 = .ok live d →
      s.Becomes (exec (.vrun h f) s) d) ∧
  (∀ (s : State) (h : Nat) (f : VrunF) (ks : List Nat), s.Ready h (.vrun f) →
    let x := s.core.hearth h
    let off := x.scratchOff f.src f.idx 15
    let d := x.desc f.out
    let m0 := (x.reg f.m0).toNat
    let n0 := (x.reg f.n0).toNat
    let lanes := min x.vlen (d.ext0 - n0)
    let n := lanes * d.fmt.elemBits / 8
    let a := d.rowAddr m0 + n0 * d.fmt.elemBits / 8
    let el := ((wordsOf (s.core.scratchBytes h off 512)).take lanes).mapIdx (fun j y => (m0, n0 + j, y))
    let out := convList d d.fmt d.blockDim x.seed x.step el
    f.out ≠ 7 → kvGet x.chains f.chain = none → (x.reg f.rows).toNat = 1 → x.vlen ≤ 128 → off + 512 ≤ 0x800000 → d.fmt.isMx = false → d.fmt.elemBits % 8 = 0 → d.keep = 0 →
    m0 < d.rows → x.cardField 191 128 = 0 → s.core.RowPlace { s.core.who h d with slot := 3 } a n ks → s.core.Windows h [(a, n)] →
    s.LeavesRow (exec (.vrun h f) s) ks (packCodes d.fmt.elemBits (out.map (fun e => e.2.2.code)))
      ((s.core.issued h).feedStats d x.step (gaugeOf false el out)))

/-! Descriptors (chapter 15). -/

/-- A descriptor that breaks a check completes with ST_FORMAT, in its turn, and does nothing else (R430, R431). -/
def Obligations.RefusedDescriptorsComplete : Prop :=
  ∀ (s : State) (o : Origin) (d : Desc) (i : Instr) (op : Nat) (e : Desc),
    (i, op, e) ∈ [(.opLessonLoad o d, 1, d), (.opCard o d, 2, d), (.opRun o d, 3, { d with lend := false }), (.opRunLend o d, 3, { d with lend := true }),
      (.opCopy o d, 4, d), (.opFill o d, 5, d), (.opSignal o d, 6, d), (.opSignalSub o d, 6, { d with p := d.p % 2 ^ 56 + 3 <<< 56 }), (.opRoll o d, 7, d),
      (.forwardBatch o d, 8, d), (.backwardBatch o d, 8, d), (.releaseBatch o d, 8, d), (.cancelBatch o d, 8, d), (.opCrucibleStep o d, 9, d),
      (.snapshotTake o d, 10, d), (.snapshotRestore o d, 10, d), (.opSeat o d, 11, d)] →
    s.core.halted = false → s.core.Announced o → s.core.Unhindered o op e → s.core.descRefused o.port op e = true →
      s.Becomes (exec i s) ((s.core.begun o op e []).complete o stFormat 0)

/-- A completion writes the 16-byte record at the completion tail, with tag, data, slot, opcode, status and phase, moves the tail, and takes the descriptor off
its ring; other rings and ports stay (R432, R434, R435). -/
def Obligations.CompletionRecordIsWritten : Prop :=
  ∀ (c : Core) (o : Origin) (t : Started) (status data : Nat), (c.ring o.port o.ring).started = [t] → t.slot = o.slot → (c.port o.port).lost = false →
    (c.ring o.port o.ring).lost = false → t.irq = false →
    let x := c.ring o.port o.ring
    let n := c.ringEntries o.port o.ring
    let d := c.complete o status data
    (d.port o.port).writes = (c.port o.port).writes ++ [(c.reg (rRing o.port o.ring 1) + 16 * x.cqTail, completionRecord t.tag data o.slot t.opcode status x.phase)] ∧
      (d.ring o.port o.ring).started = [] ∧ (d.ring o.port o.ring).cqTail = (x.cqTail + 1) % n ∧
      (d.ring o.port o.ring).phase = (if x.cqTail + 1 = n then !x.phase else x.phase) ∧ (d.port o.port).sent = (c.port o.port).sent ∧ (d.port o.port).outEdge = ((c.port o.port).says 1).outEdge ∧
      (∀ r, r ≠ o.ring → d.ring o.port r = c.ring o.port r) ∧ (∀ q, q ≠ o.port → d.port q = c.port q) ∧ d = { c with ports := d.ports }

/-- OP_LESSON_LOAD claims its Hearths and asks for its image, or loads it where it has it at once; OP_CARD gives every Hearth its card; a path that reaches no
Hearth completes with ST_UNIT_ABSENT (R23, R134 to R136, R140). -/
def Obligations.LessonAndCardReachTheirHearths : Prop :=
  (∀ (s : State) (o : Origin) (d : Desc) (hs : List Nat), s.Starts o 1 d hs → hs ≠ [] → (hs.any s.core.lending = true → d.p % 2 ^ 16 + d.l ≤ 0xE000) →
    let b := ((s.core.begun o 1 d hs).claim o hs).modStarted o (fun t => { t with total := d.l })
    (d.aHost = true → s.Becomes (exec (.opLessonLoad o d) s) (b.hostAsked (.desc o) o.port (.lesson o d) d.a d.l)) ∧
      (d.aHost = false → ∀ image ok c, b.Reads { actor := .desc o, tenant := b.originTenant o, key := d.ka } [(d.a, d.l)] image →
        (loadImage hs (d.p % 2 ^ 16) image).run b = .ok ok c →
        s.Becomes (exec (.opLessonLoad o d) s) ((c.modStarted o (fun t => { t with done := d.l })).complete o (if ok then stOk else stFormat) 0))) ∧
  (∀ (s : State) (o : Origin) (d : Desc) (hs : List Nat), s.Starts o 2 d hs → hs ≠ [] →
    let b := (s.core.begun o 2 d hs).claim o hs
    (d.aHost = true → s.Becomes (exec (.opCard o d) s) (b.hostAsked (.desc o) o.port (.card o d) d.a 512)) ∧
      (d.aHost = false → ∀ card, b.Reads { actor := .desc o, tenant := b.originTenant o, key := d.ka, keyed := false } [(d.a, 512)] card →
        s.Becomes (exec (.opCard o d) s) ((hs.foldl (fun c h => c.modHearth h (fun x => { x with card0 := card })) b).complete o stOk 0))) ∧
  (∀ (s : State) (o : Origin) (d : Desc) (i : Instr) (op : Nat), (i, op) ∈ [(.opLessonLoad o d, 1), (.opCard o d, 2)] → s.Starts o op d [] →
    s.Becomes (exec i s) (((s.core.begun o op d []).bump kAbsentUnit).complete o stUnitAbsent 0))

/-- OP_RUN starts every Hearth of its path at its card's entry, in rank order, or, where a card fails its checks, none, and counts it; with lend it posts its
item on the tenant's lendable ring, to the dies in turn, a record in the host's memory being asked for first; a record that breaks Table 15-9 completes
with ST_FORMAT, one for which no Hearth of the other tenant lends with ST_UNIT_ABSENT (R15, R104, R141, R142, R440). -/
def Obligations.RunStartsItsHearths : Prop :=
  (∀ (s : State) (o : Origin) (d : Desc) (hs : List Nat), s.Starts o 3 { d with lend := false } hs → hs ≠ [] →
    let b := s.core.begun o 3 { d with lend := false } hs
    ∀ ok, (hs.mapM (fun h => cardOk h ((b.cardPicked (b.hearth h).card).getD ([], [])))).run b = .ok ok b →
      let bad := ((hs.zip ok).filter (fun p => !p.2)).map (fun p => p.1)
      (bad = [] → s.Becomes (exec (.opRun o d) s) ((hs.mapIdx (fun i h => (i, h))).foldl (fun c p => c.startMember o hs.length p.1 p.2) b)) ∧
        (bad ≠ [] → s.Becomes (exec (.opRun o d) s) (((bad.foldl (fun c h => c.bump (kHth h 3)) b).endClaims o.port o.ring hs).complete o stFormat 0))) ∧
  (∀ (s : State) (o : Origin) (d : Desc) (data : List Byte), s.Starts o 3 { d with lend := true } [] →
    let b := s.core.begun o 3 { d with lend := true } []
    let n := leNat data
    let tenant := b.originTenant o
    let ring := 2 * tenant + 1
    let die := spGet 0 b.tt.lendNext ring
    let post : LendPost := { origin := o, irq := d.irq, record := n }
    let posts := (kvGet b.tt.lend (die * 4 + ring)).getD [] ++ [post]
    (s.core.twoTenant = false → s.Becomes (exec (.opRunLend o d) s) (b.complete o stFormat 0)) ∧
    (s.core.twoTenant = true → d.aHost = true → s.Becomes (exec (.opRunLend o d) s) (b.hostAsked (.desc o) o.port (.lend o { d with lend := true }) d.a 64)) ∧
    (s.core.twoTenant = true → d.aHost = false → b.Reads { actor := .desc o, tenant := tenant, key := d.ka, keyed := false } [(d.a, 64)] data →
      (lendBad n = true → s.Becomes (exec (.opRunLend o d) s) (b.complete o stFormat 0)) ∧
      (lendBad n = false → (∀ h ∈ b.mgt.logical, b.hearthTenant h = tenant ∨ b.lending h = false) → s.Becomes (exec (.opRunLend o d) s) (b.complete o stUnitAbsent 0)) ∧
      (lendBad n = false → (∃ h ∈ b.mgt.logical, b.hearthTenant h ≠ tenant ∧ b.lending h = true) →
      s.Becomes (exec (.opRunLend o d) s)
        (({ b with tt := { b.tt with lend := kvPut b.tt.lend (die * 4 + ring) posts, lendNext := kvPut b.tt.lendNext ring (1 - die) } } : Core).bump (kTtPosted die ring)))))

/-- OP_COPY moves A's bytes to B and OP_FILL writes its pattern to B; both complete once everything they wrote is visible, OP_COPY's stores to another device
going on BULK and OP_FILL's on REQ (R399, R434, Tables 14-3 and 15-6). That all of A is read before B is written is the model's choice (entry 41). -/
def Obligations.CopyAndFillWriteTheirTarget : Prop :=
  (∀ (s : State) (o : Origin) (d : Desc) (data : List Byte), s.Starts o 4 d [] →
    let b := (s.core.begun o 4 d []).modStarted o (fun t => { t with total := d.l })
    let fin := fun (c : Core) => (c.modStarted o (fun t => { t with done := d.l })).descDone o stOk
    (d.aHost = true → s.Becomes (exec (.opCopy o d) s) (b.hostAsked (.desc o) o.port (.copy o d) d.a d.l)) ∧
    (d.aHost = false → b.Reads { actor := .desc o, tenant := b.originTenant o, key := d.ka } [(d.a, d.l)] data →
      (d.bHost = true → s.Becomes (exec (.opCopy o d) s) (fin (b.hostWrite o.port d.b data))) ∧
      (d.bHost = false → ∀ c, (storeTo (b.descWho o d.kb) vcBulk d.b data).run b = .ok () c → s.Becomes (exec (.opCopy o d) s) (fin c)))) ∧
  (∀ (s : State) (o : Origin) (d : Desc), s.Starts o 5 d [] →
    let b := (s.core.begun o 5 d []).modStarted o (fun t => { t with total := d.l })
    let data := (List.replicate (d.l / 8) (leBytes 8 d.p)).flatten
    let fin := fun (c : Core) => (c.modStarted o (fun t => { t with done := d.l })).descDone o stOk
    (d.bHost = true → s.Becomes (exec (.opFill o d) s) (fin (b.hostWrite o.port d.b data))) ∧
      (d.bHost = false → ∀ c, (storeTo (b.descWho o d.kb) vcReq d.b data).run b = .ok () c → s.Becomes (exec (.opFill o d) s) (fin c)))

/-- OP_SIGNAL adds its count to each Tally it names, or with the op SUB subtracts it, and completes; a signal to another device goes out and the descriptor
waits for its delivery (R309, R311, R313, R434). OP_ROLL arrives at its context with the 64 bytes at A; a duplicate completes with ST_ROLL_DUPLICATE
(R325). -/
def Obligations.HostSignalsAndRollsArrive : Prop :=
  (∀ (s : State) (o : Origin) (d : Desc) (i : Instr) (e : Desc), (i, e) ∈ [(.opSignal o d, d), (.opSignalSub o d, { d with p := d.p % 2 ^ 56 + 3 <<< 56 })] →
    s.Starts o 6 e [] →
    let b := s.core.begun o 6 e []
    let n := e.p % 2 ^ 32
    let idx := bits e.p 47 32
    let scope := bits e.p 49 48
    let sub := bits e.p 63 56 == 3
    (∀ units, (scope = 2 → descSigDevice e s.core = none ∧ s.core.tallyOwned (s.core.originTenant o) idx = true ∧ units = [0]) →
      (scope ≠ 2 → ∃ hs, s.core.targets (s.core.originTenant o) e.path = some hs ∧ units = (if scope = 0 then hs else smithiesOf hs)) → units.Nodup →
      (sub = true → s.Becomes (exec i s) ((units.foldl (fun c u => c.subTally scope u idx n) b).complete o stOk 0)) ∧
      (sub = false → (∀ u ∈ units, (s.core.tally scope u idx).overSet = false ∧ (s.core.tally scope u idx).value + n ≤ 0xFFFFFFFF) →
        s.Becomes (exec i s)
          ((units.foldl (fun c u => c.setTally scope u idx { c.tally scope u idx with value := (c.tally scope u idx).value + n }) b).complete o stOk 0))) ∧
    (∀ dev c, scope = 2 → descSigDevice e s.core = some dev → (n ≠ 0 ∨ sub = true) →
      let t : Txn := { op := opSignalTx, dst := dev, addr := globalAddr dev (0x500060000000 + 8 * idx), len := 8, opndA := n + (if sub then 3 else 1) <<< 32 }
      (sendRequest { b.descWho o 0 with keyed := false } .signal t vcSync []).run b = .ok () c →
      s.Becomes (exec i s) (c.descDone o stOk))) ∧
  (∀ (s : State) (o : Origin) (d : Desc) (data : List Byte), s.Starts o 7 d [] →
    let b := s.core.begun o 7 d []
    let ctx := d.p % 2 ^ 8
    (d.aHost = true → s.Becomes (exec (.opRoll o d) s) (b.hostAsked (.desc o) o.port (.roll o d) d.a 64)) ∧
    (d.aHost = false → (s.core.twoTenant = true → s.core.ctxTenant ctx = s.core.originTenant o) →
      b.Reads { actor := .desc o, tenant := b.originTenant o, key := d.ka, keyed := false } [(d.a, 64)] data →
      ∀ dup c, (rollArrive ctx (.host o) (bits d.p 9 8) (if bit d.p 10 then some (bits d.p 23 16) else none) data (descRollBack d)).run b = .ok dup c →
        s.Becomes (exec (.opRoll o d) s) (if dup then c.complete o stRollDuplicate 0 else c)))

/-- The four batch records: a FORWARD waits for its acceptance, a BACKWARD joins its batch with the next acceptance number, a RELEASE and a CANCEL become
enders of theirs, a CANCEL drops its untaken items and its pulls; then every batch moves on (R193 to R195, R222, R224, R252). A record in the host's memory
is asked for. A FORWARD at a Bellows with nothing else to do is accepted at once, under the next epoch, with the plan in force (R221, R226); one that
repeats a live batch's triple, or any record that R195 refuses, completes with ST_FORMAT. -/
def Obligations.BatchRecordsAreTakenIn : Prop :=
  ∀ (s : State) (o : Origin) (d : Desc) (i : Instr) (data : List Byte),
    i ∈ [Instr.forwardBatch o d, Instr.backwardBatch o d, Instr.releaseBatch o d, Instr.cancelBatch o d] → s.Starts o 8 d [] → s.core.dram.errors = [] →
    let b := s.core.begun o 8 d []
    (d.aHost = true → s.Becomes (exec i s) (b.hostAsked (.desc o) o.port (.bellows o d) d.a 64)) ∧ (d.aHost = false →
    let n := leNat (data.take 64)
    let r := batchRecOf n
    let w : Backward := { record := n, recHost := false, recAddr := d.a, acc := b.bellows.acceptClock, origin := o }
    b.Reads { actor := .desc o, tenant := b.originTenant o, keyed := false } [(d.a, 64)] data →
    (b.recordRefused (b.originTenant o) r = true ∨ (r.kind = 1 ∧ b.repeats r = true) ∨ (r.kind = 2 ∧ b.backwardRefused r = true) →
      s.Becomes (exec i s) (b.complete o stFormat 0)) ∧
    (b.recordRefused (b.originTenant o) r = false → (r.kind = 1 → b.repeats r = false) → (r.kind = 2 → b.backwardRefused r = false) →
      b.targets (b.originTenant o) r.workerPath = none → s.Becomes (exec i s) ((b.bump kAbsentUnit).complete o stUnitAbsent 0)) ∧
    (b.recordRefused (b.originTenant o) r = false → (b.targets (b.originTenant o) r.workerPath).isSome = true →
    (∀ k m, r.kind = 1 → b.bellows.batches = [] → b.bellows.waitingRecords = [] → b.bellows.intake = [] → b.bellows.stalled = [] → b.bellows.guests = [] →
      b.bellows.standbyRev = 0 → b.layerNow r.layer = some (r.step, k, m) →
      let e := if b.bellows.lastEpoch = 65535 then 1 else b.bellows.lastEpoch + 1
      let y : Batch := { epoch := e, acc := b.bellows.acceptClock, record := n, recHost := false, recAddr := d.a, origin := o, tenant := b.originTenant o,
                         revision := b.bellows.activeRev, bank := b.bellows.activeBank }
      let steps := (r.layer, (r.step, k + 1, m)) :: b.bellows.layerStep.filter (fun p => p.1 != r.layer)
      s.Becomes (exec i s) (b.modBellows (fun x =>
        { x with batches := [y], lastEpoch := e, acceptClock := x.acceptClock + 1, lastStep := some r.step, layerStep := steps }))) ∧
    (r.kind = 1 → b.repeats r = false → ∀ c,
      bellowsPump.run (b.modBellows (fun x => { x with waitingRecords := x.waitingRecords ++ [(o, false, d.a, n)] })) = .ok () c → s.Becomes (exec i s) c) ∧
    (r.kind = 2 → b.backwardRefused r = false → ∀ c,
      bellowsPump.run ((b.modBellows (fun x => { x with acceptClock := x.acceptClock + 1 })).modBatch r.target (fun y => { y with bwd := some w })) = .ok () c →
      s.Becomes (exec i s) c) ∧
    (r.kind = 3 → ∀ c, bellowsPump.run (b.modBatch r.target (fun y => { y with enders := y.enders ++ [(o, false)] })) = .ok () c → s.Becomes (exec i s) c) ∧
    (r.kind = 4 → ∀ c,
      bellowsPump.run (((b.dropItems r.target).modBatch r.target (fun y => { y with enders := y.enders ++ [(o, true)], cancelled := true })).dropPulls r.target) = .ok () c →
      s.Becomes (exec i s) c)))

/-- OP_CRUCIBLE_STEP takes its step record in; OP_SEAT writes a newer plan into the standby bank with its revision and effective step, or refuses it (R203,
R300). A record or plan in the host's memory is asked for. A step record of a device with no shard and no part begins round 1 and arrives at its drain Roll
call; one not above an earlier one completes with ST_FORMAT. That a refused record's step counts as an earlier one is the model's choice (entry 70). -/
def Obligations.StepRecordAndPlanAreTakenIn : Prop :=
  (∀ (s : State) (o : Origin) (d : Desc), s.Starts o 9 d [] → d.aHost = true → s.Becomes (exec (.opCrucibleStep o d) s)
    ((s.core.begun o 9 d []).hostAsked (.desc o) o.port (.crucible o d) d.a 64)) ∧
  (∀ (s : State) (o : Origin) (d : Desc), s.Starts o 11 d [] → d.aHost = true → s.Becomes (exec (.opSeat o d) s)
    (((s.core.begun o 11 d []).modStarted o (fun t => { t with total := d.l })).hostAsked (.desc o) o.port (.seat o d) d.a d.l)) ∧
  (∀ (s : State) (o : Origin) (d : Desc) (data : List Byte), s.Starts o 9 d [] → d.aHost = false →
    let b := s.core.begun o 9 d []
    b.Reads { actor := .desc o, tenant := b.originTenant o, keyed := false } [(d.a, 64)] data →
    (∀ c, (acceptStep o data).run b = .ok () c → s.Becomes (exec (.opCrucibleStep o d) s) c) ∧
    (let n := leNat data
     let r := stepRecOf n
     r.rsvOk = true → r.ownedCount = 0 → r.rowset = 0 → (∀ last, b.crucible.lastRun = some last → last < r.step) → f32V r.limit ≠ .nan → (f32V r.limit).lt .zero = false →
      f32V r.clip ≠ .nan → (f32V r.clip).lt .zero = false → (∀ a ∈ b.crucible.announced, a.step ≠ r.step) → (∀ p ∈ b.crucible.imaged, p.2 ≠ r.step) →
      b.crucible.leafIn = [] → b.crucible.stageHeld = [] → s.core.dram.errors = [] →
      ∀ c, (cruArrive r.drainCtx .crucible 0 (List.replicate 64 0#8)).run (b.modCru (fun x =>
        { x with phase := .round 1, record := n, origin := some o, lastRun := some r.step, acc := [], unfenced := 0 })) = .ok () c →
        s.Becomes (exec (.opCrucibleStep o d) s) c) ∧
    (∀ last, b.crucible.lastRun = some last → (stepRecOf (leNat data)).step ≤ last →
      s.Becomes (exec (.opCrucibleStep o d) s) ((b.modCru (fun x => { x with lastRun := some last })).complete o stFormat 0))) ∧
  (∀ (s : State) (o : Origin) (d : Desc) (data : List Byte), s.Starts o 11 d [] → d.aHost = false →
    let b := (s.core.begun o 11 d []).modStarted o (fun t => { t with total := d.l })
    let h := leNat (data.take 12)
    let rev := bits h 31 0
    let eff := bits h 63 32
    let n := bits h 95 64
    let fits := 64 + n ≤ data.length ∧ b.bellows.activeRev < rev ∧ (∀ last, b.bellows.lastStep = some last → last < eff) ∧ n ≤ b.inForce rPlanBankBytes
    b.Reads { actor := .desc o, tenant := b.originTenant o, keyed := false } [(d.a, d.l)] data →
    (¬ fits → s.Becomes (exec (.opSeat o d) s) (b.complete o stFormat 0)) ∧
    (fits → ∀ c, (blockPut (b.planBank (1 - b.bellows.activeBank)) ((data.drop 64).take n)).run b = .ok () c →
      s.Becomes (exec (.opSeat o d) s)
        (((c.modBellows (fun x => { x with standbyRev := rev, effectiveStep := eff })).modStarted o (fun t => { t with done := t.total })).complete o stOk 0)))

/-- SNAPSHOT_TAKE and SNAPSHOT_RESTORE: a record in the host's memory is asked for. A TAKE that is too early or not above the committed step completes with
ST_FORMAT, as does a RESTORE of a device that has not restarted; one that finds the engine at work waits for it. Else a TAKE of the Crucible's last
completed step arrives at ctx1 with its step and its complement and takes back the commit flag of the area it will write, and a RESTORE arrives there with
the turn of its highest committed area (contexts of device or job scope). SNAPSHOT_DRAIN_TIMEOUT ends a drain: the engine arrives at ctx2 as one that
failed, is idle again, and the fault is a SNAPSHOT fault with ST_TIMEOUT (R457 to R461, Table 16-6). That a record waits for the engine, and that such an
arrival is one that failed before the fault, are the model's choice (entries 81, 128). -/
def Obligations.SnapshotsBeginOrAreRefused : Prop :=
  (∀ (s : State) (o : Origin) (d : Desc) (i : Instr), i ∈ [Instr.snapshotTake o d, Instr.snapshotRestore o d] → s.Starts o 10 d [] → d.aHost = true →
    s.Becomes (exec i s) ((s.core.begun o 10 d []).hostAsked (.desc o) o.port (.snapshot o d) d.a 64)) ∧
  (∀ (s : State) (o : Origin) (d : Desc) (i : Instr) (data : List Byte), i ∈ [Instr.snapshotTake o d, Instr.snapshotRestore o d] → s.Starts o 10 d [] → d.aHost = false →
    let b := s.core.begun o 10 d []
    let r := snapRecOf (leNat data)
    b.Reads { actor := .desc o, tenant := b.originTenant o, keyed := false } [(d.a, 64)] data →
    (r.ok = false → s.Becomes (exec i s) (b.complete o stFormat 0)) ∧
    (r.ok = true → b.snap.phase ≠ 0 → s.Becomes (exec i s) (b.modSnap (fun x => { x with waiting := x.waiting ++ [(o, d.a, data)] }))) ∧
    (b.snap.phase = 0 →
    (r.ok = true → r.restore = true → b.mgt.jobState ≠ .restarted → s.Becomes (exec i s) (b.complete o stFormat 0)) ∧
    (r.ok = true → r.restore = false → b.crucible.lastDone ≠ some r.step → ∀ l, (committedAreas r).run b = .ok l b → s.Becomes (exec i s) (b.complete o stFormat 0)) ∧
    (r.ok = true → r.restore = false → b.crucible.lastDone = some r.step → b.snap.cardStep ≤ r.step + 1 → (committedAreas r).run b = .ok [] b →
      let taking := fun (x : Snap) =>
        { x with phase := 1, restore := false, record := leNat data, recAddr := d.a, origin := some o, area := r.areaA, turn := 1, step := r.step }
      ∀ c old e, (snapArrive r.ctx1 (withComplement r.step)).run (b.modSnap taking) = .ok () c →
        (readArea r r.areaA).run c = .ok old c → (writeArea r { old with committed := false }).run c = .ok () e → s.Becomes (exec i s) e) ∧
    (r.ok = true → r.restore = true → b.mgt.jobState = .restarted → ∀ l c, (committedAreas r).run b = .ok l b →
      (snapArrive r.ctx1 (match l with | h :: _ => List.replicate h.turn 0#8 ++ [1#8] | [] => [])).run (b.modSnap (fun x =>
        { x with phase := 1, restore := true, record := leNat data, recAddr := d.a, origin := some o })) = .ok () c → s.Becomes (exec i s) c))) ∧
  (∀ (s : State) (o : Origin) (d : Desc) (data : List Byte) (ksA ksB : List Nat), s.Starts o 10 d [] → d.aHost = false → s.core.dram.errors = [] → s.core.snap.phase = 0 →
    let b := s.core.begun o 10 d []
    let r := snapRecOf (leNat data)
    b.Reads { actor := .desc o, tenant := b.originTenant o, keyed := false } [(d.a, 64)] data → r.ok = true →
    b.AreaOpen r.key r.areaA ksA → b.AreaOpen r.key r.areaB ksB → b.SnapJoins (b.originTenant o) r.ctx1 →
    (r.restore = false → b.crucible.lastDone = some r.step → b.snap.cardStep ≤ r.step + 1 → (∀ h ∈ b.committed r, h.step < r.step) →
      let p := b.nextArea r
      ∃ t, exec (.snapshotTake o d) s = .next t ∧
        t.core.snap = { b.snap with phase := 1, restore := false, record := leNat data, recAddr := d.a, origin := some o, area := p.1, turn := p.2, step := r.step } ∧
        (t.core.rollCtx r.ctx1).arrived = (b.rollCtx r.ctx1).arrived ++ [(.snapshot, snapPayload (withComplement r.step), 0)] ∧
        (t.core.rollCtx r.ctx1).gen = (b.rollCtx r.ctx1).gen ∧ t.core.areaHead p.1 = { b.areaHead p.1 with committed := false } ∧
        (∀ k, k ∉ (if p.1 = r.areaA then ksA else ksB) → memGet zeroByte t.core.stacked k = memGet zeroByte b.stacked k) ∧
        (∀ k, k ≠ kMem 2 → t.core.counter k = b.counter k) ∧ b.SnapFrame r.ctx1 t.core ∧ t = { s with core := t.core }) ∧
    (r.restore = true → b.mgt.jobState = .restarted →
      let turn : List Byte := match b.committed r with | h :: _ => List.replicate h.turn 0#8 ++ [1#8] | [] => []
      ∃ t, exec (.snapshotRestore o d) s = .next t ∧
        t.core.snap = { b.snap with phase := 1, restore := true, record := leNat data, recAddr := d.a, origin := some o } ∧
        (t.core.rollCtx r.ctx1).arrived = (b.rollCtx r.ctx1).arrived ++ [(.snapshot, snapPayload turn, 0)] ∧
        (t.core.rollCtx r.ctx1).gen = (b.rollCtx r.ctx1).gen ∧ t.core.stacked = b.stacked ∧ (∀ k, t.core.counter k = b.counter k) ∧
        b.SnapFrame r.ctx1 t.core ∧ t = { s with core := t.core })) ∧
  (∀ (s : State), s.core.halted = false →
    (s.core.snap.phase = 2 →
      let g : FaultReq :=
        { cls := clsSnapshot, status := stTimeout, unit := s.core.snapRec.ctx1, detail := b2n s.core.snap.restore, addr := s.core.snap.recAddr }
      let c := s.core.snapFailed.modSnap (fun x => { x with phase := 0, origin := none })
      s.Becomes (exec .snapshotDrainTimeout s) (match s.core.snap.origin with | some o => c.raiseFor o g | none => c.raise g) ∧
      (s.core.route.gen1 = [] → s.core.dram.errors = [] → ∃ t, exec .snapshotDrainTimeout s = .next t ∧ t.core.snap = { s.core.snap with phase := 0, origin := none } ∧
        (t.core.mgt.faultLog.getLast?).map (fun r => r.req) = some g ∧
        (s.core.mgt.active = true → s.core.mgt.jobState = .running → t.core.mgt.jobState = .quiesced ∨ t.core.mgt.jobState = .resetting))) ∧
    (s.core.snap.phase ≠ 2 → s.Becomes (exec .snapshotDrainTimeout s) s.core))

/-! The Bellows (chapters 7 and 9). -/

/-- ROUTER_RECORD: a record of no live batch waits in the intake, and a full intake holds its sender; a first record of a token adds its pairs to its batch,
and one of a token that has come is discarded and counted (R198, R199). A record of a unit's store that the full intake has no place for is kept back, and
with it every later one of that store's unit (entry 73). TIMETABLE_POST posts the item that waits on a ring to the dies in turn and counts it, or at a full
ring counts once that it waits; INTAKE_TIMEOUT of a batch that has begun and not sealed is a DISPATCH fault with ST_TIMEOUT (R200, R217). -/
def Obligations.RoutedRowsBecomeItems : Prop :=
  (∀ (s : State) (record : Nat), s.core.halted = false →
    let tok := bits record 31 0
    let k := bits record 99 96
    let free := ∀ x ∈ s.core.bellows.stalled, x.1 ≠ .block ∨ x.2.1 ≠ 9
    let pairs : List Pair := (List.range k).map (fun i =>
      { token := tok, slot := i, expert := bits record (143 + 16 * i) (128 + 16 * i), weight := bits record (287 + 32 * i) (256 + 32 * i) })
    (s.core.recordBatch record = none → 65536 ≤ s.core.bellows.intake.length → s.Becomes (exec (.routerRecord record) s) s.core) ∧
    (s.core.recordBatch record = none → s.core.bellows.intake.length < 65536 →
      let c := s.core.modBellows (fun x => { x with intake := x.intake ++ [record] })
      free → c.BellowsAtRest → s.Becomes (exec (.routerRecord record) s) c) ∧
    (∀ b, s.core.recordBatch record = some b → s.core.batch b.epoch = some b → tok < b.rec'.tokenCount → tok ∉ b.arrived → k ≤ 8 → bits record 127 100 = 0 →
      (∀ p ∈ pairs, p.expert < (s.core.layer b.rec'.layer).experts) → b.arrived.length + 1 ≠ b.rec'.tokenCount →
      let c := s.core.modBatch b.epoch (fun b => { b with firstSeen := true, arrived := tok :: b.arrived, pairs := b.pairs ++ pairs })
      free → c.BellowsAtRest → s.Becomes (exec (.routerRecord record) s) c) ∧
    (∀ b, s.core.recordBatch record = some b → s.core.batch b.epoch = some b → tok < b.rec'.tokenCount → tok ∈ b.arrived → (b.arrived.length ≠ b.rec'.tokenCount ∨ b.sealed = true) →
      let c := (s.core.modBatch b.epoch (fun b => { b.note stFormat with discarded := b.discarded + 1, firstSeen := true })).bump (kBlw 5)
      free → c.BellowsAtRest → s.Becomes (exec (.routerRecord record) s) c) ∧
    (∀ (c : Core) (a : Actor) (slot : Nat), (c.recordBatch record = none ∧ 65536 ≤ c.bellows.intake.length ∨ ∃ x ∈ c.bellows.stalled, x.1 = a ∧ x.2.1 = slot) →
      (intakeRecord a slot record).run c = .ok () (c.modBellows (fun x => { x with stalled := x.stalled ++ [(a, slot, record)] })))) ∧
  (∀ (s : State) (ring : Nat) (i : Item), s.core.halted = false → kvGet s.core.tt.waiting ring = some [i] →
    let k := spGet 0 s.core.tt.posted (seqKey i.epoch i.backward ring)
    let key := k % 2 * 4 + ring
    let q := (kvGet s.core.tt.rings key).getD []
    (q.length < 16384 →
      let tt : Timetable := { s.core.tt with waiting := kvDel s.core.tt.waiting ring, fullSeen := s.core.tt.fullSeen.filter (· != ring),
                                             rings := kvPut s.core.tt.rings key (q ++ [i]), posted := kvPut s.core.tt.posted (seqKey i.epoch i.backward ring) (k + 1) }
      let c := ({ s.core with tt := tt } : Core).bump (kTtPosted (k % 2) ring)
      c.BellowsAtRest → s.Becomes (exec (.timetablePost ring) s) c) ∧
    (16384 ≤ q.length →
      let c : Core := if ring ∈ s.core.tt.fullSeen then s.core else { s.core.bump (kBlw 6) with tt := { s.core.tt with fullSeen := ring :: s.core.tt.fullSeen } }
      c.BellowsAtRest → s.Becomes (exec (.timetablePost ring) s) c)) ∧
  (∀ (s : State) (epoch : Nat) (b : Batch), s.core.halted = false → s.core.batch epoch = some b →
    (b.firstSeen = true ∧ b.sealed = false ∧ b.cancelled = false → s.Becomes (exec (.intakeTimeout epoch) s)
      (s.core.raise { cls := clsDispatch, status := stTimeout, unit := b.rec'.layer, detail := 1, addr := b.recAddr, step := b.rec'.step, who := b.origins })) ∧
    (¬ (b.firstSeen = true ∧ b.sealed = false ∧ b.cancelled = false) → s.Becomes (exec (.intakeTimeout epoch) s) s.core))

/-- PULL_REQUEST opens a merge window or joins an open one, and is answered ST_ROLE_STALE where it was made under another plan; MERGE_WINDOW_CLOSE ends the
window, which is served once the Crucible has finished the step before (R205, R211). That the refusal is a DONE that names PULL is the model's choice
(entry 65). GRANULE: a granule goes on to the requesters below this device in its broadcast tree, and lands in every slot of this device that its window's
requests name; one that a cancelled prefetch had asked for, or for no Lodge slot of a live batch, is Slag; another one lands at its place in the slot, and
the pull's request ends with the last (R210 to R212, R220, R224, R332). That a granule names its window's requesters is the model's choice (entry 27), and
so is the count of those that a cancelled prefetch had coming (entry 136). -/
def Obligations.PullsFillTheLodge : Prop :=
  (∀ (s : State) (w : Head) (f : PullF), s.Arrives w vcReq (.pullRequest w f) →
    let a := s.accept w vcReq 0
    let same := fun (x : MergeWindow) => x.layer == f.layer && x.expert == f.expert && x.step == f.step && !x.closing
    s.core.halted = false →
    (f.revision ≠ s.core.bellows.activeRev →
      a.Becomes (exec (.pullRequest w f) s) ((a.core.bump (kBlw 4)).answerFrame f.requester f.epoch opPull stRoleStale)) ∧
    (f.revision = s.core.bellows.activeRev → s.core.bellows.windows.any same = true → a.Becomes (exec (.pullRequest w f) s)
      ((a.core.modBellows (fun x => { x with windows := modFirst same (fun y => { y with requests := y.requests ++ [f] }) x.windows })).bump (kBlw 7))) ∧
    (f.revision = s.core.bellows.activeRev → s.core.bellows.windows.any same = false → a.Becomes (exec (.pullRequest w f) s)
      (a.core.modBellows (fun x => { x with windows := x.windows ++ [{ layer := f.layer, expert := f.expert, step := f.step, requests := [f] }] })))) ∧
  (∀ (s : State) (layer expert step : Nat) (c : Core), s.core.halted = false →
    let same := fun (w : MergeWindow) => w.layer == layer && w.expert == expert && w.step == step && !w.closing
    serveReady.run (s.core.modBellows (fun x => { x with windows := modFirst same (fun w => { w with closing := true }) x.windows })) = .ok () c →
    c.BellowsAtRest → s.Becomes (exec (.mergeWindowClose layer expert step) s) c) ∧
  (∀ (s : State) (w : Head) (f : GranuleF) (b : Core), s.core.halted = false → s.Arrives w vcBulk (.granule w f) →
    let a := s.accept w vcBulk f.data.length
    (match (f.members.map (fun m => m.1)).find? s.core.isSelf with
      | some me => (sendGranule f.layer f.holder me f.index f.members f.data).run a.core = .ok () b
      | none => b = a.core) →
    (∀ c, ((b.granuleSlots f).forM (fun x => landSlot f x.1 x.2)).run b = .ok () c → c.BellowsAtRest → a.Becomes (exec (.granule w f) s) c) ∧
    (∀ slot epoch, (slot, epoch) ∈ b.granuleSlots f ↔ (slot, epoch) = (f.slot, f.epoch) ∨ ∃ m ∈ f.members, b.isSelf m.1 = true ∧ m.2 = (slot, epoch)) ∧
    (∀ (c : Core) (slot epoch : Nat),
      let l := c.layer f.layer
      let live := ∃ x, c.batch epoch = some x ∧ x.cancelled = false
      let mine := fun (x : LodgeSlot) => x.layer == f.layer && x.slot == slot && x.epoch == epoch && decide (x.state < 3)
      let gone := fun (v : Voided) => v.layer == f.layer && v.slot == slot && v.epoch == epoch && v.holder == f.holder
      (c.bellows.voided.any gone = true → (landSlot f slot epoch).run c = .ok () ((c.modBellows (fun x =>
        { x with voided := (modFirst gone (fun v => { v with left := v.left - 1 }) x.voided).filter (fun v => v.left != 0) })).bump (kBlw 0))) ∧
      (c.bellows.voided.any gone = false → (¬ live ∨ c.bellows.lodge.find? mine = none) → (landSlot f slot epoch).run c = .ok () (c.bump (kBlw 0))) ∧
      (∀ x d, c.bellows.voided.any gone = false → live → c.bellows.lodge.find? mine = some x → f.index ∉ x.got →
        (blockPut (l.lodgeBase + slot * l.slotBytes + f.index * 4096) (f.data.take 4096)).run c = .ok () d →
        let e := d.modLodge f.layer slot (fun y => LodgeSlot.settled l { y with got := f.index :: x.got })
        let req := fun (q : OutReq) => q.dst == f.holder && q.pullsInto x
        (landSlot f slot epoch).run c = .ok () { e with fabric := { e.fabric with
          out := if l.granules ≤ x.got.length + 1 then dropFirst req e.fabric.out else modFirst req (fun q => { q with resends := 0 }) e.fabric.out } })))

/-- TOKEN: a row pushed under another plan is answered ST_ROLE_STALE; else it takes the lowest free guest row, for which it waits in its receive buffer, and
its origin is told. A gradient row goes behind its guest, and one of no guest is Slag (R205, R213, R224, R256). That the origin is told by a DONE which
names the row's op is the model's choice (entries 65 and 71). ANSWER: for a batch that is not live or has been cancelled it is Slag; else it lands at its
return row, its holder's timer restarts, and the last one signals the batch's answer Tally. PROGRESS restarts the timer too, and PROGRESS_TIMER sends one
for guests that lack answers (R214, R224, R257, R419). How a holder's timer restarts is the model's choice (entry 72). -/
def Obligations.TokensAndAnswersTakeTheirRows : Prop :=
  (∀ (s : State) (w : Head) (f : TokenF), s.core.halted = false → s.Arrives w vcReq (.token w f) →
    let a := s.accept w vcReq f.data.length
    let l := a.core.layer f.layer
    (f.revision ≠ s.core.bellows.activeRev →
      let c := (a.core.bump (kBlw 4)).answerFrame f.origin f.epoch (rowOp f.backward) stRoleStale
      c.BellowsAtRest → a.Becomes (exec (.token w f) s) c) ∧
    (∀ row c, f.revision = s.core.bellows.activeRev → f.backward = false → a.core.guestRow f.layer = some row → s.core.guestBatch f.layer f.step f.microBatch = none →
      (blockPut (l.guestAt row) (f.data.take l.tokenBytes)).run a.core = .ok () c →
      let g : Guest := { layer := f.layer, row := row, step := f.step, microBatch := f.microBatch, expert := f.expert, origin := f.origin, epoch := f.epoch,
                         returnRow := f.returnRow, arrival := s.core.bellows.arrivalClock }
      let d := (c.modBellows (fun x => { x with guests := x.guests ++ [g], arrivalClock := x.arrivalClock + 1 })).answerFrame f.origin f.epoch (rowOp false) stOk
      d.BellowsAtRest → a.Becomes (exec (.token w f) s) d) ∧
    (f.revision = s.core.bellows.activeRev → f.backward = true →
      let b := a.core.answerFrame f.origin f.epoch (rowOp true) stOk
      (b.gradGuest f = none → (b.bump (kBlw 0)).BellowsAtRest → a.Becomes (exec (.token w f) s) (b.bump (kBlw 0))) ∧
      (∀ g c, b.gradGuest f = some g → (blockPut ((b.layer f.layer).guestAt g.row + (b.layer f.layer).tokenBytes) (f.data.take (b.layer f.layer).answerBytes)).run b = .ok () c →
        b.guestBatch g.layer g.step g.microBatch = none →
        let d := c.modGuest g.layer g.row (fun x => { x with haveGrad := true, weight := f.weight })
        d.BellowsAtRest → a.Becomes (exec (.token w f) s) d))) ∧
  (∀ (s : State) (w : Head) (f : AnswerF), s.core.halted = false → s.Arrives w vcRsp (.answer w f) →
    let a := s.accept w vcRsp f.data.length
    (s.core.batch f.epoch = none ∨ (∃ b, s.core.batch f.epoch = some b ∧ (b.cancelled = true ∨ f.backward = true ∧ b.bwd = none)) →
      (a.core.bump (kBlw 0)).BellowsAtRest → a.Becomes (exec (.answer w f) s) (a.core.bump (kBlw 0))) ∧
    (∀ b, s.core.batch f.epoch = some b → b.cancelled = false →
      let l := a.core.layer b.rec'.layer
      let heard := fun (c : Core) => (c.hear f.holder f.epoch).modBatch f.epoch (fun y => { y with sent := spPut 0 b.sent f.holder (spGet 0 b.sent f.holder - 1) })
      let ends := fun (d : Core) (answers tally : Nat) (o : Origin) =>
        (answers + 1 ≠ b.pushed → d.BellowsAtRest → a.Becomes (exec (.answer w f) s) d) ∧
        (answers + 1 = b.pushed → ∀ e g, (signalAs (a.core.originTenant o) tally 1).run d = .ok () e → bellowsPump.run e = .ok () g → a.Becomes (exec (.answer w f) s) g)
      (∀ c, f.backward = false → (blockPut (b.rec'.outBase + f.returnRow * l.answerBytes) (f.data.take l.answerBytes)).run a.core = .ok () c →
        ends ((heard c).modBatch f.epoch (fun y => { y with answers := y.answers + 1, answerSignalled := y.answerSignalled || decide (b.answers + 1 = b.pushed) }))
          b.answers b.rec'.answerTally b.origin) ∧
      (∀ v c, f.backward = true → b.bwd = some v → (blockPut (v.rec'.gradOut + f.returnRow * l.tokenBytes) (f.data.take l.tokenBytes)).run a.core = .ok () c →
        ends ((heard c).modBackward f.epoch (fun y => { y with answers := y.answers + 1, answerSignalled := y.answerSignalled || decide (v.answers + 1 = b.pushed) }))
          v.answers v.rec'.answerTally v.origin))) ∧
  (∀ (s : State) (w : Head) (holder epoch : Nat), s.core.halted = false → s.Arrives w vcRsp (.progress w holder epoch) →
    let a := s.accept w vcRsp 0
    a.Becomes (exec (.progress w holder epoch) s) (if (s.core.batch epoch).isSome then a.core.hear holder epoch else a.core)) ∧
  (∀ (s : State) (origin epoch : Nat), s.core.halted = false →
    let owes := ∃ g ∈ s.core.bellows.guests, g.origin = origin ∧ g.epoch = epoch ∧ (g.answered = false ∨ (g.haveGrad = true ∧ g.answeredBwd = false))
    (owes → s.Becomes (exec (.progressTimer origin epoch) s) (s.core.sendOrFault (packTxn { op := opProgress, dst := origin } (place epoch 16 0)) vcRsp [])) ∧
      (¬ owes → s.Becomes (exec (.progressTimer origin epoch) s) s.core))

/-! The Crucible (chapter 10) and Roll calls (chapter 11). -/

/-- ANNOUNCE adds its tiles to its tenant's part of its matrix; a part with more tiles than the matrix has is an OPTIMISER fault, and a lent Hearth's announce
ends its item (R279, R308). CONTRIB takes in a chunk whose turn has come or for which its sender's share of the staging has room, and tells its sender;
another one waits and is counted. An owner's copy goes on down the broadcast tree. GATHER_GRANULE with a no-change marker finishes its matrix for the step,
and one with bytes lands in the copy. The last of an image is a fault where the step's record is here and does not list the matrix's group; an image of a
step to come is kept for its record (R283, R285, R286, R305, R306, R332). The notice to the sender (entry 71), the turn and the share of the staging
(entries 121, 123) and the step that an image is held to (entry 70) are the model's choice. -/
def Obligations.CrucibleInputsAreKept : Prop :=
  (∀ (s : State) (g : Agent) (record : Nat) (m : MatrixEnt), s.core.halted = false → s.core.agentFree g →
    let b := leBytes 128 record
    let n := leNat (b.take 64)
    let id := bits n 19 0
    let step := bits n 63 32
    let part := bits n 79 64
    let tiles := bits n 111 80
    let t := tdescOf (leNat (b.drop 64))
    (readMatrix id).run s.core = .ok m s.core → bits n 31 20 = 0 → bits n 511 112 = 0 → m.sparse = false → s.core.descOk t = true → t.present = true →
    t.ext0 = m.cols → t.ext1 = m.rows → t.ext2 = 1 → t.ext3 = 1 → (∀ last, s.core.crucible.lastRun = some last → step = last + 1 ∨ step = last + 2) →
    let same := fun (x : Announced) => x.matrix == id && x.step == step && x.part == part && x.tenant == (s.core.agentWho g).tenant
    let broken : FaultReq := { cls := clsOptimiser, status := stFormat, unit := m.shard % 2 ^ 16, detail := 1, addr := m.shard, step := step }
    (s.core.crucible.announced.find? same = none → tiles ≤ m.tiles → s.Becomes (exec (.announce g record) s) (s.core.modCru (fun x =>
      { x with announced := x.announced ++ [{ matrix := id, step := step, part := part, tiles := tiles, desc := b.drop 64, tenant := (s.core.agentWho g).tenant }] }))) ∧
    (∀ old, s.core.crucible.announced.find? same = some old → old.tiles + tiles ≤ m.tiles → s.Becomes (exec (.announce g record) s) (s.core.modCru (fun x =>
      { x with announced := modFirst same (fun y => { y with tiles := old.tiles + tiles }) x.announced }))) ∧
    (∀ old, s.core.crucible.announced.find? same = some old → m.tiles < old.tiles + tiles →
      (∀ h, g = .hearth h → s.Becomes (exec (.announce g record) s) (s.core.lessonFault h 1 broken)) ∧
      (∀ o, g = .host o → s.Becomes (exec (.announce g record) s) (s.core.raiseFor o broken)))) ∧
  (∀ (s : State) (h record : Nat), s.core.halted = false → s.core.tongsFree h 1 [] = true → (s.core.hearth h).lentRun.isSome = true →
    s.Becomes (exec (.announce (.hearth h) record) s) (s.core.endLent h stFormat)) ∧
  (∀ (s : State) (w : Head) (f : ContribF), s.core.halted = false → s.core.crucible.phase ≠ .owners → s.Arrives w vcBulk (.contrib w f) →
    let a := s.accept w vcBulk (s.core.contribLength f)
    let keep := fun (c : Core) => c.modCru (fun x => { x with inbox := x.inbox ++ [f] })
    (∀ e, f.owner = true → (forwardCopy f).run (keep a.core) = .ok () e → e.crucible = (keep a.core).crucible → a.Becomes (exec (.contrib w f) s) e) ∧
    (∀ turn staged, f.owner = false → (contribTurn f).run a.core = .ok turn a.core →
      ((s.core.crucible.inbox.filter (fun x => !x.owner && x.sender == f.sender)).filterM (fun (x : ContribF) => (do
        let t ← contribTurn x
        pure !t : OpM Bool))).run a.core = .ok staged a.core →
      let room := a.core.contribLength f + (staged.map a.core.contribLength).foldl (· + ·) 0 ≤ a.core.stageShare f.round
      (turn = true ∨ room → let c := (keep a.core).answerFrame f.sender f.round opContrib stOk
        ∀ d e, (admitHeld c.crucible.stageHeld.length).run c = .ok () d → roundCheck.run d = .ok () e → a.Becomes (exec (.contrib w f) s) e) ∧
      (turn = false → ¬ room → let c := (a.core.modCru (fun x => { x with stageHeld := x.stageHeld ++ [f] })).bump (kCru 4)
        ∀ e, roundCheck.run c = .ok () e → a.Becomes (exec (.contrib w f) s) e))) ∧
  (∀ (s : State) (w : Head) (f : GatherF) (m : MatrixEnt), s.core.halted = false → s.core.crucible.phase ≠ .gather → (∀ x ∈ s.core.bellows.windows, x.closing = false) →
    s.Arrives w vcBulk (.gatherGranule w f) →
    let a := s.accept w vcBulk f.data.length
    (readMatrix f.matrix).run a.core = .ok m a.core →
    (f.noChange = true → a.Becomes (exec (.gatherGranule w f) s) (a.core.modCru (fun x => { x with finished := kvPut x.finished f.matrix f.step }))) ∧
    (∀ c, f.noChange = false → (blockPut (m.copyBase + 4096 * f.index) (f.data.take 4096)).run a.core = .ok () c →
      let old := (kvGet s.core.crucible.landed f.matrix).getD []
      f.index ∉ old → c.crucible = s.core.crucible → c.bellows = s.core.bellows →
      let d := c.modCru (fun x => { x with landed := kvPut x.landed f.matrix (f.index :: old) })
      let whole := ceilDiv (m.imageBytes (a.core.rule m.rule).op) 4096 ≤ old.length + 1
      let listed := fun (b : Prop) => ∃ gs, gatherGroups.run d = .ok gs d ∧ ((∃ x ∈ gs, x.1 = m.group) ↔ b)
      let ended := fun (c : Core) => c.modCru (fun x => { x with finished := kvPut x.finished f.matrix f.step, landed := kvDel x.landed f.matrix })
      let begun := s.core.stepRec.step = f.step ∧ (s.core.crucible.phase ≠ .idle ∨ s.core.crucible.lastDone = some f.step)
      let ahead := ∀ last, s.core.crucible.lastRun = some last → last < f.step
      let goesOn := fun (g : Core) => ∀ e, (forwardGather f).run g = .ok () e → e.crucible = g.crucible → e.bellows = g.bellows → a.Becomes (exec (.gatherGranule w f) s) e
      (¬ whole → goesOn d) ∧
      (whole → begun → listed True → goesOn (ended d)) ∧
      (whole → begun → listed False → a.Becomes (exec (.gatherGranule w f) s) (d.raise
        { cls := clsOptimiser, status := stFormat, unit := m.shard % 2 ^ 16, detail := 8, addr := m.shard, step := f.step, who := s.core.crucible.origin.toList })) ∧
      (whole → ¬ begun → ahead → goesOn (ended (d.modCru (fun x => { x with imaged := x.imaged ++ [(f.matrix, f.step)] })))) ∧
      (whole → ¬ begun → ¬ ahead → goesOn (ended d))))

/-- ROLL_ARRIVAL_MSG: by the distance of its generation from the open one, a sender's arrival is counted, held for the next, a duplicate, or an overrun (R325,
R328); one for the other tenant's context is dropped and counted as a key refusal (the model's choice, entry 88). ROLL_RESULT_MSG from the parent is kept
and goes on to every child; ROLL_CALL_CLOSE opens the next generation and gives every local participant the result, which a waiting ROLL writes over its
payload; ROLL_CALL_TIMEOUT of an open generation is a SYNC fault (R324, R327, R329). -/
def Obligations.RollCallsGatherAndClose : Prop :=
  (∀ (s : State) (w : Head) (f : RollMsg) (l : List Nat) (me : Nat), s.core.halted = false → s.Arrives w vcSync (.rollArrivalMsg w f) →
    let a := s.accept w vcSync 64
    let r := a.core.ctxRec f.ctx
    let x := a.core.rollCtx f.ctx
    let dist := (f.gen + 256 - x.gen) % 256
    (a.core.rollForeign w.port f = true → a.Becomes (exec (.rollArrivalMsg w f) s) (a.core.bump kKeyRefused)) ∧
    (a.core.rollForeign w.port f = false → r.valid = true → f.red = r.reduction → (ctxSelf f.ctx r).run a.core = .ok (l, me) a.core → r.scope ≠ 0 → f.sender ∈ l →
    (dist = 0 → (∀ q ∈ x.remote, q.1 ≠ f.sender) → ∀ c,
      (rollAdvance f.ctx).run (a.core.setRollCtx f.ctx { x with remote := x.remote ++ [(f.sender, f.payload)] }) = .ok () c →
      a.Becomes (exec (.rollArrivalMsg w f) s) c) ∧
    (dist = 0 ∧ (∃ q ∈ x.remote, q.1 = f.sender) ∨ dist = 1 ∧ (∃ q ∈ x.remoteHeld, q.1 = f.sender) → a.Becomes (exec (.rollArrivalMsg w f) s) (a.core.bump (kSyn 2))) ∧
    (dist = 1 → (∀ q ∈ x.remoteHeld, q.1 ≠ f.sender) → a.Becomes (exec (.rollArrivalMsg w f) s)
      ((a.core.setRollCtx f.ctx { x with remoteHeld := x.remoteHeld ++ [(f.sender, f.payload)] }).bump (kSyn 1))) ∧
    (1 < dist → dist < 128 → a.Becomes (exec (.rollArrivalMsg w f) s)
      (a.core.raise { cls := clsSync, status := stRollOverrun, unit := f.ctx, detail := r.scope })) ∧
    (128 ≤ dist → a.Becomes (exec (.rollArrivalMsg w f) s) (a.core.bump (kSyn 2))))) ∧
  (∀ (s : State) (w : Head) (f : RollMsg) (l : List Nat) (me : Nat) (c : Core), s.core.halted = false → s.Arrives w vcSync (.rollResultMsg w f) →
    let a := s.accept w vcSync 64
    let r := a.core.ctxRec f.ctx
    let x := a.core.rollCtx f.ctx
    r.valid = true → (ctxSelf f.ctx r).run a.core = .ok (l, me) a.core → treeParent l me = some f.sender → f.gen = x.gen →
    ((treeChildren l me).forM (fun k => sendRoll 1 f.ctx f.gen r.reduction k f.payload)).run (a.core.setRollCtx f.ctx { x with result := some f.payload }) = .ok () c →
      a.Becomes (exec (.rollResultMsg w f) s) c) ∧
  (∀ (s : State) (ctx : Nat) (pay : List Byte) (c : Core), s.core.halted = false → s.core.dram.errors = [] → s.core.rollReady ctx = true →
    let x := s.core.rollCtx ctx
    let y : RollCtx := { gen := (x.gen + 1) % 256, counts := x.counts, arrived := x.held.map (fun h => (h.1, h.2.1, h.2.2.1)), remote := x.remoteHeld }
    x.result = some pay → (rollAdvance ctx).run ((s.core.setRollCtx ctx y).bump (kSyn 0)) = .ok () c →
      s.Becomes (exec (.rollCallClose ctx) s) (x.arrived.foldl (Core.rollDeliver pay) c)) ∧
  (∀ (c : Core) (h ctx p off : Nat) (pay own : List Byte), c.dram.errors = [] → (c.hearth h).yq = [.rolled ctx p] →
    Core.Same ((c.putScratch h off pay).modHearth h (fun x => { x with yq := [] })) (c.rollDeliver pay (.hearth h, own, off))) ∧
  (∀ (s : State) (ctx : Nat), s.core.halted = false →
    let who := (s.core.rollCtx ctx).arrived.flatMap (fun a => s.core.partyOrigins a.1)
    (s.core.rollOpen ctx = true → s.Becomes (exec (.rollCallTimeout ctx) s)
      (s.core.raise { cls := clsSync, status := stTimeout, unit := ctx, detail := (s.core.ctxRec ctx).scope, who := who })) ∧
    (s.core.rollOpen ctx = false → s.Becomes (exec (.rollCallTimeout ctx) s) s.core))

/-! The Tally window, the atomic page, the pools (chapters 11, 12 and 14). -/

/-- A store of a whole word to the Tally window signals or subtracts its Tally under its key; a load of it gives value and flags; a record at the atomic page
applies its atomic here and writes its reply; a lent item has no business there (R137, R315, R403, R411, R415). -/
def Obligations.HubPagesActOnTheirWords : Prop :=
  (∀ (s : State) (a : Agent) (i key word : Nat), s.core.halted = false → s.core.agentFree a → i < 65536 →
    let w := s.core.agentWho a
    let y := s.core.tally 2 0 i
    let n := word % 2 ^ 32
    s.core.keyCheck (0x500060000000 + 8 * i) 8 key .write w.tenant false = stOk → s.core.tallyOwned w.tenant i = true →
    (bits word 39 32 = 1 → y.overSet = false → y.value + n ≤ 0xFFFFFFFF →
      s.Becomes (exec (.tallyWindowStore a (8 * i) 8 key word) s) (s.core.setTally 2 0 i { y with value := y.value + n })) ∧
    (bits word 39 32 = 3 → s.Becomes (exec (.tallyWindowStore a (8 * i) 8 key word) s) (s.core.subTally 2 0 i n))) ∧
  (∀ (s : State) (h off key word dst : Nat), s.core.halted = false → (s.core.hearth h).lentRun.isSome = true →
    (s.core.tongsFree h 1 [] = true → s.Becomes (exec (.tallyWindowStore (.hearth h) off 8 key word) s) (s.core.endLent h stFormat)) ∧
      (s.core.tongsFree h 0 [{ off := dst, n := 8, write := true }] = true → s.Becomes (exec (.tallyWindowLoad h off 8 key dst) s) (s.core.endLent h stFormat))) ∧
  (∀ (s : State) (h i key dst : Nat), s.core.halted = false → s.core.tongsFree h 0 [{ off := dst, n := 8, write := true }] = true → s.core.Own h → s.core.dram.errors = [] → i < 65536 → dst + 8 ≤ 0x800000 →
    let y := s.core.tally 2 0 i
    s.core.keyCheck (0x500060000000 + 8 * i) 8 key .read (s.core.runTenant h) false = stOk → s.core.tallyOwned (s.core.runTenant h) i = true →
      s.Becomes (exec (.tallyWindowLoad h (8 * i) 8 key dst) s) (s.core.putScratch h dst (leBytes 8 (y.value + b2n y.overSet <<< 32 + b2n y.underSet <<< 33)))) ∧
  (∀ (s : State) (a : Agent) (off record v : Nat) (c d : Core), s.core.halted = false → s.core.agentFree a → off % 64 = 0 → record < 2 ^ 337 →
    let w := s.core.agentWho a
    let target := bits record 63 0
    let wide := bit record 100
    let reply := bits record 319 256
    bits record 127 101 = 0 → reply % 16 = 0 → (bit record 336 = true → s.core.tallyOwned w.tenant (bits record 335 320) = true) → target % atomicBytes wide = 0 →
    badGlobal target = false → s.core.isLocal target = true →
    (atomicLocal { w with key := bits record 95 64, keyed := true } target wide (bits record 99 96) (bits record 191 128) (bits record 255 192)).run s.core = .ok v c →
    (atomicReply { w with key := bits record 95 64, keyed := true } reply (bits record 335 320) (bit record 336) v stOk).run c = .ok () d → s.Becomes (exec (.atomicRecord a off record) s) d)

/-- POOL_REQUEST of an enabled set that is not ready waits; of a ready one it is granted from the smallest class that fits, and its reply written. POOL_FREE
returns a billet of its holder; of a set that is not ready it is a fault, as of a billet of another. POOL_SET_INIT_DONE makes a set ready with every billet
free (R353 to R357). The fault's class, unit and detail are the model's choice (entry 64). -/
def Obligations.PoolsGrantAndTakeBack : Prop :=
  (∀ (s : State) (tenant record : Nat), s.core.halted = false →
    let c : Core := { s.core with free := s.core.free + 1 }
    let p := bits record 99 96
    let req := bits record 109 104
    let x := s.core.poolSet p
    bits record 127 110 = 0 → bits record 103 100 = 0 → bits record 63 0 % 16 = 0 → s.core.poolForeign tenant req p = false →
    (s.core.twoTenant = true → requesterTenant req = tenant) → x.enabled = true →
    (x.ready = false → s.Becomes (exec (.poolRequest tenant record) s) (c.setPoolSet p { x with waiting := x.waiting ++ [(tenant, record)] })) ∧
    (x.ready = true → ∀ g d e, (poolGrant p req (bits record 95 64)).run c = .ok g d → (poolReply (bits record 63 0) g).run d = .ok () e →
      s.Becomes (exec (.poolRequest tenant record) s) e)) ∧
  (∀ (s : State) (tenant record p i j : Nat), s.core.halted = false →
    let c : Core := { s.core with free := s.core.free + 1 }
    let req := bits record 69 64
    let x := s.core.poolSet p
    let r := poolRecOf x.record
    bits record 127 70 = 0 → s.core.billetOf (bits record 63 0) = some (p, i, j) → s.core.poolForeign tenant req p = false → r.scratch = true →
    (x.ready = true → kvGet x.owners (4096 * i + j) = some req → s.Becomes (exec (.poolFree tenant record) s)
      ((c.setPoolSet p { x with owners := kvDel x.owners (4096 * i + j) }).setHeld req (s.core.held req - classSize true i / 2048))) ∧
    (x.ready = false ∨ kvGet x.owners (4096 * i + j) ≠ some req → s.Becomes (exec (.poolFree tenant record) s)
      (c.raise { cls := 1 + (Config.freeWord s.core.free).toNat % 11, status := stPointer, unit := 0xFFFF, addr := bits record 63 0 }))) ∧
  (∀ (s : State) (p : Nat), s.core.halted = false →
    let c : Core := { s.core with free := s.core.free + 1 }
    let x := s.core.poolSet p
    let r := poolRecOf x.record
    x.enabled = true → x.ready = false → x.waiting = [] →
    (r.scratch = true → s.Becomes (exec (.poolSetInitDone p) s) (c.setPoolSet p { x with ready := true, owners := [], heads := [] })) ∧
    (r.scratch = false → ∀ d, (r.live.forM (initClass p r)).run c = .ok () d → d.pools = s.core.pools →
      s.Becomes (exec (.poolSetInitDone p) s) (d.setPoolSet p { x with ready := true, owners := [], heads := r.live.map (fun i => (i, 0)) })))

/-! The fabric (chapter 14). -/

/-- Requests at their home: a load is judged as it arrives, and answered with its bytes, at once or behind the earlier requests of its source, or with the
status of its refusal; a store, signal or atomic that is next in its source's order is queued at the line unit, a duplicate store is answered again, one
ahead of a missing one is dropped; a refused access of memory that nothing backs, or of the pool request page, is a fault of the home too. A request for
another device is none of its business (R339, R355, R391, R400, R404, R407 to R413, R416). What a duplicate is answered with, that the home's own error
sends no answer, and that a SIGNAL's length is judged where a Tally window store made it, are the model's choice (entries 66, 84, 86, 127). LINE_UNIT_WRITE
serves the next request of its line: a store's part is written and its last part answered, a signal moves its Tally and one that adds to it is counted, an
atomic leaves its replay entry and is answered with the old value; a load that waited behind its source's writes is served with the last of them (R311,
R334, R407, R408, R411, R412, R416). That a signal to a Tally that is OVER is answered with ST_OK is the model's choice (entry 83). -/
def Obligations.HomeServesRequestsInOrder : Prop :=
  (∀ (s : State) (w : Head) (t : Txn), s.core.halted = false → s.core.isSelf t.dst = true → s.Arrives w vcReq (.loadRequest w t) →
    let a := s.accept w vcReq 0
    let t' := { t with op := opLoad }
    let c := a.core.acknowledge t'
    let behind := ∃ x ∈ c.fabric.lineWait, x.txn.src = t.src ∧ x.txn.op ≠ opSignalTx
    (∀ st, c.judge w.port t' .read true = .error st →
      a.Becomes (exec (.loadRequest w t) s) (((c.countRefusal st).respond t' opData vcRsp st 0 0 []).refusedFault t' st)) ∧
    (∀ p b d, ¬ behind → c.judge w.port t' .read true = .ok p → (readPlace p t.len).run c = .ok b d →
      a.Becomes (exec (.loadRequest w t) s) (d.respond t' opData vcRsp stOk 0 0 b)) ∧
    (∀ p, behind → c.judge w.port t' .read true = .ok p → a.Becomes (exec (.loadRequest w t) s)
      (c.queueLine { line := lineOfAddr t.addr, port := w.port, txn := t', off := t.addr % 2 ^ 48, data := [], last := true }))) ∧
  (∀ (s : State) (w : Head) (t : Txn) (data : List Byte), s.core.halted = false → s.core.isSelf t.dst = true →
    let vc := if t.copy then vcBulk else vcReq
    s.Arrives w vc (.storeRequest w t data) →
    let a := s.accept w vc data.length
    let t' := { t with op := opStore }
    let c := a.core.acknowledge t'
    (c.seqCase w.port t' = .ahead → a.Becomes (exec (.storeRequest w t data) s) c) ∧
    (c.seqCase w.port t' = .dup → a.Becomes (exec (.storeRequest w t data) s) (c.duplicate t')) ∧
    (c.seqCase w.port t' = .fresh → data.length = t.len → ∀ st, c.judge w.port t' .write true = .error st →
      a.Becomes (exec (.storeRequest w t data) s) (((((c.taken w.port t').countRefusal st).intakeRefused t').done t' st).refusedFault t' st)) ∧
    (c.seqCase w.port t' = .fresh → data.length = t.len → ∀ p, c.judge w.port t' .write true = .ok p →
      let parts := linePieces' p (t.addr % 2 ^ 48) data
      a.Becomes (exec (.storeRequest w t data) s) ((parts.mapIdx (fun i x => (i, x))).foldl (fun c (e : Nat × Nat × List Byte) =>
        c.queueLine { line := lineOfAddr e.2.1, port := w.port, txn := t', off := e.2.1, data := e.2.2, last := e.1 + 1 == parts.length }) (c.taken w.port t')))) ∧
  (∀ (s : State) (w : Head) (t : Txn), s.core.halted = false → s.core.isSelf t.dst = true → s.Arrives w vcReq (.atomicRequest w t) →
    let a := s.accept w vcReq 0
    let t' := { t with op := opAtomic }
    let c := a.core.acknowledge t'
    let on := bit (c.inForce rReplayBase) 0
    (c.seqCase w.port t' = .ahead → a.Becomes (exec (.atomicRequest w t) s) c) ∧
    (c.seqCase w.port t' = .dup → a.Becomes (exec (.atomicRequest w t) s) (if on then c.replayAtomic t' else c.answerAtomic t' stFormat)) ∧
    (c.seqCase w.port t' = .fresh → on = true → 1 ≤ t.aop → t.aop ≤ 9 → t.len = atomicBytes t.wide → t.addr % t.len = 0 →
      (∀ p, c.judge w.port t' .atomic true = .ok p → a.Becomes (exec (.atomicRequest w t) s)
        ((c.taken w.port t').queueLine { line := lineOfAddr t.addr, port := w.port, txn := t', off := t.addr % 2 ^ 48, data := [], last := true })) ∧
      (∀ st, c.judge w.port t' .atomic true = .error st → a.Becomes (exec (.atomicRequest w t) s) ((c.refuseAtomic w.port t' st).refusedFault t' st))) ∧
    (c.seqCase w.port t' = .fresh → on = false ∨ t.aop = 0 ∨ 9 < t.aop ∨ t.len ≠ atomicBytes t.wide ∨ t.addr % t.len ≠ 0 →
      a.Becomes (exec (.atomicRequest w t) s) (c.refuseAtomic w.port t' stFormat))) ∧
  (∀ (s : State) (w : Head) (t : Txn), s.core.halted = false → s.core.isSelf t.dst = true → s.Arrives w vcSync (.signalRequest w t) →
    let a := s.accept w vcSync 0
    let t' := { t with op := opSignalTx }
    let c := a.core
    let op := bits t.opndA 39 32
    let whole := badGlobal t.addr = false ∧ inTallyWindow (t.addr % 2 ^ 48) = true ∧ t.addr % 2 ^ 48 % 8 = 0 ∧ (t.window = true → t.len = 8) ∧ (op = 1 ∨ op = 3)
    (c.seqCase w.port t' = .ahead → a.Becomes (exec (.signalRequest w t) s) c) ∧
    (c.seqCase w.port t' = .dup → a.Becomes (exec (.signalRequest w t) s) (c.duplicate t')) ∧
    (c.seqCase w.port t' = .fresh → whole →
      (∀ p, c.judge w.port { t' with len := 8 } .write t.window = .ok p → a.Becomes (exec (.signalRequest w t) s)
        ((c.taken w.port t').queueLine { line := lineOfAddr t.addr, port := w.port, txn := t', off := t.addr % 2 ^ 48, data := [], last := true })) ∧
      (∀ st, c.judge w.port { t' with len := 8 } .write t.window = .error st → st ≠ stOk →
        a.Becomes (exec (.signalRequest w t) s) (((c.taken w.port t').countRefusal st).done t' st))) ∧
    (c.seqCase w.port t' = .fresh → ¬ whole → a.Becomes (exec (.signalRequest w t) s) ((c.taken w.port t').done t' stFormat))) ∧
  (∀ (s : State) (w : Head) (t : Txn) (data : List Byte), s.core.isSelf t.dst = false → exec (.loadRequest w t) s = .next s ∧ exec (.storeRequest w t data) s = .next s ∧
    exec (.atomicRequest w t) s = .next s ∧ exec (.signalRequest w t) s = .next s) ∧
  (∀ (s : State) (line : Nat) (w : LineWrite), s.core.halted = false → s.core.nextLine line = some w → s.core.dram.errors = [] →
    let alone := ∀ x ∈ s.core.fabric.lineWait, x.txn.op = opLoad → x.txn.src ≠ w.txn.src
    let c : Core := { s.core with fabric := { s.core.fabric with lineWait := dropFirst (fun x => x == w) s.core.fabric.lineWait,
                                                                 lineBusy := kvPut s.core.fabric.lineBusy line w.txn.src } }
    (w.txn.op = opStore → ∀ a d, s.core.place w.off w.data.length = .ok (.stacked a) → (writePlace (.stacked a) w.data).run c = .ok () d →
      (alone → s.Becomes (exec (.lineUnitWrite line) s) (if w.last then d.done w.txn stOk else d)) ∧
      (∀ l, w.last = true → (d.done w.txn stOk).fabric.lineWait = [l] → l.txn.op = opLoad → l.txn.src = w.txn.src →
        let e := d.done w.txn stOk
        s.Becomes (exec (.lineUnitWrite line) s) (({ e with fabric := { e.fabric with lineWait := [] } } : Core).serveLoad l.txn))) ∧
    (w.txn.op = opSignalTx → alone →
      let i := (w.txn.addr % 2 ^ 48 - 0x500060000000) / 8
      let n := w.txn.opndA % 2 ^ 32
      let y := s.core.tally 2 0 i
      (bits w.txn.opndA 39 32 = 3 → w.last = true → s.Becomes (exec (.lineUnitWrite line) s) ((c.subTally 2 0 i n).done w.txn stOk)) ∧
      (bits w.txn.opndA 39 32 = 1 → w.last = true → y.overSet = false → y.value + n ≤ 0xFFFFFFFF →
        s.Becomes (exec (.lineUnitWrite line) s) (((c.bump (kSyn 4)).setTally 2 0 i { y with value := y.value + n }).done w.txn stOk)) ∧
      (bits w.txn.opndA 39 32 = 1 → w.last = true → y.overSet = true → s.Becomes (exec (.lineUnitWrite line) s) (c.done w.txn stOk))) ∧
    (w.txn.op = opAtomic → alone → ∀ old d, (atomicPart (s.core.route.gen1.contains w.port) w.txn).run c = .ok old d →
      s.Becomes (exec (.lineUnitWrite line) s) (d.respond w.txn opResult vcRsp stOk 0 old [])))

/-- Responses at the source end the request of their tag: DATA with its bytes goes to its transfer, DONE delivers its write, RESULT answers its atomic; a
refused one fails it; one that comes after its request timed out is only counted, in a restart wave too. A DONE that tells of a stale row or pull, or of a
delivered row or contribution, is the Bellows's or the Crucible's (the model's choice, entries 65 and 71), and so is the old value of a refused atomic
(entry 127) (R205, R215, R321, R401, R409, R412, R420). Silence: FAB_RESEND_TIMER resends a destination's requests in order, each at most three times;
FAB_TIMEOUT counts a request as timed out, keeps it listed for a late response and fails it with ST_TIMEOUT; REPLAY_ENTRY_EVICT ends a replay entry's life;
a host read ends with its bytes, and a read of a lost host with ST_TIMEOUT (R412, R418, R420, R434, R437). Which descriptors complete when their access
times out in a job is the model's choice (entry 132). -/
def Obligations.RequestsEndByResponseOrSilence : Prop :=
  (∀ (s : State) (w : Head) (t : Txn) (data : List Byte) (r : OutReq), s.core.halted = false → s.Arrives w vcRsp (.dataResponse w t data) →
    let a := s.accept w vcRsp data.length
    s.core.requestOf t [opLoad] = some r →
    (r.late = true → a.Becomes (exec (.dataResponse w t data) s) ((a.core.dropReq r).bump kFabLate)) ∧
    (∀ id i, r.late = false → t.status = stOk → data.length = r.frame.txn.len → r.use = .piece id i →
      a.Becomes (exec (.dataResponse w t data) s) ((a.core.dropReq r).pieceCame id i data)) ∧
    (r.late = false → t.status ≠ stOk → t.status ≤ 0x13 → a.Becomes (exec (.dataResponse w t data) s) ((a.core.dropReq r).failReq r t.status 0 true))) ∧
  (∀ (s : State) (w : Head) (t : Txn), s.core.halted = false →
    let vc := s.core.doneChannel t
    s.Arrives w vc (.doneResponse w t) →
    let a := s.accept w vc 0
    let stale := t.status = stRoleStale ∧ (t.opndA = opPull ∨ t.opndA % 256 = opToken)
    (stale → s.core.batch t.tag = none → (∀ x ∈ s.core.fabric.out, x.use ≠ .pull t.tag) → a.Becomes (exec (.doneResponse w t) s) (a.core.bump (kBlw 4))) ∧
    (¬ stale →
    (∀ c, t.opndA = opContrib → contribDelivered.run a.core = .ok () c → a.Becomes (exec (.doneResponse w t) s) c) ∧
    (t.opndA % 256 = opToken → let c := a.core.rowDelivered t.tag (t.opndA != opToken)
      c.BellowsAtRest → a.Becomes (exec (.doneResponse w t) s) c) ∧
    (∀ r, t.opndA ≠ opContrib → t.opndA % 256 ≠ opToken → s.core.requestOf t [opStore, opSignalTx] = some r →
      (r.late = true → a.Becomes (exec (.doneResponse w t) s) ((a.core.dropReq r).bump kFabLate)) ∧
      (r.late = false → t.status = stOk → (∀ x ∈ s.core.fabric.out, x = r ∨ x.dst ≠ r.dst) →
        (∀ x ∈ (a.core.delivered r).fabric.out, x.dst ≠ r.dst) → a.Becomes (exec (.doneResponse w t) s) (a.core.delivered r))))) ∧
  (∀ (s : State) (w : Head) (t : Txn) (data : List Byte) (r : OutReq), s.core.halted = true → s.Arrives w vcRsp (.dataResponse w t data) → s.core.requestOf t [opLoad] = some r →
    let a := s.accept w vcRsp data.length
    a.Becomes (exec (.dataResponse w t data) s) (if r.late = true then (a.core.dropReq r).bump kFabLate else a.core)) ∧
  (∀ (c : Core) (x : OutReq), x.use = .store → x.actor = .block → c.delivered x = c.dropReq x) ∧
  (∀ (s : State) (w : Head) (t : Txn) (r : OutReq), s.core.halted = false → s.Arrives w vcRsp (.resultResponse w t) →
    let a := s.accept w vcRsp 0
    let d := a.core.dropReq r
    s.core.requestOf t [opAtomic] = some r →
    (r.late = true → a.Becomes (exec (.resultResponse w t) s) (d.bump kFabLate)) ∧
    (∀ reply done signal c e, r.late = false → t.status = stOk → r.use = .atomicPage reply done signal →
      (atomicReply r.replyWho reply done signal t.opndA stOk).run d = .ok () c → (releaseAtomics r.dst).run c = .ok () e → a.Becomes (exec (.resultResponse w t) s) e) ∧
    (∀ e, r.late = false → t.status ≠ stOk → t.status ≠ stIndeterminate → t.status ≤ 0x13 →
      (releaseAtomics r.dst).run (({ d with free := d.free + 1 } : Core).failReq r t.status (Config.freeWord d.free).toNat true) = .ok () e →
      a.Becomes (exec (.resultResponse w t) s) e)) ∧
  (∀ (s : State) (dst : Nat), s.core.halted = false → s.core.gen1To dst = false →
    s.Becomes (exec (.fabResendTimer dst) s)
      ((s.core.fabric.out.filter (fun r => r.dst == dst && !r.late && decide (r.resends < 3))).foldl (fun c r => c.resendOne r) s.core)) ∧
  (∀ (s : State) (dst tag : Nat) (r : OutReq), s.core.halted = false → s.core.gen1To dst = false →
    s.core.fabric.out.find? (fun r => r.dst == dst && r.tag == tag && !r.late) = some r →
      let c := s.core.bump kFabTimeouts
      let d : Core := { c with fabric := { c.fabric with out := modFirst (fun x => x == r) (fun x => { x with late := true }) c.fabric.out } }
      (∀ h, r.use = .store → r.actor = .hearth h → (s.core.hearth h).running = true →
        s.Becomes (exec (.fabTimeout dst tag) s) (d.lessonFault h 1 (r.fault stTimeout))) ∧
      (∀ o, r.use = .store → r.actor = .desc o → s.Becomes (exec (.fabTimeout dst tag) s) (d.raiseTimeout o (r.fault stTimeout))) ∧
      (r.use = .store → r.actor = .block → s.Becomes (exec (.fabTimeout dst tag) s) (d.raise (r.fault stTimeout)))) ∧
  (∀ (c : Core) (o : Origin) (f : FaultReq) (t : Started), ((c.raiseFor o f).ring o.port o.ring).started.find? (fun t => t.slot == o.slot) = some t → (t.opcode = 1 ∨ t.opcode = 4 ∨ t.opcode = 5) →
    c.raiseTimeout o f = (c.raiseFor o f).complete o f.status 0) ∧
  (∀ (s : State) (src seq : Nat), s.core.halted = false → s.Becomes (exec (.replayEntryEvict src seq) s)
    { s.core with fabric := { s.core.fabric with live := s.core.fabric.live.filter (fun e => e != (src, seq)) } }) ∧
  (∀ (s : State) (id q r slot a : Nat) (data : List Byte) (t : Transfer), s.core.halted = false → s.core.fabric.xfers.find? (fun t => t.id == id) = some t →
    t.host = some q → t.pieces = [(a, data.length)] → (s.core.port q).lost = false → t.cont = .fetchDesc q r slot →
    s.Becomes (exec (.hostReadCompletion id true data) s) (s.core.fetchedDesc ⟨q, r, slot⟩ (descOf (leNat data)).1 (descOf (leNat data)).2) ∧
      s.Becomes (exec (.hostReadCompletion id false data) s) ((s.core.modPort q (fun p => p.heard (crossings 64 data.length))).ringError q r)) ∧
  (∀ (s : State) (id q a : Nat) (o : Origin) (d : Desc) (card : List Byte) (t : Transfer), s.core.halted = false →
    s.core.fabric.xfers.find? (fun t => t.id == id) = some t → t.host = some q → t.actor = .desc o → t.cont = .card o d → t.pieces = [(a, card.length)] →
    t.got = [] →
    ((s.core.port q).lost = false → s.Becomes (exec (.hostReadCompletion id true card) s)
      ((((s.core.dropXfer id).targets (s.core.originTenant o) d.path).getD []).foldl (fun c h => c.modHearth h (fun x => { x with card0 := card }))
        ((s.core.modPort q (fun p => p.heard (crossings 64 card.length))).dropXfer id) |>.complete o stOk 0)) ∧
    ((s.core.port q).lost = true → s.Becomes (exec (.lostHostReadTimeout id) s) ((s.core.dropXfer id).complete o stTimeout 0)))

/-! Stacked memory (chapter 12) and links (chapter 13). -/

/-- No two addresses share a byte of a channel, and a backed address lies in an active channel (R338). -/
def Obligations.StackedAddressesAreDistinct : Prop :=
  ∀ (d : Dram) (a b k : Nat), d.active.Nodup → d.localSize ≤ 96 → d.key a = some k → k / channelBytes ∈ d.active ∧ (d.key b = some k → a = b)

/-- A refresh starts the interval of its layer, shorter while it is hot; the patrol moves on and scrubs a correctable word; a layer is hot above 85 °C until 83
°C, throttled from 95 °C until 92 °C, and at 97 °C a fault (R341, R343, R344). That the scrub passes over the spare rows too, and that a layer burns as its
reading crosses 97 °C, are the model's choice (entries 52, 53). -/
def Obligations.StackedMemoryLooksAfterItself : Prop :=
  (∀ (s : State) (ch : Nat), s.Becomes (exec (.refreshTick ch) s)
    { s.core with dram := { s.core.dram.ticked 1 with
      refreshes := kvPut s.core.dram.refreshes ch (if 8 * (ch / 32) + ch % 32 / 4 ∈ s.power.hot then 195 else 390) } }) ∧
  (∀ (s : State) (ch : Nat),
    let w := spGet 0 s.core.dram.patrol ch
    let word := (ch * channelBytes + 16 * w) / 16
    let next := if (3145728 + 63) * 128 ≤ w + 1 then 0 else w + 1
    let c : Core := { s.core with dram := { s.core.dram with patrol := kvPut s.core.dram.patrol ch next } }
    let d := if next = 0 then c.bump (kMem 0) else c
    (kvGet s.core.dram.errors word = none → s.Becomes (exec (.patrolScrubStep ch) s) d) ∧
    (16 * w < channelBytes → kvGet s.core.dram.errors word = some 1 → s.Becomes (exec (.patrolScrubStep ch) s)
      (({ d with dram := { d.dram with errors := kvDel d.dram.errors word } } : Core).watchWord (ch * channelBytes + 16 * w))) ∧
    (∀ e, 16 * w < channelBytes → s.core.dram.errors = [(word, e)] → e ≠ 1 → s.core.route.gen1 = [] → ∃ t, exec (.patrolScrubStep ch) s = .next t ∧
      (t.core.mgt.faultLog.getLast?).map (fun r => (r.req.cls, r.req.status, r.req.addr)) = some (clsStorage, stUncorrectable, 16 * w))) ∧
  (∀ (s : State) (die layer temp : Nat), s.power.mainOn = true →
    let n := 8 * die + layer
    let p := s.power
    let burns := spGet 0 p.layerTemp n < 97 ∧ 97 ≤ temp
    ∃ t, exec (.layerTemperature die layer temp) s = .next t ∧ kvGet t.power.layerTemp n = some temp ∧
      (n ∈ t.power.hot ↔ 85 < temp ∨ (n ∈ p.hot ∧ 83 < temp)) ∧ (n ∈ t.power.throttled ↔ 95 ≤ temp ∨ (n ∈ p.throttled ∧ 92 < temp)) ∧
      (∀ m, m ≠ n → kvGet t.power.layerTemp m = kvGet p.layerTemp m ∧ (m ∈ t.power.hot ↔ m ∈ p.hot) ∧ (m ∈ t.power.throttled ↔ m ∈ p.throttled)) ∧
      t.power = { p with layerTemp := t.power.layerTemp, hot := t.power.hot, throttled := t.power.throttled } ∧
      (¬ burns → (n ∈ p.throttled ∨ temp < 95) → t.core = s.core) ∧
      (burns → s.core.dram.errors = [] → s.core.route.gen1 = [] → (t.core.mgt.faultLog.getLast?).map (fun r => (r.req.cls, r.req.unit, r.req.detail)) = some (clsThermal, n, temp)))

/-- A transaction in its order on a port that is UP is accepted: its header is read, it is owed an acknowledgement and its units. It waits in its receive
buffer behind others of its channel and while its block has no room, as REQ and SYNC do while the line unit is full with writes that came over the port;
one out of order is discarded, and a device that a restart wave holds does no more than accept it (R375, R382, R385, Table 13-8). A header releases the
replay queue up to the acknowledged frame and returns credits; ACK_FRAME, NAK_FRAME, IDLE_FRAME and CREDIT_FRAME are headers, and a NAK sends the rest
again. ACK_TIMER acknowledges, and returns credits too; a frame sent is kept with its number and costs its units. A unit that has crossed leaves its edge
FIFO empty. A queue that replays frees nothing by a take, and its rewind takes again from the mark; a probe of an empty queue gives the idle item (R363,
R364, R374, R376, R385, R386, R417). That a unit's crossing leaves the FIFO empty, what a NAK carries, where FAR_RETRY counts, and what a device in a wave
takes off its links are the model's choice (entries 119, 117, 44, 89). FRAME_FORWARD holds a frame for another device for a port of its destination's
route, with one hop less; with no hop left, no route, or on a generation-1 port it is dropped; one for this device with a reserved op is a fault (R383,
R391 to R394, Table 14-3). -/
def Obligations.FramesMoveCreditsAndHops : Prop :=
  (∀ (l : Link) (r : Returns),
    let m := l.header r
    (∀ i, l.replay.findIdx? (fun e => e.seq == r.ack) = some i → i < l.sent → m.replay = l.replay.drop (i + 1) ∧ m.sent = l.sent - (i + 1)) ∧
    ((∀ i, l.replay.findIdx? (fun e => e.seq == r.ack) = some i → l.sent ≤ i) → m.replay = l.replay ∧ m.sent = l.sent) ∧
    (∀ k, spGet 0 m.credits k = spGet 0 l.credits k + (if k = r.creditVc then r.credit else 0)) ∧
    m = { l with replay := m.replay, sent := m.sent, credits := m.credits } ∧
    (∀ k, spGet 0 l.paid.owed k + (if k = l.owedNow.1 then l.owedNow.2 else 0) = spGet 0 l.owed k)) ∧
  (∀ (s : State) (w : Head) (vc n : Nat),
    let l := s.link w.port
    let frames := max 1 (if l.gen = 1 then (n + 2047) / 2048 else (n + 4095) / 4096)
    let units := (n + 63) / 64 + frames
    let m := (s.accept w vc n).link w.port
    spGet 0 m.owed vc = spGet 0 l.owed vc + units ∧ (∀ k, k ≠ vc → spGet 0 m.owed k = spGet 0 l.owed k) ∧
      m = { l.header w.toReturns with rxSeq := (l.rxSeq + frames) % 65536, ackOwed := true, discarding := false, owed := m.owed,
                                      inEdge := l.inEdge.pass linkBits units } ∧
      (∀ i, (s.hold w vc n i).link w.port = { m with owed := l.owed, rx := l.rx ++ [{ vc := vc, units := units, cmd := i }] }) ∧
      (∀ q, q ≠ w.port → (s.accept w vc n).link q = s.link q) ∧
      (s.accept w vc n).core = (if l.discarding = true then s.core.bump (kFarPort w.port 0) else s.core)) ∧
  (∀ (s : State) (i : Instr) (w : Head) (vc n : Nat), s.arrivalOf i = some (w, vc, n) →
    let l := s.link w.port
    (¬ (l.up = true ∧ w.seq = (l.rxSeq + 1) % 65536) → exec i s = .next s) ∧
    (l.inOrder w = true → (∃ h ∈ l.rx, h.vc = vc) ∨ s.frameReady w.port vc i = false → exec i s = .next (s.hold w vc n i)) ∧
    (s.Arrives w vc i → s.core.halted = true → (∀ f, i ≠ .frameForward w f) → (∀ x y z u, i ≠ .restartWave w x y z u) →
      (∀ t d, i ≠ .dataResponse w t d ∧ i ≠ .doneResponse w t ∧ i ≠ .resultResponse w t) → exec i s = .next (s.accept w vc n)) ∧
    (∀ h ∈ s.core.fabric.lineWait, h.txn.op ≠ opLoad → h.port = w.port → s.core.halted = false → vc = vcReq ∨ vc = vcSync →
      1024 ≤ (s.core.fabric.lineWait.filter (fun x => x.txn.op != opLoad)).length → s.frameReady w.port vc i = false)) ∧
  (∀ (s : State) (p : Nat),
    let l := s.link p
    let read := fun (r : Returns) => ({ l.header r with inEdge := l.inEdge.pass linkBits 1 } : Link)
    (l.up = true → (∀ r, (s.setLink p (read r)).Follows (exec (.ackFrame p r) s) ∧ (s.setLink p { read r with sent := 0 }).Follows (exec (.nakFrame p r) s)) ∧
      (∀ ack vc n, (s.setLink p (read { ack := ack, creditVc := vc, credit := n })).Follows (exec (.idleFrame p ack vc n) s)) ∧
      (∀ ack r, (s.setLink p (read { ack := ack, creditVc := r.creditVc, credit := r.credit })).Follows (exec (.creditFrame p ack r) s)) ∧
      (l.ackOwed = true → (s.setLink p { l.paid with ackOwed := false, outEdge := l.outEdge.pass linkBits 1,
                                                     wire := l.wire ++ [.ack l.rxSeq l.owedNow.1 l.owedNow.2] }).Follows (exec (.ackTimer p) s))) ∧
    (l.up = false → ∀ ack vc n r c, exec (.ackFrame p r) s = .next s ∧ exec (.nakFrame p r) s = .next s ∧ exec (.idleFrame p ack vc n) s = .next s ∧
      exec (.creditFrame p ack c) s = .next s) ∧
    (l.up = false ∨ l.ackOwed = false → exec (.ackTimer p) s = .next s)) ∧
  (∀ (s : State) (p vc i : Nat) (f : Frame), i ≠ p →
    let l := s.link p
    let k : Kept := { seq := (l.txSeq + 1) % 65536, creditVc := l.owedNow.1, credit := l.owedNow.2, frame := f }
    let m := (s.sendFrame p vc i f).link p
    m.txSeq = k.seq ∧ m.replay = l.replay ++ [k] ∧ m.sent = l.sent + 1 ∧ m.wire = l.wire ++ [.data k.seq l.rxSeq k.creditVc k.credit f] ∧
      spGet 0 m.credits vc = spGet 0 l.credits vc - ((f.data.length + 63) / 64 + 1) ∧ (∀ v, v ≠ vc → spGet 0 m.credits v = spGet 0 l.credits v)) ∧
  (∀ (e : EdgeFifo) (w n : Nat) (b : Bool), 0 < w → (e.pass w n).full w b = false ∧ (e.pass w n).empty b = true ∧ (e.pass w n).write = grayOn w e.write n) ∧
  (∀ (q : ItemQueue) (x : QueueItem),
    (q.take = none → q.probe = (idleItem, q)) ∧ (q.full = true → q.offer x = none) ∧
    (∀ y r, q.take = some (y, r) → r.items = q.items ∧ r.full = q.full ∧ r.rewind = q.rewind ∧ (r.release r.taken).items = q.items.drop (q.taken + 1))) ∧
  (∀ (s : State) (w : Head) (f : Frame), s.core.isSelf f.txn.dst = false →
    let a := s.accept w f.vc f.data.length
    let dropped : FaultReq := { cls := clsFabric, status := stFormat, unit := f.txn.dst, detail := f.txn.op, addr := f.txn.addr }
    let fits := s.Arrives w f.vc (.frameForward w f)
    (fits → (s.link w.port).gen = 1 → a.Becomes (exec (.frameForward w f) s) (a.core.bump (kFar 1))) ∧
    (fits → (s.link w.port).gen ≠ 1 → f.hops = 0 → a.Becomes (exec (.frameForward w f) s) ((a.core.bump (kFar 0)).raise dropped)) ∧
    (fits → (s.link w.port).gen ≠ 1 → f.hops ≠ 0 → s.core.outPort f.txn.src f.txn.dst = none → a.Becomes (exec (.frameForward w f) s) (a.core.raise dropped)) ∧
    (∀ q, (s.link w.port).gen ≠ 1 → f.hops ≠ 0 → s.core.outPort f.txn.src f.txn.dst = some q →
      (fits → q ∈ s.core.route.gen1 → a.Becomes (exec (.frameForward w f) s) (a.core.raise dropped)) ∧
      (q ∉ s.core.route.gen1 → s.transit w f = some (q, { f with hops := f.hops - 1 }) ∧
        ((s.link w.port).inOrder w = true → exec (.frameForward w f) s = .next (s.hold w f.vc f.data.length (.frameForward w f)))))) ∧
  (∀ (s : State) (w : Head) (f : Frame), s.core.isSelf f.txn.dst = true → s.core.halted = false →
    let a := s.accept w f.vc f.data.length
    (reservedOp f.txn.op = true → s.Arrives w f.vc (.frameForward w f) → a.Becomes (exec (.frameForward w f) s)
      (a.core.raise { cls := clsFabric, status := stFormat, unit := f.txn.dst, detail := f.txn.op, addr := f.txn.addr })) ∧
    (reservedOp f.txn.op = false → exec (.frameForward w f) s = .next s))

/-- A BAD_FRAME is answered with a NAK, counted once for each codeword that failed and charged once to each lane of them, or to the port; the ninth of a
window, a lane's error rate or the peer's LANE_SET retire lanes, which one LANE_SET says, and too few lanes or no signal take the port DOWN, a LINK fault
while a job runs. A lane's window counts its corrected symbols. On a port that is not UP they do nothing else. A frame as a port sends it is clean, and its
units come off the lanes in the order in which they went on (R372, R373, R382, R385, R388 to R390, Table 13-8). That a LANE_SET which nothing has followed
is still under way, and that LANE_RATE_WINDOW brings the corrected symbols, is the model's choice (entry 118). -/
def Obligations.BadFramesCostLanes : Prop :=
  (∀ (s : State) (p : Nat), (s.link p).up = true →
    let l := s.link p
    let downed := fun (c : Core) => if s.core.mgt.active = true then c.raise { cls := clsLink, status := stOk, unit := p, detail := posUp } else c
    let without := fun (m : Link) (c : Core) (gone : List Nat) (say : Bool) =>
      let keep := m.lanes.filter (fun i => !gone.contains i)
      let out := m.lanes.filter gone.contains
      let d := c.bumpBy (kFarPort p 1) out.length
      if out = [] then { s.setLink p m with core := c }
      else { s.setLink p { m with lanes := keep, retired := m.retired ++ out, sent := 0, wire := if say then m.sayLanes keep else m.wire, ackOwed := m.ackOwed && !say,
                                  position := if keep.length < minLanes p then posDown else posUp } with
             core := if keep.length < minLanes p then downed d else d }
    let bad : Link := { l with discarding := true, ackOwed := false, wire := l.wire ++ [.nak l.rxSeq] }
    (l.portRetries < 8 → (s.setLink p { bad with portRetries := l.portRetries + 1 }).Follows (exec (.badFrame p []) s)) ∧
    (8 ≤ l.portRetries → ({ s.setLink p { bad with portRetries := l.portRetries + 1, position := posDown } with core := downed s.core } : State).Follows
      (exec (.badFrame p []) s)) ∧
    (∀ lanes, lanes ≠ [] →
      let failed := lanes.foldl (fun (x : Link) i => { x with uncorrWindow := kvPut x.uncorrWindow i (spGet 0 x.uncorrWindow i + 1) }) bad
      let m := lanes.eraseDups.foldl (fun (x : Link) i => { x with laneRetries := kvPut x.laneRetries i (spGet 0 x.laneRetries i + 1) }) failed
      let c := lanes.foldl (fun c i => c.bump (kFecUncorr p i)) s.core
      (without m c (lanes.eraseDups.filter (fun i => decide (8 < spGet 0 m.laneRetries i))) true).Follows (exec (.badFrame p lanes) s)) ∧
    (∀ i v, let m : Link := { l with uncorrWindow := kvDel l.uncorrWindow i }
      let c := s.core.bumpBy (kFecCorr p i) v.corrected
      (16 * spGet 0 l.uncorrWindow i * 10 ^ 9 ≤ v.dataBits → ({ s.setLink p m with core := c } : State).Follows (exec (.laneRateWindow p i v) s)) ∧
      (v.dataBits < 16 * spGet 0 l.uncorrWindow i * 10 ^ 9 → (without m c [i] true).Follows (exec (.laneRateWindow p i v) s))) ∧
    (∀ (w : Head) lanes, w.port = p →
      (without (l.control w.toReturns) s.core (l.lanes.filter (fun i => !lanes.contains i)) false).Follows (exec (.laneSet w lanes) s)) ∧
    ({ s.setLink p { l with position := posDown } with core := downed s.core } : State).Follows (exec (.peerSignalLost p) s)) ∧
  (∀ (l : Link) (keep : List Nat), (∀ a x, .laneSet a x ∉ l.wire) → l.sayLanes keep = l.wire ++ [.laneSet l.rxSeq keep]) ∧
  (∀ (s : State) (p i : Nat) (w : Head) (lanes : List Nat) (v : LaneWindow), (s.link p).up = false → w.port = p → exec (.badFrame p lanes) s = .next s ∧
    exec (.laneRateWindow p i v) s = .next { s with core := s.core.bumpBy (kFecCorr p i) v.corrected } ∧ exec (.laneSet w lanes) s = .next s ∧ exec (.peerSignalLost p) s = .next s) ∧
  (∀ (w : WireFrame), (∀ seq a v n f, w = .data seq a v n f → f.data.length ≤ 4096) → headerClean (headerOf w) (payloadOf w) = true) ∧
  (∀ (lanes : List Nat) (units : List (List Byte)), lanes ≠ [] → lanes.Nodup → gathered lanes (fun i => onLane i (stripe lanes units)) units.length = units)

/-- Training: each position's outcome takes the port to the next one, or to its failure position; a CREDIT message takes it to UP with the peer's buffers as
credits; FAR_PORT_RETRAIN begins again on ports that are not UP (R376, R378 to R382, R384, R502). The order of VERSION's tests, and that a generation-1
peer's revision is not compared, are the model's choice (entry 46). -/
def Obligations.TrainingMovesThePosition : Prop :=
  (∀ (s : State) (p : Nat),
    let l := s.link p
    let pos := l.position
    let fails := fun (k : Nat) => (s.setLink p { l with position := k }).settle
    let kept := fun (ok : List Nat) => l.passed.filter ok.contains
    (pos = posOff → s.power.stage = 7 → s.power.waitFor = 0 → bit (s.core.reg rPortEnable) p = true →
      (s.setLink p (l.begin s.core p)).Follows (exec (.portTraining p .start) s)) ∧
    (pos = posDetect → (fails posFailDetect).Follows (exec (.portTraining p .noSignal) s)) ∧
    (pos = posDetect → p < 24 → (s.setLink p { l with position := posLock }).Follows (exec (.portTraining p .detected) s)) ∧
    (∀ ok, pos = posLock →
      (minLanes p ≤ (kept ok).length → (s.setLink p { l with passed := kept ok, position := posAlign }).Follows (exec (.portTraining p (.lanesReady ok)) s)) ∧
      ((kept ok).length < minLanes p → (fails (if p < 24 then posFailLock else posFailEqualise)).Follows (exec (.portTraining p (.lanesReady ok)) s))) ∧
    (∀ ok, pos = posAlign →
      (minLanes p ≤ (kept ok).length → (s.setLink p { l with passed := kept ok, position := posVersion, wire := l.wire ++ [.train (.version 1 (kept ok))] }).Follows
        (exec (.portTraining p (.aligned ok)) s)) ∧
      ((kept ok).length < minLanes p → (fails posFailAlign).Follows (exec (.portTraining p (.aligned ok)) s))) ∧
    (pos = posDetect → 24 ≤ p →
      (∀ g1, (s.setLink p { l with gen := 2, position := posLock }).Follows (exec (.basePage p g1 true) s)) ∧
      (l.allow1 = true → (s.setLink p { l with gen := 1, position := posLock }).Follows (exec (.basePage p true false) s)) ∧
      (∀ g1, g1 = false ∨ l.allow1 = false → (fails posFailVersion).Follows (exec (.basePage p g1 false) s))) ∧
    (∀ rev lanes, pos = posVersion →
      ((kept lanes).length < minLanes p → (fails posFailLanes).Follows (exec (.trainFrame p (.version rev lanes)) s)) ∧
      (minLanes p ≤ (kept lanes).length → l.gen = 2 → rev ≠ 1 → (fails posFailVersion).Follows (exec (.trainFrame p (.version rev lanes)) s)) ∧
      (minLanes p ≤ (kept lanes).length → l.gen = 2 → rev = 1 →
        (s.setLink p { l with passed := kept lanes, position := posIdentity, wire := l.wire ++ [.train (s.identity p)] }).Follows (exec (.trainFrame p (.version rev lanes)) s)) ∧
      (minLanes p ≤ (kept lanes).length → l.gen = 1 → 4095 < s.core.selfId → (fails posFailVersion).Follows (exec (.trainFrame p (.version rev lanes)) s)) ∧
      (minLanes p ≤ (kept lanes).length → l.gen = 1 → s.core.selfId ≤ 4095 →
        (s.setLink p { l with passed := kept lanes, position := posIdentity, wire := l.wire ++ [.train (s.identity p)] }).Follows (exec (.trainFrame p (.version rev lanes)) s))) ∧
    (∀ name q port dig, pos = posIdentity →
      (s.identityOk p name q port = true → (s.setLink p { l with peer := name, position := posCredit, wire := l.wire ++ [.train (.credit (bufferUnits p))] }).Follows
        (exec (.trainFrame p (.identity name q port dig)) s)) ∧
      (s.identityOk p name q port = false → (fails posFailIdentity).Follows (exec (.trainFrame p (.identity name q port dig)) s))) ∧
    (∀ units, pos = posCredit → minLanes p ≤ l.passed.length → ∃ t, exec (.trainFrame p (.credit units)) s = .next t ∧ (t.link p).up = true ∧
      (t.link p).lanes = l.passed ∧ (∀ i n, units[i]? = some n → spGet 0 (t.link p).credits i = n) ∧ (t.link p).txSeq = 0 ∧ (t.link p).rxSeq = 0 ∧
      (t.link p).replay = [] ∧ (∀ q, q ≠ p → t.link q = s.link q) ∧ t.core = s.core) ∧
    (posDetect ≤ pos → pos ≤ posCredit → (fails posFailTimeout).Follows (exec (.trainingTimeout p) s)) ∧
    (¬ (posDetect ≤ pos ∧ pos ≤ posCredit) → s.Follows (exec (.trainingTimeout p) s))) ∧
  (∀ (s : State) (via v : Nat), (s.core.port via).trained = true → s.core.mayWrite via rPortRetrain = true → s.core.mgt.active = false → 7 ≤ s.power.stage →
    s.power.stage ≠ 15 → s.power.waitFor ≠ 3 → ∃ t, exec (.farPortRetrain via v) s = .next t ∧
      (∀ p, t.link p = if p < 32 ∧ bit v p = true ∧ bit (s.core.reg rPortEnable) p = true ∧ (s.link p).up = false then (s.link p).begin s.core p else s.link p) ∧
      t = ({ s.heard via with links := t.links } : State).settle)

/-! Faults, the restart wave, power, management (chapters 16 and 17). -/

/-- A failed operation stops its Hearth and leaves the last fault record, in the place of the one 64 before it; with a job running the device quiesces, and its
own wave may already have begun its reset (R128, R446, R447, R449, R452). -/
def Obligations.FaultStopsTheSequencer : Prop :=
  ∀ (c : Core) (h slot : Nat) (f : FaultReq), f.cls ≤ 11 →
    let d := c.lessonFault h slot f
    (∀ op, d.canIssue h op = false) ∧ (d.hearth h).running = false ∧ (d.hearth h).wbq = [] ∧ (d.hearth h).yq = [] ∧ (d.hearth h).waitq = [] ∧
      (∀ t ∈ d.fabric.xfers, t.actor ≠ .hearth h) ∧
      (c.dram.errors = [] → c.route.gen1 = [] →
        (d.mgt.faultLog.getLast?).map (fun r => (r.req.cls, r.req.status, r.seq)) = some (if f.cls = 0 then clsLesson else f.cls, f.status, c.mgt.faultHead) ∧
        d.mgt.faultHead = satAdd 32 c.mgt.faultHead 1 ∧ (∀ x ∈ d.mgt.faultLog, x.seq % 64 = c.mgt.faultHead % 64 → x.seq = c.mgt.faultHead) ∧
        ∀ x ∈ c.mgt.faultLog, x.seq % 64 ≠ c.mgt.faultHead % 64 → x ∈ d.mgt.faultLog) ∧
      (c.mgt.active = true → (c.mgt.jobState = .running ∨ c.mgt.jobState = .restarted) → d.halted = true)

/-- A wave below the current number is dropped; with no job it is recorded and sent on; else the device quiesces under its number, or sends on the later one
where it already has, or holds it until its warm reset ends and quiesces for it then, at once resetting again where it has been forwarded down.
WARM_RESET_END stops every Hearth, empties Tallies, pools, rings and hash lines, keeps stored memory and set-up registers, and restarts the job, or ends it
past the restart limit (R452 to R455). Which wave records are kept, that the restart past the limit counts, and what a reserved status counts as are the
model's choice (entries 48, 49, 96). -/
def Obligations.RestartWaveQuiescesAndResets : Prop :=
  (∀ (s : State) (w : Head) (number origin status sender : Nat),
    let i : Instr := .restartWave w number origin status sender
    s.Arrives w vcSync i →
    let a := s.accept w vcSync 0
    let m := s.core.mgt
    let st := knownStatus status
    let logged := a.core.logWave w.port number origin st
    (m.active = true → m.jobState ≠ .stopped → number < m.waveNum → a.Becomes (exec i s) a.core) ∧
    (m.active = true → (m.jobState = .running ∨ m.jobState = .restarted) → m.waveNum ≤ number → a.Becomes (exec i s) (logged.quiesce number origin st (some sender))) ∧
    (m.active = true → m.jobState = .quiesced → m.waveNum ≤ number →
      a.Becomes (exec i s) (({ logged with mgt := { logged.mgt with waveNum := number } } : Core).forwardWave number origin st (some sender))) ∧
    (m.active = true → m.jobState = .resetting → m.waveNum ≤ number →
      let later := decide (m.waveNum < number) && m.waveHeld.all (fun h => decide (h.1 < number))
      a.Becomes (exec i s) (({ logged with mgt := { logged.mgt with waveHeld := if later then some (number, origin, st) else m.waveHeld } } : Core).forwardWave
        number origin st (some sender))) ∧
    (m.active = false → a.Becomes (exec i s) (logged.forwardWave number origin st (some sender)))) ∧
  (∀ (c : Core) (number origin status : Nat) (sender : Option Nat), c.mgt.active = true →
    (c.quiesce number origin status sender).mgt.waveNum = number ∧ (c.quiesce number origin status sender).halted = true) ∧
  (∀ (s : State), s.core.mgt.active = true → s.core.mgt.jobState = .resetting → s.core.mgt.faultHeld = false → s.core.mgt.waveHeld = none →
    let m := s.core.mgt
    let past := m.overLimit = true ∨ s.core.reg rRestartLimit < m.restartCount + 1
    let stop := m.torn = true ∨ past
    ∃ t, exec .warmResetEnd s = .next t ∧ t = { s with core := t.core } ∧ t.core.stacked = s.core.stacked ∧ t.core.hub = s.core.clearedLines ∧ t.core.cfg = s.core.cfg ∧
      t.core.latched = s.core.latched ∧ (∀ h, t.core.hearth h = { storageFaults := (s.core.hearth h).storageFaults }) ∧ t.core.smithies = [] ∧ t.core.sync = {} ∧
      t.core.pools = {} ∧ t.core.hash = {} ∧ t.core.tt = {} ∧ t.core.snap = {} ∧ (∀ q r, (t.core.ring q r).enabled = false ∧ (t.core.ring q r).started = []) ∧
      t.core.mgt.waveNum = (m.waveNum + 1) % 65536 ∧ t.core.mgt.restartCount = satAdd 8 m.restartCount 1 ∧
      (stop → t.core.mgt.jobState = .stopped ∧ t.core.mgt.active = false) ∧ (¬ stop → t.core.mgt.jobState = .restarted ∧ t.core.mgt.active = true) ∧
      t.core.mgt.faultLog = m.faultLog ∧ t.core.mgt.snapLast = m.snapLast) ∧
  (∀ (s : State), s.core.mgt.active = true → s.core.mgt.jobState = .resetting → s.core.mgt.torn = false → s.core.mgt.overLimit = false →
    s.core.mgt.restartCount + 1 ≤ s.core.reg rRestartLimit →
    let m := s.core.mgt
    ∃ t, exec .warmResetEnd s = .next t ∧
      (∀ number origin st, m.waveHeld = some (number, origin, st) → (m.waveNum + 1) % 65536 ≤ number → t.core.halted = true ∧ t.core.mgt.waveNum = number ∧
        t.core.mgt.waveOrigin = origin ∧ (number ∈ m.waveDown → t.core.mgt.jobState = .resetting)) ∧
      (m.waveHeld = none → m.faultHeld = true → t.core.halted = true ∧ t.core.mgt.waveNum = (m.waveNum + 1) % 65536))

/-- REGULATOR_TICK: 25 mV down over 110 % of the cap, 5 mV down over the cap or at a limit temperature, 5 mV up where nothing is near a limit, else no change
(R472). The bound in FIXED mode, the times that a tick counts, the windows of the links and the measured rate are the model's choice (entries 54, 53, 45,
95). -/
def Obligations.RegulatorStepsTheSetpoint : Prop :=
  ∀ (s : State) (r : Readings), s.power.mainOn = true →
    let p := s.power
    let cap := min (1000 * p.cap) (64 * r.inputMv)
    let target := if p.fixed then p.coreSet else 900
    let hearth := s.core.mgt.logical.foldl (fun m h => max m (r.hearths.getD h 0)) 0
    let layer := r.layers.foldl max 0
    ∃ t, exec (.regulatorTick r) s = .next t ∧
      t.power.coreNow = (if 11 * cap < 10000 * r.avg10us then max 600 (p.coreNow - 25)
        else if cap < 1000 * r.avg1ms ∨ 100 ≤ hearth ∨ 90 ≤ layer then max 600 (p.coreNow - 5)
        else if 100000 * r.avg1ms < 98 * cap ∧ hearth < 98 ∧ layer < 88 ∧ p.coreNow < target then min 900 (min target (p.coreNow + 5))
        else p.coreNow) ∧
      t.power = { p with coreNow := t.power.coreNow, powerNow := r.avg1ms, inputMv := r.inputMv, beatRate := t.power.beatRate, rates := t.power.rates,
                         hearthTemp := r.hearths.mapIdx (fun i k => (i, k)), tick := (p.tick + 1) % 100 } ∧
      t.power.rates = (slowestRate t.power.coreNow r.beatRate hearth :: p.rates).take 10 ∧ t.power.beatRate = t.power.rates.foldl (· + ·) 0 / t.power.rates.length ∧
      t.core.mgt = { s.core.mgt with timeUs := s.core.mgt.timeUs + 10 } ∧ (∀ q, q < 2 → (t.core.port q).sinceBeat = (s.core.port q).sinceBeat + 10) ∧
      t.core = { s.core with mgt := t.core.mgt, ports := t.core.ports, counters := t.core.counters, dram := s.core.dram.ticked 1 } ∧ t.pending = s.pending ∧
      (∀ q, t.link q = if (p.tick + 1) % 100 = 0 then { s.link q with laneRetries := [], portRetries := 0 } else s.link q)

/-- Input loss and a thermal trip turn the device off; it starts at COLD_START and waits for ENABLE unless that is high, whose rise takes it, with a slot that
verifies, to the wait for a host port, and whose fall takes it back; a start that stopped keeps its fail code until ENABLE falls and rises; the first host
port that trains ends the wait (R471, R473, R476 to R480, R482, R484). The layout of an image's header, which slot is tried first, what a loss of power
keeps, and what a COLD_START does after a start that the input's loss stopped are the model's choice (entries 11, 58, 59, 134); the rows that fail the
memory test of a start which it begins are a free value (entry 149). -/
def Obligations.PowerEventsMoveTheStages : Prop :=
  (∀ (s : State), ∃ t, exec .inputCutoff s = .next t ∧ t.power.mainOn = false ∧ t.power.standbyOn = false ∧ t.power.thermTrip = false ∧ t.core.stacked = [] ∧
    t.core.hub = [] ∧ t.core.cfg = [] ∧ t.core.mgt.active = false ∧ t.power.flash = s.power.flash ∧ t.power.fusedMin = s.power.fusedMin ∧ t.core.part = s.core.part ∧
    (3 ≤ s.power.stage ∧ s.power.stage ≤ 7 → t.power.stage = 15 ∧ t.power.failCode = 5) ∧ (¬ (3 ≤ s.power.stage ∧ s.power.stage ≤ 7) → t.power.stage = 0)) ∧
  (∀ (s : State) (h : Nat), s.power.mainOn = true → ∃ t, exec (.thermalTrip h) s = .next t ∧ t.power.mainOn = false ∧ t.power.standbyOn = false ∧
    t.power.thermTrip = true ∧ t.power.flash.tripped = some h ∧ t.core.mgt.active = false ∧ t.core.mgt.faultLog = []) ∧
  (∀ (s : State), s.power.standbyOn = false →
    let found : BootFindings := { badRows := bootRows s.core.free, badHearths := [] }
    let up : State := { s with power := { s.power with standbyOn := true, stage := 2, waitFor := 1, failCode := 0 } }
    (s.power.thermTrip = false → s.power.stage ≠ 15 → exec .coldStart s = if s.power.enable = true
      then exec (.enableHigh found) { up with core := { s.core with free := s.core.free + 1 } } else .next up) ∧
    (s.power.thermTrip = false → s.power.stage = 15 → exec .coldStart s = .next { s with power := { s.power with standbyOn := true } }) ∧
    (s.power.thermTrip = true → exec .coldStart s = .next s)) ∧
  (∀ (s : State) (f : BootFindings), s.power.standbyOn = true → (s.power.stage = 2 ∨ s.power.stage = 15 ∧ s.power.enable = false) →
    (s.power.bootSlot = none → ∃ t, exec (.enableHigh f) s = .next t ∧ t.power.stage = 15 ∧ t.power.mainOn = false ∧
      t.power.failCode = (if slotSigned s.power.flash.slotA = true ∧ slotSigned s.power.flash.slotB = true then 2 else 1)) ∧
    (∀ b, s.power.bootSlot = some b → f.badRows = [] → s.core.dram.retiredChannels = [] → ∃ t, exec (.enableHigh f) s = .next t ∧ t.power.stage = 5 ∧ t.power.mainOn = true ∧
      t.power.bootedB = b ∧ t.power.enable = true ∧ t.core.stacked = [] ∧
      (∀ m, (if b then s.power.flash.slotB else s.power.flash.slotA).find? (fun i => i.kind == 1) = some m →
        kvGet t.power.meas 1 = some (sha512 (List.replicate 64 0#8 ++ sha512 (firmwareBytes m)))) ∧
      t.power.waitFor = (if (s.core.port 0).perst = true ∧ (s.core.port 1).perst = true then 2 else 0))) ∧
  (∀ (s : State), ∃ t, exec .enableLow s = .next t ∧ t.power.enable = false ∧
    (s.power.standbyOn = true → s.power.stage ≠ 2 → s.power.stage ≠ 15 → t.power.mainOn = false ∧ t.power.stage = 2 ∧ t.power.waitFor = 1 ∧ t.core.mgt.active = false) ∧
    (s.power.standbyOn = false ∨ s.power.stage = 2 ∨ s.power.stage = 15 → t = { s with power := { s.power with enable := false } })) ∧
  (∀ (s : State) (q : Nat), s.power.mainOn = true → (s.core.port q).perst = false → (s.core.port q).trained = false → ∀ mode f, f.badHearths = [] →
    (6 ≤ s.power.stage → s.Becomes (exec (.pcieLinkUp q mode f) s)
      (s.core.modPort q (fun x => { x with trained := true, gen := mode.gen, width := mode.width, sinceBeat := 0 }))) ∧
    (s.power.stage = 5 → (∃ h, h < 88 ∧ h ∉ s.core.part.fused ∧ h ∉ s.core.mgt.retiredHearths ∧ bit (s.core.reg rHearthDisable0 + s.core.reg rHearthDisable1 <<< 64) h = false) →
      ∃ t, exec (.pcieLinkUp q mode f) s = .next t ∧ t.power = { s.power with stage := 7, waitFor := 3 } ∧ (t.core.port q).trained = true ∧
        (∀ h, h ∈ t.core.mgt.logical ↔ h < 88 ∧ h ∉ s.core.part.fused ∧ h ∉ s.core.mgt.retiredHearths ∧
          bit (s.core.reg rHearthDisable0 + s.core.reg rHearthDisable1 <<< 64) h = false)))

/-- What the management block answers over MCTP while it has standby power: the id and the cap as registers, records, sensors and SPDM messages as replies, and
nothing without power (R478, R483, R486 to R488). The bytes that another standard lays out, and signatures, are the model's free values (entries 18, 12). -/
def Obligations.ManagementRepliesAreSent : Prop :=
  (∀ (s : State), s.power.standbyOn = true →
    let u : State := { s with power := s.power.heard 1 }
    let sent := fun (b : List Byte) (t : State) => ({ t with power := { t.power.says (crossings 16 b.length) with replies := s.power.replies ++ [b] } } : State)
    let drawn : State := { u with core := { s.core with free := s.core.free + 1 } }
    let free := fun (b : List Byte) => sent (Config.freeReply s.core.free b) drawn
    let signed := fun (b : List Byte) => sent (b ++ Config.freeSignature s.core.free b) drawn
    let meas := fun i => (kvGet s.power.meas i).getD (List.replicate 64 0#8)
    let refused := sent [0x12#8, 0x7F#8, 0x01#8, 0x00#8] u
    (∀ v, exec (.setPowerCap v) s = .next { u with power := { u.power with cap := max 1200 (min 2800 (v % 4096)) } }) ∧
    exec .getBootStatus s = .next (sent (leBytes 8 s.power.bootStatus) u) ∧ exec .getRetirement s = .next (free s.retirement) ∧
    exec .getEvents s = .next (free (s.power.flash.events.flatMap (leBytes 4))) ∧ (∀ b, exec (.mctpControl b) s = .next (free b)) ∧
    (∀ b, exec (.pldmSensor b) s = .next (free (b ++ s.power.sensors))) ∧
    (∀ i, exec (.pldmFirmwareUpdate i) s = .next { u with power := { u.power with flash := s.power.flash.update s.power.bootedB i } }) ∧
    exec .getVersion s = .next (free [0x84#8]) ∧ exec .getCapabilities s = .next (free [0xE1#8]) ∧ exec .getDigests s = .next (free [0x81#8]) ∧
    (∀ a h, bit a 6 = true → bit h 2 = true → exec (.negotiateAlgorithms a h) s = .next (free (leBytes 1 0xE3 ++ (leBytes 4 0x40 ++ leBytes 4 0x04)))) ∧
    (∀ a h, bit a 6 = false ∨ bit h 2 = false → exec (.negotiateAlgorithms a h) s = .next refused) ∧
    (∀ off len, exec (.getCertificate 0 off len) s = .next (sent (Config.freeReply s.core.free (leBytes 1 0x82 ++ leBytes 2 off ++ leBytes 2 len) ++
      (s.power.flash.config.drop off).take len) drawn)) ∧
    (∀ k off len, k ≠ 0 → exec (.getCertificate k off len) s = .next refused) ∧
    (∀ n, exec (.challenge 0 n) s = .next (signed (n ++ sha512 ((List.range 8).flatMap meas)))) ∧
    (∀ k n, k ≠ 0 → exec (.challenge k n) s = .next refused) ∧
    (∀ i b n, 1 ≤ i → i ≤ 8 → exec (.getMeasurements i b n) s = .next (signed (n ++ meas (i - 1)))) ∧
    (∀ i b n, i = 0 ∨ 8 < i → exec (.getMeasurements i b n) s = .next refused) ∧
    (∀ code, exec (.spdmUnsupported code) s = .next (sent [0x12#8, 0x7F#8, 0x07#8, BitVec.ofNat 8 code] u))) ∧
  (∀ (s : State) (i : Instr), s.power.standbyOn = false → (∃ v b a h k m f, i ∈ [Instr.setDeviceId v, .setPowerCap v, .getBootStatus, .getRetirement, .getEvents, .mctpControl b,
    .pldmSensor b, .pldmFirmwareUpdate f, .getVersion, .getCapabilities, .negotiateAlgorithms a h, .getDigests, .getCertificate k a h, .challenge k b, .getMeasurements k m b,
    .spdmUnsupported v]) → exec i s = .next s)

/-! Host ports and registers (chapters 15 and 18). -/

/-- Doorbells, interrupts and the loss of a port: SQ_TAIL announces descriptors or is a ring error, CQ_HEAD arms the interrupt again, an unmasked vector is
sent, a port whose link ends loses its rings, and a configuration request is answered or asked to retry (R427, R428, R435, R437, R479). When a heartbeat
times out, what a lost port's rings keep, how a configuration request is recorded and the units that cross to a port are the model's choice (entries 55,
56, 57, 119). -/
def Obligations.HostPortEventsAct : Prop :=
  (∀ (s : State) (q r v : Nat), (s.core.port q).trained = true →
    let b := s.core.modPort q (fun p => p.heard 1)
    let x := s.core.ring q r
    let n := s.core.ringEntries q r
    let w := v % n
    let total := (x.sqTail + n - x.fetchHead) % n + (w + n - x.sqTail) % n
    (s.core.fetches q r = true → n ≤ total → s.Becomes (exec (.sqTail q r v) s) (b.ringError q r)) ∧
    (s.core.halted = false → s.core.fetches q r = true → total < n → x.fetchHead ≠ w → (∀ t ∈ s.core.fabric.xfers, isFetch q r t = false) →
      let t : Transfer := { id := s.core.fabric.nextXfer, actor := .block, cont := .fetchDesc q r x.fetchHead, host := some q,
                            pieces := [(s.core.reg (rRing q r 0) + 64 * x.fetchHead, 64)] }
      let c := (b.modRing q r (fun x => { x with sqTail := w })).modPort q (fun p => p.says 1)
      s.Becomes (exec (.sqTail q r v) s) { c with fabric := { c.fabric with nextXfer := c.fabric.nextXfer + 1, xfers := c.fabric.xfers ++ [t] } }) ∧
    (∀ held, held = x.irqHeld.filter (fun p => decide ((p + n - w) % n < (x.cqTail + n - w) % n)) →
      let c := b.modRing q r (fun x => { x with cqHead := w, irqHeld := held, irqOut := !held.isEmpty })
      s.Becomes (exec (.cqHead q r v) s) (if held = [] then c else c.msix q (s.core.reg (rRing q r 3))))) ∧
  (∀ (s : State) (q v : Nat), (s.core.port q).trained = true → s.Becomes (exec (.msixUnmask q v) s) (s.core.modPort q (fun x =>
    { (if v ∈ x.pendingBits then (x.heard 1).says 1 else x.heard 1) with
        masked := x.masked.filter (fun k => k != v), pendingBits := x.pendingBits.filter (fun k => k != v),
        sent := if v ∈ x.pendingBits then x.sent ++ [v] else x.sent }))) ∧
  (∀ (s : State) (q : Nat), s.power.mainOn = true → (s.core.port q).perst = false → s.Becomes (exec (.configRequest q) s)
    (s.core.modPort q (fun x => { (x.heard 1).says 1 with config := x.config ++ [if x.trained then 0 else 2] }))) ∧
  (∀ (s : State) (q : Nat) (i : Instr), q < 2 → (s.core.port q).lost = false → (s.core.port q).trained = true →
    (i = .pcieLinkDown q ∨ i = .perstAssert q ∨
      (i = .heartbeatTimeout q ∧ s.core.reg rWatchMs ≠ 0 ∧ 1000 * s.core.reg rWatchMs ≤ (s.core.port q).sinceBeat)) →
    ∃ t, exec i s = .next t ∧ (t.core.port q).lost = true ∧ (i = .perstAssert q → (t.core.port q).perst = true) ∧
      (∀ r, r < 64 → let x := s.core.ring q r
        t.core.ring q r = { x with lost := true, fetched := [], lostHead := match x.started with
          | d :: _ => d.slot
          | [] => match x.fetched with | f :: _ => f.slot | [] => x.fetchHead }) ∧
      (∀ h k, (t.core.hearth h).claim = some k → k.1 ≠ q) ∧ t.core.counter (kPci (1 - q) 1) = satAdd 32 (s.core.counter (kPci (1 - q) 1)) 1 ∧
      ((s.core.port (1 - q)).lost = false → 65 ∉ (s.core.port (1 - q)).masked → (t.core.port (1 - q)).sent = (s.core.port (1 - q)).sent ++ [65]) ∧
      t.core.stacked = s.core.stacked ∧ t.core.hub = s.core.hub ∧ t = { s with core := t.core, power := t.power } ∧
      t.power = (if i = .perstAssert q ∧ s.power.stage = 5 ∧ (s.core.port (1 - q)).perst = true then { s.power with waitFor := 2 } else s.power)) ∧
  (∀ (s : State) (q : Nat), ∃ t, exec (.perstDeassert q) s = .next t ∧ t.core = s.core.modPort q (fun x => { x with perst := false }) ∧
    t.power = (if s.power.stage = 5 ∧ s.power.waitFor = 2 then { s.power with waitFor := 0 } else s.power) ∧ t = { s with core := t.core, power := t.power })

/-- JOB_START with the device ready, no job, every ring idle and a Hearth left starts a job; otherwise it is a refused write. JOB_END of a job with idle rings
ends it (R497, R499). What a job start clears beyond R499's list is the model's choice (entry 50). -/
def Obligations.JobsStartAndEnd : Prop :=
  (∀ (s : State) (via : Nat), (s.core.port via).trained = true → s.core.mayWrite via rJobCtrl = true →
    (s.canStart = true → ∃ t, exec (.jobStart via) s = .next t ∧ t.core.mgt.active = true ∧ t.core.mgt.jobState = .running ∧
      t.core.mgt.jobs = satAdd 16 s.core.mgt.jobs 1 ∧ t.core.mgt.waveNum = 1 ∧ t.core.mgt.restartCount = 0 ∧ t.core.mgt.timeUs = 0 ∧ t.core.hearths = [] ∧
      t.core.sync = {} ∧ t.core.pools = {} ∧ t.core.bellows = {} ∧ t.core.crucible = {} ∧ t.core.picker = {} ∧ t.core.cfg = s.core.cfg ∧
      (∀ off, latchedAtJob off = true → ¬ inArray off (rPick 0) 8 4096 = true → t.core.inForce off = s.core.reg off) ∧
      t.core.dram.localSize = s.core.reg rLocalSize ∧ t.core.mgt.snapLast = s.core.mgt.snapLast ∧
      t.power = { s.power with portsDone := t.power.portsDone } ∧ t.pending = s.pending) ∧
    (s.canStart = false → s.Becomes (exec (.jobStart via) s) ((s.core.modPort via (fun p => p.heard 1)).bump (kPci via 2)))) ∧
  (∀ (s : State) (via : Nat), (s.core.port via).trained = true → s.core.mayWrite via rJobCtrl true = true →
    let b := s.core.modPort via (fun p => p.heard 1)
    (s.core.mgt.active = true → s.core.ringsIdle = true →
      s.Becomes (exec (.jobEnd via) s) { b with mgt := { s.core.mgt with jobState := .stopped, active := false } }) ∧
    (s.core.mgt.active = false ∨ s.core.ringsIdle = false → s.Becomes (exec (.jobEnd via) s) (b.bump (kPci via 2))))

/-- A write of a register that acts does what its register says; over a port that may not write it is counted and does nothing else (R422, R427, R437, R449,
R478, R483, R497). That the fused minimum is kept for each kind of image is the model's choice (entry 58). -/
def Obligations.ActingRegistersAct : Prop :=
  (∀ (s : State) (via v : Nat), (s.core.port via).trained = true →
    let on := bit v 0 = true
    let b := s.core.modPort via (fun p => p.heard 1)
    (s.core.mayWrite via rFaultClear = true → on →
      s.Becomes (exec (.mgtFaultClear via v) s) { b with mgt := { s.core.mgt with faultLog := [], faultHead := 0 } }) ∧
    (s.core.mayWrite via rSvnCommit = true → on → ∃ t, exec (.mgtSvnCommit via v) s = .next t ∧ t.power.svnCommit = true ∧
      (∀ k, k < 4 → t.power.fusedMin[k]? = some (max (s.power.fusedMin.getD k 0) (s.power.running.getD k 0))) ∧
      t = { s with core := t.core, power := { s.power with svnCommit := true, fusedMin := t.power.fusedMin } } ∧ Core.Same b t.core) ∧
    (s.core.mayWrite via rPoolSetEnable = true → s.core.halted = false →
      (s.core.twoTenant = false → s.Becomes (exec (.poolSetEnable via v) s) (b.enableSets v)) ∧
      (s.core.twoTenant = true → s.Becomes (exec (.poolSetEnable via v) s)
        ((if s.core.ownSets via v = v % 2 ^ 16 then b else b.bump (kPci via 2)).enableSets (s.core.ownSets via v)))) ∧
    (s.core.mayWrite via rFabTeardown true = true → on → s.Becomes (exec (.hubFabTeardown via v) s) b.teardown) ∧
    (∀ q, q < 2 → s.core.mayWrite via (rHeartbeat q) = true → via = q → on → (s.core.port q).lost = false →
      s.Becomes (exec (.pciHeartbeat via q v) s) (b.modPort q (fun x => { x with sinceBeat := 0 }))) ∧
    (∀ q r, q < 2 → r < 64 → s.core.mayWrite via (rRing q r 4) = true →
      (on → s.power.stage = 8 → (s.core.ring q r).enabled = false → (s.core.ring q r).started = [] → ∃ t, exec (.pciRingEnable via q r v) s = .next t ∧
        t.core.ring q r = { enabled := true, lostHead := (s.core.ring q r).lostHead } ∧ (∀ k, k ≠ r → t.core.ring q k = s.core.ring q k) ∧ t = { s with core := t.core }) ∧
      (on → (s.power.stage ≠ 8 ∨ (s.core.ring q r).enabled = true ∨ (s.core.ring q r).started ≠ []) → s.Becomes (exec (.pciRingEnable via q r v) s) (b.bump (kPci q 0))) ∧
      (¬ on → ∃ t, exec (.pciRingEnable via q r v) s = .next t ∧ t.core.ring q r = { s.core.ring q r with enabled := false, fetched := [] } ∧
        (∀ k, k ≠ r → t.core.ring q k = s.core.ring q k) ∧ t = { s with core := t.core })) ∧
    (∀ i off, (i, off) ∈ [(Instr.mgtFaultClear via v, rFaultClear), (.mgtSvnCommit via v, rSvnCommit), (.mgtDeviceIdWrite via v, rDeviceId), (.poolSetEnable via v, rPoolSetEnable),
        (.farPortRetrain via v, rPortRetrain)] → s.core.mayWrite via off = false → s.Becomes (exec i s) (b.bump (kPci via 2)))) ∧
  (∀ (s u : State) (v : Nat) (i : Instr), (i = .setDeviceId v ∧ s.power.standbyOn = true ∧ u = { s with power := s.power.heard 1 } ∨
      ∃ via, i = .mgtDeviceIdWrite via v ∧ (s.core.port via).trained = true ∧ s.core.mayWrite via rDeviceId = true ∧
        u = { s with core := s.core.modPort via (fun p => p.heard 1) }) →
    (s.power.stage ≠ 7 ∨ s.power.waitFor ≠ 3 → exec i s = .next u) ∧
    (s.power.stage = 7 → s.power.waitFor = 3 → bit v 15 = true → v % 8 ≠ s.core.part.pos → exec i s = .next { u with power := { u.power with failCode := 6 } }) ∧
    (s.power.stage = 7 → s.power.waitFor = 3 → bit v 15 = true → v % 8 = s.core.part.pos → ∃ t, exec i s = .next t ∧ t.core.mgt.deviceId = v % 2 ^ 14 + 2 ^ 15 ∧
      t.power.waitFor = 0 ∧ t.power.failCode = 0 ∧ (∀ p, p < 32 → bit (s.core.reg rPortEnable) p = true → (t.link p).position = posDetect)))

/-- A register write is judged field by field: bits outside fields are dropped, a value out of range takes the nearer limit, and a 4-byte write leaves the
other half; a badly aligned or foreign write is counted and changes nothing; an offset that no table lists takes nothing (R10, R491, R493, R495 to R497). A
stored value reads back at once, and what is in force of the settings that a job start or a merge latches stays; FAR_PORT_ENABLE takes ports that are not
UP to OFF, PCI_WATCH_MS restarts the watches, a ring setting is taken on a disabled and idle ring only, and of a register that holds both tenants' bits a
port changes its own (R427, R437, R496, R502, Tables 18-2 and 18-3). That an ignored region write counts no refusal is the model's choice (entry 60). -/
def Obligations.RegisterWritesAreJudged : Prop :=
  (∀ (s : State) (via off v : Nat), (s.core.port via).trained = true →
    let b := s.core.modPort via (fun p => p.heard 1)
    let u : State := { s with core := b }
    (∀ size, ¬ (size = 8 ∧ off % 8 = 0) → ¬ (size = 4 ∧ off % 4 = 0) → s.Becomes (exec (.registerWrite via off size v) s) (b.bump (kPci via 2))) ∧
    (∀ spec, off % 8 = 0 → regSpec off = some spec → s.core.mayWrite via off = false → s.Becomes (exec (.registerWrite via off 8 v) s) (b.bump (kPci via 2))) ∧
    (off % 8 = 0 → regSpec off = none → u.actReg via off (v % 2 ^ 64) = none → readOnly off = false → s.Becomes (exec (.registerWrite via off 8 v) s) b) ∧
    (off % 8 = 0 → regSpec off = none → u.actReg via off (v % 2 ^ 64) = none → readOnly off = true → s.core.presentAt off = true →
      s.Becomes (exec (.registerWrite via off 8 v) s) (if s.core.mayWrite via off = true then b else b.bump (kPci via 2))) ∧
    (∀ (spec : RegSpec) (at_ size m : Nat), off % 8 = 0 → regSpec off = some spec → s.core.mayWrite via off = true →
      let old := (s.power.setting off).getD (s.core.reg off)
      (size = 8 ∧ at_ = off ∧ m = v % 2 ^ 64 ∨ size = 4 ∧ at_ = off ∧ m = (old >>> 32) <<< 32 + v % 2 ^ 32 ∨
        size = 4 ∧ at_ = off + 4 ∧ m = old % 2 ^ 32 + (v % 2 ^ 32) <<< 32) →
      let i : Instr := .registerWrite via at_ size v
      let y := spec.judge m
      let stored := fun (c : Core) (z : Nat) => s.Becomes (exec i s) (c.setReg off z)
      (off = rPowerCap → exec i s = .next { u with power := { s.power with cap := y } }) ∧
      (off = rPowerMode → exec i s = .next { u with power := { s.power with fixed := bit y 0 } }) ∧
      (off = rCoreSet → exec i s = .next { u with power := { s.power with coreSet := y } }) ∧
      (off = rPortEnable → ∃ t, exec i s = .next t ∧ (∀ p, t.link p = if (s.link p).up = false ∧ bit y p = false then { s.link p with position := posOff } else s.link p) ∧
        t = ({ u with core := b.setReg off y, links := t.links } : State).settle) ∧
      (off = rWatchMs → stored (b.modPort 0 (fun p => { p with sinceBeat := 0 }) |>.modPort 1 (fun p => { p with sinceBeat := 0 })) y) ∧
      (∀ q r k, off = rRing q r k → q < 2 → r < 64 → k < 4 →
        ((s.core.ring q r).enabled = false ∧ (s.core.ring q r).started = [] → stored b y) ∧
        ((s.core.ring q r).enabled = true ∨ (s.core.ring q r).started ≠ [] → s.Becomes (exec i s) (b.bump (kPci q 0)))) ∧
      (s.core.twoTenant = true → off = rLendEnable0 ∨ off = rLendEnable1 → ∃ z, stored b z ∧ ∀ k, k < 64 →
        let mine := ∃ h, s.core.physOf ((if off = rLendEnable0 then 0 else 64) + k) = some h ∧ s.core.hearthTenant h = via
        (mine → bit z k = bit y k) ∧ (¬ mine → bit z k = bit (s.core.reg off) k)) ∧
      (∀ n, s.core.twoTenant = true → off = rRgnLo n → n < 256 →
        ((bit y 6 = true ↔ 128 ≤ n) → stored b y) ∧ (¬ (bit y 6 = true ↔ 128 ≤ n) → s.Becomes (exec i s) b)) ∧
      (s.power.setting off = none → off ≠ rPortEnable → off ≠ rWatchMs → spec.eff ≠ .idle →
        s.core.twoTenant = false ∨ (off ≠ rLendEnable0 ∧ off ≠ rLendEnable1 ∧ ∀ n, n < 256 → off ≠ rRgnLo n) → stored b y))) ∧
  (∀ (c : Core) (off z : Nat), (c.setReg off z).reg off = z ∧ (∀ k, k ≠ off → (c.setReg off z).reg k = c.reg k) ∧ ∀ k, (c.setReg off z).inForce k = c.inForce k) ∧
  (∀ (f : RegField) (v : Nat), f.min ≤ f.max → f.min % f.mult = 0 → 0 < f.mult → let x := (v >>> f.lo) % 2 ^ f.w
    let y := f.judge v >>> f.lo
    (x < f.min → y = f.min) ∧ (f.max < x → y = f.max - f.max % f.mult) ∧ (f.min ≤ x → x ≤ f.max → y = x - x % f.mult)) ∧
  (∀ (spec : RegSpec) (v : Nat), spec.judge v = (spec.fields.map (fun f => f.judge v)).foldl (· + ·) 0)

/-- A command of the job side leaves power, the links and the queue as they are, and one that comes in on a Farger port changes the link of that port alone
(R376, R386, R472). -/
def Obligations.JobSideLeavesPowerAndLinks : Prop :=
  ∀ (s t : State) (i : Instr), exec i s = .next t →
    (jobSide i = true → t.power = s.power ∧ t.links = s.links ∧ t.pending = s.pending) ∧
      (∀ p, arrivesOn i = some p → t.power = s.power ∧ (∀ q, q ≠ p → t.link q = s.link q) ∧ t.pending = s.pending)
end

