-- ==== Sys2Proof/Laws/Lists.lean ====
section
/-!
SUPPORT. Sys2Proof/Laws/Lists.lean: what the key lists of Bits.lean do. A key read after it is put or deleted, and any other key, are told for every list, in
order or not.
-/

namespace Sys2Proof.Machine

variable {α : Type}

@[simp] theorem kvGet_nil (k : Nat) : kvGet ([] : List (Nat × α)) k = none := rfl

theorem kvGet_kvPut_same (l : List (Nat × α)) (k : Nat) (v : α) : kvGet (kvPut l k v) k = some v := by
  induction l with
  | nil => simp [kvPut, kvGet]
  | cons e r ih =>
    obtain ⟨a, w⟩ := e
    unfold kvPut
    split
    · simp [kvGet]
    · split
      · simp [kvGet]
      · rename_i hn; simp [kvGet, hn, ih]

theorem kvGet_kvPut_ne (l : List (Nat × α)) {k j : Nat} (v : α) (hj : j ≠ k) : kvGet (kvPut l k v) j = kvGet l j := by
  induction l with
  | nil => simp [kvPut, kvGet, hj]
  | cons e r ih =>
    obtain ⟨a, w⟩ := e
    unfold kvPut
    split
    · simp [kvGet, hj]
    · split
      · rename_i hk; subst hk; simp [kvGet, hj]
      · by_cases ha : j = a <;> simp [kvGet, ha, ih]

theorem kvGet_kvDel_same (l : List (Nat × α)) (k : Nat) : kvGet (kvDel l k) k = none := by
  induction l with
  | nil => rfl
  | cons e r ih =>
    obtain ⟨a, w⟩ := e
    by_cases h : k = a <;> simp [kvDel, kvGet, h, ih]
    simpa [h] using ih

theorem kvGet_kvDel_ne (l : List (Nat × α)) {k j : Nat} (hj : j ≠ k) : kvGet (kvDel l k) j = kvGet l j := by
  induction l with
  | nil => rfl
  | cons e r ih =>
    obtain ⟨a, w⟩ := e
    by_cases h : k = a
    · subst h; simp [kvDel, kvGet, hj, ih]
    · by_cases ha : j = a <;> simp [kvDel, kvGet, h, ha, ih]

theorem kvGet_kvPut (l : List (Nat × α)) (k j : Nat) (v : α) : kvGet (kvPut l k v) j = if j = k then some v else kvGet l j := by
  by_cases h : j = k
  · subst h; simp [kvGet_kvPut_same]
  · simp [kvGet_kvPut_ne l v h, h]

theorem spGet_spPut [DecidableEq α] (d : α) (l : List (Nat × α)) (k j : Nat) (v : α) :
    spGet d (spPut d l k v) j = if j = k then v else spGet d l j := by
  unfold spGet spPut
  by_cases hv : v = d <;> by_cases h : j = k
  · subst h; simp [hv, kvGet_kvDel_same]
  · simp [hv, h, kvGet_kvDel_ne l h]
  · subst h; simp [hv, kvGet_kvPut_same]
  · simp [hv, h, kvGet_kvPut_ne l v h]

theorem spGet_kvPut (d : α) (l : List (Nat × α)) (k j : Nat) (v : α) : spGet d (kvPut l k v) j = if j = k then v else spGet d l j := by
  unfold spGet
  rw [kvGet_kvPut]
  split <;> rfl

theorem kvGet_map (f : α → α) (l : List (Nat × α)) (k : Nat) : kvGet (l.map (fun (p : Nat × α) => (p.1, f p.2))) k = (kvGet l k).map f := by
  induction l with
  | nil => rfl
  | cons e r ih =>
    obtain ⟨a, w⟩ := e
    by_cases h : k = a <;> simp [kvGet, h, ih]

theorem kvGet_mapKey (f : Nat → α → α) (l : List (Nat × α)) (k : Nat) :
    kvGet (l.map (fun (p : Nat × α) => (p.1, f p.1 p.2))) k = (kvGet l k).map (f k) := by
  induction l with
  | nil => rfl
  | cons e r ih =>
    obtain ⟨a, w⟩ := e
    by_cases h : k = a <;> simp [kvGet, h, ih]

end Sys2Proof.Machine
end

