-- ==== Sys2Proof/Laws/State.lean ====
section
/-!
SUPPORT. Sys2Proof/Laws/State.lean: what each named update of the state leaves, field by field, and what a unit reads after it.
-/

namespace Sys2Proof.Machine

variable (c : Core) (s : State)

@[simp] theorem Core.modHearth_part (h : Nat) (f : Hearth → Hearth) : (c.modHearth h f).part = c.part := rfl
@[simp] theorem Core.modHearth_mgt (h : Nat) (f : Hearth → Hearth) : (c.modHearth h f).mgt = c.mgt := rfl
@[simp] theorem Core.modHearth_cfg (h : Nat) (f : Hearth → Hearth) : (c.modHearth h f).cfg = c.cfg := rfl
@[simp] theorem Core.modHearth_latched (h : Nat) (f : Hearth → Hearth) : (c.modHearth h f).latched = c.latched := rfl
@[simp] theorem Core.modHearth_counters (h : Nat) (f : Hearth → Hearth) : (c.modHearth h f).counters = c.counters := rfl
@[simp] theorem Core.modHearth_stacked (h : Nat) (f : Hearth → Hearth) : (c.modHearth h f).stacked = c.stacked := rfl
@[simp] theorem Core.modHearth_hub (h : Nat) (f : Hearth → Hearth) : (c.modHearth h f).hub = c.hub := rfl
@[simp] theorem Core.modHearth_dram (h : Nat) (f : Hearth → Hearth) : (c.modHearth h f).dram = c.dram := rfl
@[simp] theorem Core.modHearth_scratchEpoch (h : Nat) (f : Hearth → Hearth) : (c.modHearth h f).scratchEpoch = c.scratchEpoch := rfl
@[simp] theorem Core.modHearth_smithies (h : Nat) (f : Hearth → Hearth) : (c.modHearth h f).smithies = c.smithies := rfl
@[simp] theorem Core.modHearth_tt (h : Nat) (f : Hearth → Hearth) : (c.modHearth h f).tt = c.tt := rfl
@[simp] theorem Core.modHearth_hash (h : Nat) (f : Hearth → Hearth) : (c.modHearth h f).hash = c.hash := rfl
@[simp] theorem Core.modHearth_picker (h : Nat) (f : Hearth → Hearth) : (c.modHearth h f).picker = c.picker := rfl
@[simp] theorem Core.modHearth_bellows (h : Nat) (f : Hearth → Hearth) : (c.modHearth h f).bellows = c.bellows := rfl
@[simp] theorem Core.modHearth_crucible (h : Nat) (f : Hearth → Hearth) : (c.modHearth h f).crucible = c.crucible := rfl
@[simp] theorem Core.modHearth_sync (h : Nat) (f : Hearth → Hearth) : (c.modHearth h f).sync = c.sync := rfl
@[simp] theorem Core.modHearth_pools (h : Nat) (f : Hearth → Hearth) : (c.modHearth h f).pools = c.pools := rfl
@[simp] theorem Core.modHearth_fabric (h : Nat) (f : Hearth → Hearth) : (c.modHearth h f).fabric = c.fabric := rfl
@[simp] theorem Core.modHearth_route (h : Nat) (f : Hearth → Hearth) : (c.modHearth h f).route = c.route := rfl
@[simp] theorem Core.modHearth_ports (h : Nat) (f : Hearth → Hearth) : (c.modHearth h f).ports = c.ports := rfl
@[simp] theorem Core.modHearth_snap (h : Nat) (f : Hearth → Hearth) : (c.modHearth h f).snap = c.snap := rfl
@[simp] theorem Core.modHearth_free (h : Nat) (f : Hearth → Hearth) : (c.modHearth h f).free = c.free := rfl

@[simp] theorem Core.modSmithy_part (i : Nat) (f : Smithy → Smithy) : (c.modSmithy i f).part = c.part := rfl
@[simp] theorem Core.modSmithy_mgt (i : Nat) (f : Smithy → Smithy) : (c.modSmithy i f).mgt = c.mgt := rfl
@[simp] theorem Core.modSmithy_cfg (i : Nat) (f : Smithy → Smithy) : (c.modSmithy i f).cfg = c.cfg := rfl
@[simp] theorem Core.modSmithy_latched (i : Nat) (f : Smithy → Smithy) : (c.modSmithy i f).latched = c.latched := rfl
@[simp] theorem Core.modSmithy_counters (i : Nat) (f : Smithy → Smithy) : (c.modSmithy i f).counters = c.counters := rfl
@[simp] theorem Core.modSmithy_stacked (i : Nat) (f : Smithy → Smithy) : (c.modSmithy i f).stacked = c.stacked := rfl
@[simp] theorem Core.modSmithy_hub (i : Nat) (f : Smithy → Smithy) : (c.modSmithy i f).hub = c.hub := rfl
@[simp] theorem Core.modSmithy_dram (i : Nat) (f : Smithy → Smithy) : (c.modSmithy i f).dram = c.dram := rfl
@[simp] theorem Core.modSmithy_hearths (i : Nat) (f : Smithy → Smithy) : (c.modSmithy i f).hearths = c.hearths := rfl
@[simp] theorem Core.modSmithy_scratchEpoch (i : Nat) (f : Smithy → Smithy) : (c.modSmithy i f).scratchEpoch = c.scratchEpoch := rfl
@[simp] theorem Core.modSmithy_tt (i : Nat) (f : Smithy → Smithy) : (c.modSmithy i f).tt = c.tt := rfl
@[simp] theorem Core.modSmithy_hash (i : Nat) (f : Smithy → Smithy) : (c.modSmithy i f).hash = c.hash := rfl
@[simp] theorem Core.modSmithy_picker (i : Nat) (f : Smithy → Smithy) : (c.modSmithy i f).picker = c.picker := rfl
@[simp] theorem Core.modSmithy_bellows (i : Nat) (f : Smithy → Smithy) : (c.modSmithy i f).bellows = c.bellows := rfl
@[simp] theorem Core.modSmithy_crucible (i : Nat) (f : Smithy → Smithy) : (c.modSmithy i f).crucible = c.crucible := rfl
@[simp] theorem Core.modSmithy_sync (i : Nat) (f : Smithy → Smithy) : (c.modSmithy i f).sync = c.sync := rfl
@[simp] theorem Core.modSmithy_pools (i : Nat) (f : Smithy → Smithy) : (c.modSmithy i f).pools = c.pools := rfl
@[simp] theorem Core.modSmithy_fabric (i : Nat) (f : Smithy → Smithy) : (c.modSmithy i f).fabric = c.fabric := rfl
@[simp] theorem Core.modSmithy_route (i : Nat) (f : Smithy → Smithy) : (c.modSmithy i f).route = c.route := rfl
@[simp] theorem Core.modSmithy_ports (i : Nat) (f : Smithy → Smithy) : (c.modSmithy i f).ports = c.ports := rfl
@[simp] theorem Core.modSmithy_snap (i : Nat) (f : Smithy → Smithy) : (c.modSmithy i f).snap = c.snap := rfl
@[simp] theorem Core.modSmithy_free (i : Nat) (f : Smithy → Smithy) : (c.modSmithy i f).free = c.free := rfl

@[simp] theorem Core.modPort_part (q : Nat) (f : HostPort → HostPort) : (c.modPort q f).part = c.part := rfl
@[simp] theorem Core.modPort_mgt (q : Nat) (f : HostPort → HostPort) : (c.modPort q f).mgt = c.mgt := rfl
@[simp] theorem Core.modPort_cfg (q : Nat) (f : HostPort → HostPort) : (c.modPort q f).cfg = c.cfg := rfl
@[simp] theorem Core.modPort_latched (q : Nat) (f : HostPort → HostPort) : (c.modPort q f).latched = c.latched := rfl
@[simp] theorem Core.modPort_counters (q : Nat) (f : HostPort → HostPort) : (c.modPort q f).counters = c.counters := rfl
@[simp] theorem Core.modPort_stacked (q : Nat) (f : HostPort → HostPort) : (c.modPort q f).stacked = c.stacked := rfl
@[simp] theorem Core.modPort_hub (q : Nat) (f : HostPort → HostPort) : (c.modPort q f).hub = c.hub := rfl
@[simp] theorem Core.modPort_dram (q : Nat) (f : HostPort → HostPort) : (c.modPort q f).dram = c.dram := rfl
@[simp] theorem Core.modPort_hearths (q : Nat) (f : HostPort → HostPort) : (c.modPort q f).hearths = c.hearths := rfl
@[simp] theorem Core.modPort_scratchEpoch (q : Nat) (f : HostPort → HostPort) : (c.modPort q f).scratchEpoch = c.scratchEpoch := rfl
@[simp] theorem Core.modPort_smithies (q : Nat) (f : HostPort → HostPort) : (c.modPort q f).smithies = c.smithies := rfl
@[simp] theorem Core.modPort_tt (q : Nat) (f : HostPort → HostPort) : (c.modPort q f).tt = c.tt := rfl
@[simp] theorem Core.modPort_hash (q : Nat) (f : HostPort → HostPort) : (c.modPort q f).hash = c.hash := rfl
@[simp] theorem Core.modPort_picker (q : Nat) (f : HostPort → HostPort) : (c.modPort q f).picker = c.picker := rfl
@[simp] theorem Core.modPort_bellows (q : Nat) (f : HostPort → HostPort) : (c.modPort q f).bellows = c.bellows := rfl
@[simp] theorem Core.modPort_crucible (q : Nat) (f : HostPort → HostPort) : (c.modPort q f).crucible = c.crucible := rfl
@[simp] theorem Core.modPort_sync (q : Nat) (f : HostPort → HostPort) : (c.modPort q f).sync = c.sync := rfl
@[simp] theorem Core.modPort_pools (q : Nat) (f : HostPort → HostPort) : (c.modPort q f).pools = c.pools := rfl
@[simp] theorem Core.modPort_fabric (q : Nat) (f : HostPort → HostPort) : (c.modPort q f).fabric = c.fabric := rfl
@[simp] theorem Core.modPort_route (q : Nat) (f : HostPort → HostPort) : (c.modPort q f).route = c.route := rfl
@[simp] theorem Core.modPort_snap (q : Nat) (f : HostPort → HostPort) : (c.modPort q f).snap = c.snap := rfl
@[simp] theorem Core.modPort_free (q : Nat) (f : HostPort → HostPort) : (c.modPort q f).free = c.free := rfl

@[simp] theorem Core.modRing_part (q r : Nat) (f : Ring → Ring) : (c.modRing q r f).part = c.part := rfl
@[simp] theorem Core.modRing_mgt (q r : Nat) (f : Ring → Ring) : (c.modRing q r f).mgt = c.mgt := rfl
@[simp] theorem Core.modRing_cfg (q r : Nat) (f : Ring → Ring) : (c.modRing q r f).cfg = c.cfg := rfl
@[simp] theorem Core.modRing_latched (q r : Nat) (f : Ring → Ring) : (c.modRing q r f).latched = c.latched := rfl
@[simp] theorem Core.modRing_counters (q r : Nat) (f : Ring → Ring) : (c.modRing q r f).counters = c.counters := rfl
@[simp] theorem Core.modRing_stacked (q r : Nat) (f : Ring → Ring) : (c.modRing q r f).stacked = c.stacked := rfl
@[simp] theorem Core.modRing_hub (q r : Nat) (f : Ring → Ring) : (c.modRing q r f).hub = c.hub := rfl
@[simp] theorem Core.modRing_dram (q r : Nat) (f : Ring → Ring) : (c.modRing q r f).dram = c.dram := rfl
@[simp] theorem Core.modRing_hearths (q r : Nat) (f : Ring → Ring) : (c.modRing q r f).hearths = c.hearths := rfl
@[simp] theorem Core.modRing_scratchEpoch (q r : Nat) (f : Ring → Ring) : (c.modRing q r f).scratchEpoch = c.scratchEpoch := rfl
@[simp] theorem Core.modRing_smithies (q r : Nat) (f : Ring → Ring) : (c.modRing q r f).smithies = c.smithies := rfl
@[simp] theorem Core.modRing_tt (q r : Nat) (f : Ring → Ring) : (c.modRing q r f).tt = c.tt := rfl
@[simp] theorem Core.modRing_hash (q r : Nat) (f : Ring → Ring) : (c.modRing q r f).hash = c.hash := rfl
@[simp] theorem Core.modRing_picker (q r : Nat) (f : Ring → Ring) : (c.modRing q r f).picker = c.picker := rfl
@[simp] theorem Core.modRing_bellows (q r : Nat) (f : Ring → Ring) : (c.modRing q r f).bellows = c.bellows := rfl
@[simp] theorem Core.modRing_crucible (q r : Nat) (f : Ring → Ring) : (c.modRing q r f).crucible = c.crucible := rfl
@[simp] theorem Core.modRing_sync (q r : Nat) (f : Ring → Ring) : (c.modRing q r f).sync = c.sync := rfl
@[simp] theorem Core.modRing_pools (q r : Nat) (f : Ring → Ring) : (c.modRing q r f).pools = c.pools := rfl
@[simp] theorem Core.modRing_fabric (q r : Nat) (f : Ring → Ring) : (c.modRing q r f).fabric = c.fabric := rfl
@[simp] theorem Core.modRing_route (q r : Nat) (f : Ring → Ring) : (c.modRing q r f).route = c.route := rfl
@[simp] theorem Core.modRing_snap (q r : Nat) (f : Ring → Ring) : (c.modRing q r f).snap = c.snap := rfl
@[simp] theorem Core.modRing_free (q r : Nat) (f : Ring → Ring) : (c.modRing q r f).free = c.free := rfl

@[simp] theorem Core.bumpBy_part (k n : Nat) : (c.bumpBy k n).part = c.part := rfl
@[simp] theorem Core.bumpBy_mgt (k n : Nat) : (c.bumpBy k n).mgt = c.mgt := rfl
@[simp] theorem Core.bumpBy_cfg (k n : Nat) : (c.bumpBy k n).cfg = c.cfg := rfl
@[simp] theorem Core.bumpBy_latched (k n : Nat) : (c.bumpBy k n).latched = c.latched := rfl
@[simp] theorem Core.bumpBy_stacked (k n : Nat) : (c.bumpBy k n).stacked = c.stacked := rfl
@[simp] theorem Core.bumpBy_hub (k n : Nat) : (c.bumpBy k n).hub = c.hub := rfl
@[simp] theorem Core.bumpBy_dram (k n : Nat) : (c.bumpBy k n).dram = c.dram := rfl
@[simp] theorem Core.bumpBy_hearths (k n : Nat) : (c.bumpBy k n).hearths = c.hearths := rfl
@[simp] theorem Core.bumpBy_scratchEpoch (k n : Nat) : (c.bumpBy k n).scratchEpoch = c.scratchEpoch := rfl
@[simp] theorem Core.bumpBy_smithies (k n : Nat) : (c.bumpBy k n).smithies = c.smithies := rfl
@[simp] theorem Core.bumpBy_tt (k n : Nat) : (c.bumpBy k n).tt = c.tt := rfl
@[simp] theorem Core.bumpBy_hash (k n : Nat) : (c.bumpBy k n).hash = c.hash := rfl
@[simp] theorem Core.bumpBy_picker (k n : Nat) : (c.bumpBy k n).picker = c.picker := rfl
@[simp] theorem Core.bumpBy_bellows (k n : Nat) : (c.bumpBy k n).bellows = c.bellows := rfl
@[simp] theorem Core.bumpBy_crucible (k n : Nat) : (c.bumpBy k n).crucible = c.crucible := rfl
@[simp] theorem Core.bumpBy_sync (k n : Nat) : (c.bumpBy k n).sync = c.sync := rfl
@[simp] theorem Core.bumpBy_pools (k n : Nat) : (c.bumpBy k n).pools = c.pools := rfl
@[simp] theorem Core.bumpBy_fabric (k n : Nat) : (c.bumpBy k n).fabric = c.fabric := rfl
@[simp] theorem Core.bumpBy_route (k n : Nat) : (c.bumpBy k n).route = c.route := rfl
@[simp] theorem Core.bumpBy_ports (k n : Nat) : (c.bumpBy k n).ports = c.ports := rfl
@[simp] theorem Core.bumpBy_snap (k n : Nat) : (c.bumpBy k n).snap = c.snap := rfl
@[simp] theorem Core.bumpBy_free (k n : Nat) : (c.bumpBy k n).free = c.free := rfl

@[simp] theorem Core.bump_part (k : Nat) : (c.bump k).part = c.part := rfl
@[simp] theorem Core.bump_mgt (k : Nat) : (c.bump k).mgt = c.mgt := rfl
@[simp] theorem Core.bump_cfg (k : Nat) : (c.bump k).cfg = c.cfg := rfl
@[simp] theorem Core.bump_latched (k : Nat) : (c.bump k).latched = c.latched := rfl
@[simp] theorem Core.bump_stacked (k : Nat) : (c.bump k).stacked = c.stacked := rfl
@[simp] theorem Core.bump_hub (k : Nat) : (c.bump k).hub = c.hub := rfl
@[simp] theorem Core.bump_dram (k : Nat) : (c.bump k).dram = c.dram := rfl
@[simp] theorem Core.bump_hearths (k : Nat) : (c.bump k).hearths = c.hearths := rfl
@[simp] theorem Core.bump_scratchEpoch (k : Nat) : (c.bump k).scratchEpoch = c.scratchEpoch := rfl
@[simp] theorem Core.bump_smithies (k : Nat) : (c.bump k).smithies = c.smithies := rfl
@[simp] theorem Core.bump_tt (k : Nat) : (c.bump k).tt = c.tt := rfl
@[simp] theorem Core.bump_hash (k : Nat) : (c.bump k).hash = c.hash := rfl
@[simp] theorem Core.bump_picker (k : Nat) : (c.bump k).picker = c.picker := rfl
@[simp] theorem Core.bump_bellows (k : Nat) : (c.bump k).bellows = c.bellows := rfl
@[simp] theorem Core.bump_crucible (k : Nat) : (c.bump k).crucible = c.crucible := rfl
@[simp] theorem Core.bump_sync (k : Nat) : (c.bump k).sync = c.sync := rfl
@[simp] theorem Core.bump_pools (k : Nat) : (c.bump k).pools = c.pools := rfl
@[simp] theorem Core.bump_fabric (k : Nat) : (c.bump k).fabric = c.fabric := rfl
@[simp] theorem Core.bump_route (k : Nat) : (c.bump k).route = c.route := rfl
@[simp] theorem Core.bump_ports (k : Nat) : (c.bump k).ports = c.ports := rfl
@[simp] theorem Core.bump_snap (k : Nat) : (c.bump k).snap = c.snap := rfl
@[simp] theorem Core.bump_free (k : Nat) : (c.bump k).free = c.free := rfl

@[simp] theorem Core.modBellows_part (f : Bellows → Bellows) : (c.modBellows f).part = c.part := rfl
@[simp] theorem Core.modBellows_mgt (f : Bellows → Bellows) : (c.modBellows f).mgt = c.mgt := rfl
@[simp] theorem Core.modBellows_cfg (f : Bellows → Bellows) : (c.modBellows f).cfg = c.cfg := rfl
@[simp] theorem Core.modBellows_latched (f : Bellows → Bellows) : (c.modBellows f).latched = c.latched := rfl
@[simp] theorem Core.modBellows_counters (f : Bellows → Bellows) : (c.modBellows f).counters = c.counters := rfl
@[simp] theorem Core.modBellows_stacked (f : Bellows → Bellows) : (c.modBellows f).stacked = c.stacked := rfl
@[simp] theorem Core.modBellows_hub (f : Bellows → Bellows) : (c.modBellows f).hub = c.hub := rfl
@[simp] theorem Core.modBellows_dram (f : Bellows → Bellows) : (c.modBellows f).dram = c.dram := rfl
@[simp] theorem Core.modBellows_hearths (f : Bellows → Bellows) : (c.modBellows f).hearths = c.hearths := rfl
@[simp] theorem Core.modBellows_scratchEpoch (f : Bellows → Bellows) : (c.modBellows f).scratchEpoch = c.scratchEpoch := rfl
@[simp] theorem Core.modBellows_smithies (f : Bellows → Bellows) : (c.modBellows f).smithies = c.smithies := rfl
@[simp] theorem Core.modBellows_tt (f : Bellows → Bellows) : (c.modBellows f).tt = c.tt := rfl
@[simp] theorem Core.modBellows_hash (f : Bellows → Bellows) : (c.modBellows f).hash = c.hash := rfl
@[simp] theorem Core.modBellows_picker (f : Bellows → Bellows) : (c.modBellows f).picker = c.picker := rfl
@[simp] theorem Core.modBellows_crucible (f : Bellows → Bellows) : (c.modBellows f).crucible = c.crucible := rfl
@[simp] theorem Core.modBellows_sync (f : Bellows → Bellows) : (c.modBellows f).sync = c.sync := rfl
@[simp] theorem Core.modBellows_pools (f : Bellows → Bellows) : (c.modBellows f).pools = c.pools := rfl
@[simp] theorem Core.modBellows_fabric (f : Bellows → Bellows) : (c.modBellows f).fabric = c.fabric := rfl
@[simp] theorem Core.modBellows_route (f : Bellows → Bellows) : (c.modBellows f).route = c.route := rfl
@[simp] theorem Core.modBellows_ports (f : Bellows → Bellows) : (c.modBellows f).ports = c.ports := rfl
@[simp] theorem Core.modBellows_snap (f : Bellows → Bellows) : (c.modBellows f).snap = c.snap := rfl
@[simp] theorem Core.modBellows_free (f : Bellows → Bellows) : (c.modBellows f).free = c.free := rfl

@[simp] theorem Core.modCru_part (f : Crucible → Crucible) : (c.modCru f).part = c.part := rfl
@[simp] theorem Core.modCru_mgt (f : Crucible → Crucible) : (c.modCru f).mgt = c.mgt := rfl
@[simp] theorem Core.modCru_cfg (f : Crucible → Crucible) : (c.modCru f).cfg = c.cfg := rfl
@[simp] theorem Core.modCru_latched (f : Crucible → Crucible) : (c.modCru f).latched = c.latched := rfl
@[simp] theorem Core.modCru_counters (f : Crucible → Crucible) : (c.modCru f).counters = c.counters := rfl
@[simp] theorem Core.modCru_stacked (f : Crucible → Crucible) : (c.modCru f).stacked = c.stacked := rfl
@[simp] theorem Core.modCru_hub (f : Crucible → Crucible) : (c.modCru f).hub = c.hub := rfl
@[simp] theorem Core.modCru_dram (f : Crucible → Crucible) : (c.modCru f).dram = c.dram := rfl
@[simp] theorem Core.modCru_hearths (f : Crucible → Crucible) : (c.modCru f).hearths = c.hearths := rfl
@[simp] theorem Core.modCru_scratchEpoch (f : Crucible → Crucible) : (c.modCru f).scratchEpoch = c.scratchEpoch := rfl
@[simp] theorem Core.modCru_smithies (f : Crucible → Crucible) : (c.modCru f).smithies = c.smithies := rfl
@[simp] theorem Core.modCru_tt (f : Crucible → Crucible) : (c.modCru f).tt = c.tt := rfl
@[simp] theorem Core.modCru_hash (f : Crucible → Crucible) : (c.modCru f).hash = c.hash := rfl
@[simp] theorem Core.modCru_picker (f : Crucible → Crucible) : (c.modCru f).picker = c.picker := rfl
@[simp] theorem Core.modCru_bellows (f : Crucible → Crucible) : (c.modCru f).bellows = c.bellows := rfl
@[simp] theorem Core.modCru_sync (f : Crucible → Crucible) : (c.modCru f).sync = c.sync := rfl
@[simp] theorem Core.modCru_pools (f : Crucible → Crucible) : (c.modCru f).pools = c.pools := rfl
@[simp] theorem Core.modCru_fabric (f : Crucible → Crucible) : (c.modCru f).fabric = c.fabric := rfl
@[simp] theorem Core.modCru_route (f : Crucible → Crucible) : (c.modCru f).route = c.route := rfl
@[simp] theorem Core.modCru_ports (f : Crucible → Crucible) : (c.modCru f).ports = c.ports := rfl
@[simp] theorem Core.modCru_snap (f : Crucible → Crucible) : (c.modCru f).snap = c.snap := rfl
@[simp] theorem Core.modCru_free (f : Crucible → Crucible) : (c.modCru f).free = c.free := rfl

@[simp] theorem Core.modSnap_part (f : Snap → Snap) : (c.modSnap f).part = c.part := rfl
@[simp] theorem Core.modSnap_mgt (f : Snap → Snap) : (c.modSnap f).mgt = c.mgt := rfl
@[simp] theorem Core.modSnap_cfg (f : Snap → Snap) : (c.modSnap f).cfg = c.cfg := rfl
@[simp] theorem Core.modSnap_latched (f : Snap → Snap) : (c.modSnap f).latched = c.latched := rfl
@[simp] theorem Core.modSnap_counters (f : Snap → Snap) : (c.modSnap f).counters = c.counters := rfl
@[simp] theorem Core.modSnap_stacked (f : Snap → Snap) : (c.modSnap f).stacked = c.stacked := rfl
@[simp] theorem Core.modSnap_hub (f : Snap → Snap) : (c.modSnap f).hub = c.hub := rfl
@[simp] theorem Core.modSnap_dram (f : Snap → Snap) : (c.modSnap f).dram = c.dram := rfl
@[simp] theorem Core.modSnap_hearths (f : Snap → Snap) : (c.modSnap f).hearths = c.hearths := rfl
@[simp] theorem Core.modSnap_scratchEpoch (f : Snap → Snap) : (c.modSnap f).scratchEpoch = c.scratchEpoch := rfl
@[simp] theorem Core.modSnap_smithies (f : Snap → Snap) : (c.modSnap f).smithies = c.smithies := rfl
@[simp] theorem Core.modSnap_tt (f : Snap → Snap) : (c.modSnap f).tt = c.tt := rfl
@[simp] theorem Core.modSnap_hash (f : Snap → Snap) : (c.modSnap f).hash = c.hash := rfl
@[simp] theorem Core.modSnap_picker (f : Snap → Snap) : (c.modSnap f).picker = c.picker := rfl
@[simp] theorem Core.modSnap_bellows (f : Snap → Snap) : (c.modSnap f).bellows = c.bellows := rfl
@[simp] theorem Core.modSnap_crucible (f : Snap → Snap) : (c.modSnap f).crucible = c.crucible := rfl
@[simp] theorem Core.modSnap_sync (f : Snap → Snap) : (c.modSnap f).sync = c.sync := rfl
@[simp] theorem Core.modSnap_pools (f : Snap → Snap) : (c.modSnap f).pools = c.pools := rfl
@[simp] theorem Core.modSnap_fabric (f : Snap → Snap) : (c.modSnap f).fabric = c.fabric := rfl
@[simp] theorem Core.modSnap_route (f : Snap → Snap) : (c.modSnap f).route = c.route := rfl
@[simp] theorem Core.modSnap_ports (f : Snap → Snap) : (c.modSnap f).ports = c.ports := rfl
@[simp] theorem Core.modSnap_free (f : Snap → Snap) : (c.modSnap f).free = c.free := rfl

@[simp] theorem Core.setRollCtx_part (k : Nat) (x : RollCtx) : (c.setRollCtx k x).part = c.part := rfl
@[simp] theorem Core.setRollCtx_mgt (k : Nat) (x : RollCtx) : (c.setRollCtx k x).mgt = c.mgt := rfl
@[simp] theorem Core.setRollCtx_cfg (k : Nat) (x : RollCtx) : (c.setRollCtx k x).cfg = c.cfg := rfl
@[simp] theorem Core.setRollCtx_latched (k : Nat) (x : RollCtx) : (c.setRollCtx k x).latched = c.latched := rfl
@[simp] theorem Core.setRollCtx_counters (k : Nat) (x : RollCtx) : (c.setRollCtx k x).counters = c.counters := rfl
@[simp] theorem Core.setRollCtx_stacked (k : Nat) (x : RollCtx) : (c.setRollCtx k x).stacked = c.stacked := rfl
@[simp] theorem Core.setRollCtx_hub (k : Nat) (x : RollCtx) : (c.setRollCtx k x).hub = c.hub := rfl
@[simp] theorem Core.setRollCtx_dram (k : Nat) (x : RollCtx) : (c.setRollCtx k x).dram = c.dram := rfl
@[simp] theorem Core.setRollCtx_hearths (k : Nat) (x : RollCtx) : (c.setRollCtx k x).hearths = c.hearths := rfl
@[simp] theorem Core.setRollCtx_scratchEpoch (k : Nat) (x : RollCtx) : (c.setRollCtx k x).scratchEpoch = c.scratchEpoch := rfl
@[simp] theorem Core.setRollCtx_smithies (k : Nat) (x : RollCtx) : (c.setRollCtx k x).smithies = c.smithies := rfl
@[simp] theorem Core.setRollCtx_tt (k : Nat) (x : RollCtx) : (c.setRollCtx k x).tt = c.tt := rfl
@[simp] theorem Core.setRollCtx_hash (k : Nat) (x : RollCtx) : (c.setRollCtx k x).hash = c.hash := rfl
@[simp] theorem Core.setRollCtx_picker (k : Nat) (x : RollCtx) : (c.setRollCtx k x).picker = c.picker := rfl
@[simp] theorem Core.setRollCtx_bellows (k : Nat) (x : RollCtx) : (c.setRollCtx k x).bellows = c.bellows := rfl
@[simp] theorem Core.setRollCtx_crucible (k : Nat) (x : RollCtx) : (c.setRollCtx k x).crucible = c.crucible := rfl
@[simp] theorem Core.setRollCtx_pools (k : Nat) (x : RollCtx) : (c.setRollCtx k x).pools = c.pools := rfl
@[simp] theorem Core.setRollCtx_fabric (k : Nat) (x : RollCtx) : (c.setRollCtx k x).fabric = c.fabric := rfl
@[simp] theorem Core.setRollCtx_route (k : Nat) (x : RollCtx) : (c.setRollCtx k x).route = c.route := rfl
@[simp] theorem Core.setRollCtx_ports (k : Nat) (x : RollCtx) : (c.setRollCtx k x).ports = c.ports := rfl
@[simp] theorem Core.setRollCtx_snap (k : Nat) (x : RollCtx) : (c.setRollCtx k x).snap = c.snap := rfl
@[simp] theorem Core.setRollCtx_free (k : Nat) (x : RollCtx) : (c.setRollCtx k x).free = c.free := rfl

@[simp] theorem Core.setPoolSet_part (p : Nat) (x : PoolSet) : (c.setPoolSet p x).part = c.part := rfl
@[simp] theorem Core.setPoolSet_mgt (p : Nat) (x : PoolSet) : (c.setPoolSet p x).mgt = c.mgt := rfl
@[simp] theorem Core.setPoolSet_cfg (p : Nat) (x : PoolSet) : (c.setPoolSet p x).cfg = c.cfg := rfl
@[simp] theorem Core.setPoolSet_latched (p : Nat) (x : PoolSet) : (c.setPoolSet p x).latched = c.latched := rfl
@[simp] theorem Core.setPoolSet_counters (p : Nat) (x : PoolSet) : (c.setPoolSet p x).counters = c.counters := rfl
@[simp] theorem Core.setPoolSet_stacked (p : Nat) (x : PoolSet) : (c.setPoolSet p x).stacked = c.stacked := rfl
@[simp] theorem Core.setPoolSet_hub (p : Nat) (x : PoolSet) : (c.setPoolSet p x).hub = c.hub := rfl
@[simp] theorem Core.setPoolSet_dram (p : Nat) (x : PoolSet) : (c.setPoolSet p x).dram = c.dram := rfl
@[simp] theorem Core.setPoolSet_hearths (p : Nat) (x : PoolSet) : (c.setPoolSet p x).hearths = c.hearths := rfl
@[simp] theorem Core.setPoolSet_scratchEpoch (p : Nat) (x : PoolSet) : (c.setPoolSet p x).scratchEpoch = c.scratchEpoch := rfl
@[simp] theorem Core.setPoolSet_smithies (p : Nat) (x : PoolSet) : (c.setPoolSet p x).smithies = c.smithies := rfl
@[simp] theorem Core.setPoolSet_tt (p : Nat) (x : PoolSet) : (c.setPoolSet p x).tt = c.tt := rfl
@[simp] theorem Core.setPoolSet_hash (p : Nat) (x : PoolSet) : (c.setPoolSet p x).hash = c.hash := rfl
@[simp] theorem Core.setPoolSet_picker (p : Nat) (x : PoolSet) : (c.setPoolSet p x).picker = c.picker := rfl
@[simp] theorem Core.setPoolSet_bellows (p : Nat) (x : PoolSet) : (c.setPoolSet p x).bellows = c.bellows := rfl
@[simp] theorem Core.setPoolSet_crucible (p : Nat) (x : PoolSet) : (c.setPoolSet p x).crucible = c.crucible := rfl
@[simp] theorem Core.setPoolSet_sync (p : Nat) (x : PoolSet) : (c.setPoolSet p x).sync = c.sync := rfl
@[simp] theorem Core.setPoolSet_fabric (p : Nat) (x : PoolSet) : (c.setPoolSet p x).fabric = c.fabric := rfl
@[simp] theorem Core.setPoolSet_route (p : Nat) (x : PoolSet) : (c.setPoolSet p x).route = c.route := rfl
@[simp] theorem Core.setPoolSet_ports (p : Nat) (x : PoolSet) : (c.setPoolSet p x).ports = c.ports := rfl
@[simp] theorem Core.setPoolSet_snap (p : Nat) (x : PoolSet) : (c.setPoolSet p x).snap = c.snap := rfl
@[simp] theorem Core.setPoolSet_free (p : Nat) (x : PoolSet) : (c.setPoolSet p x).free = c.free := rfl

@[simp] theorem Core.setHeld_part (r v : Nat) : (c.setHeld r v).part = c.part := rfl
@[simp] theorem Core.setHeld_mgt (r v : Nat) : (c.setHeld r v).mgt = c.mgt := rfl
@[simp] theorem Core.setHeld_cfg (r v : Nat) : (c.setHeld r v).cfg = c.cfg := rfl
@[simp] theorem Core.setHeld_latched (r v : Nat) : (c.setHeld r v).latched = c.latched := rfl
@[simp] theorem Core.setHeld_counters (r v : Nat) : (c.setHeld r v).counters = c.counters := rfl
@[simp] theorem Core.setHeld_stacked (r v : Nat) : (c.setHeld r v).stacked = c.stacked := rfl
@[simp] theorem Core.setHeld_hub (r v : Nat) : (c.setHeld r v).hub = c.hub := rfl
@[simp] theorem Core.setHeld_dram (r v : Nat) : (c.setHeld r v).dram = c.dram := rfl
@[simp] theorem Core.setHeld_hearths (r v : Nat) : (c.setHeld r v).hearths = c.hearths := rfl
@[simp] theorem Core.setHeld_scratchEpoch (r v : Nat) : (c.setHeld r v).scratchEpoch = c.scratchEpoch := rfl
@[simp] theorem Core.setHeld_smithies (r v : Nat) : (c.setHeld r v).smithies = c.smithies := rfl
@[simp] theorem Core.setHeld_tt (r v : Nat) : (c.setHeld r v).tt = c.tt := rfl
@[simp] theorem Core.setHeld_hash (r v : Nat) : (c.setHeld r v).hash = c.hash := rfl
@[simp] theorem Core.setHeld_picker (r v : Nat) : (c.setHeld r v).picker = c.picker := rfl
@[simp] theorem Core.setHeld_bellows (r v : Nat) : (c.setHeld r v).bellows = c.bellows := rfl
@[simp] theorem Core.setHeld_crucible (r v : Nat) : (c.setHeld r v).crucible = c.crucible := rfl
@[simp] theorem Core.setHeld_sync (r v : Nat) : (c.setHeld r v).sync = c.sync := rfl
@[simp] theorem Core.setHeld_fabric (r v : Nat) : (c.setHeld r v).fabric = c.fabric := rfl
@[simp] theorem Core.setHeld_route (r v : Nat) : (c.setHeld r v).route = c.route := rfl
@[simp] theorem Core.setHeld_ports (r v : Nat) : (c.setHeld r v).ports = c.ports := rfl
@[simp] theorem Core.setHeld_snap (r v : Nat) : (c.setHeld r v).snap = c.snap := rfl
@[simp] theorem Core.setHeld_free (r v : Nat) : (c.setHeld r v).free = c.free := rfl

@[simp] theorem Core.setReg_part (off v : Nat) : (c.setReg off v).part = c.part := rfl
@[simp] theorem Core.setReg_mgt (off v : Nat) : (c.setReg off v).mgt = c.mgt := rfl
@[simp] theorem Core.setReg_latched (off v : Nat) : (c.setReg off v).latched = c.latched := rfl
@[simp] theorem Core.setReg_counters (off v : Nat) : (c.setReg off v).counters = c.counters := rfl
@[simp] theorem Core.setReg_stacked (off v : Nat) : (c.setReg off v).stacked = c.stacked := rfl
@[simp] theorem Core.setReg_hub (off v : Nat) : (c.setReg off v).hub = c.hub := rfl
@[simp] theorem Core.setReg_dram (off v : Nat) : (c.setReg off v).dram = c.dram := rfl
@[simp] theorem Core.setReg_hearths (off v : Nat) : (c.setReg off v).hearths = c.hearths := rfl
@[simp] theorem Core.setReg_scratchEpoch (off v : Nat) : (c.setReg off v).scratchEpoch = c.scratchEpoch := rfl
@[simp] theorem Core.setReg_smithies (off v : Nat) : (c.setReg off v).smithies = c.smithies := rfl
@[simp] theorem Core.setReg_tt (off v : Nat) : (c.setReg off v).tt = c.tt := rfl
@[simp] theorem Core.setReg_hash (off v : Nat) : (c.setReg off v).hash = c.hash := rfl
@[simp] theorem Core.setReg_picker (off v : Nat) : (c.setReg off v).picker = c.picker := rfl
@[simp] theorem Core.setReg_bellows (off v : Nat) : (c.setReg off v).bellows = c.bellows := rfl
@[simp] theorem Core.setReg_crucible (off v : Nat) : (c.setReg off v).crucible = c.crucible := rfl
@[simp] theorem Core.setReg_sync (off v : Nat) : (c.setReg off v).sync = c.sync := rfl
@[simp] theorem Core.setReg_pools (off v : Nat) : (c.setReg off v).pools = c.pools := rfl
@[simp] theorem Core.setReg_fabric (off v : Nat) : (c.setReg off v).fabric = c.fabric := rfl
@[simp] theorem Core.setReg_route (off v : Nat) : (c.setReg off v).route = c.route := rfl
@[simp] theorem Core.setReg_ports (off v : Nat) : (c.setReg off v).ports = c.ports := rfl
@[simp] theorem Core.setReg_snap (off v : Nat) : (c.setReg off v).snap = c.snap := rfl
@[simp] theorem Core.setReg_free (off v : Nat) : (c.setReg off v).free = c.free := rfl

@[simp] theorem Core.dropReq_part (r : OutReq) : (c.dropReq r).part = c.part := rfl
@[simp] theorem Core.dropReq_mgt (r : OutReq) : (c.dropReq r).mgt = c.mgt := rfl
@[simp] theorem Core.dropReq_cfg (r : OutReq) : (c.dropReq r).cfg = c.cfg := rfl
@[simp] theorem Core.dropReq_latched (r : OutReq) : (c.dropReq r).latched = c.latched := rfl
@[simp] theorem Core.dropReq_counters (r : OutReq) : (c.dropReq r).counters = c.counters := rfl
@[simp] theorem Core.dropReq_stacked (r : OutReq) : (c.dropReq r).stacked = c.stacked := rfl
@[simp] theorem Core.dropReq_hub (r : OutReq) : (c.dropReq r).hub = c.hub := rfl
@[simp] theorem Core.dropReq_dram (r : OutReq) : (c.dropReq r).dram = c.dram := rfl
@[simp] theorem Core.dropReq_hearths (r : OutReq) : (c.dropReq r).hearths = c.hearths := rfl
@[simp] theorem Core.dropReq_scratchEpoch (r : OutReq) : (c.dropReq r).scratchEpoch = c.scratchEpoch := rfl
@[simp] theorem Core.dropReq_smithies (r : OutReq) : (c.dropReq r).smithies = c.smithies := rfl
@[simp] theorem Core.dropReq_tt (r : OutReq) : (c.dropReq r).tt = c.tt := rfl
@[simp] theorem Core.dropReq_hash (r : OutReq) : (c.dropReq r).hash = c.hash := rfl
@[simp] theorem Core.dropReq_picker (r : OutReq) : (c.dropReq r).picker = c.picker := rfl
@[simp] theorem Core.dropReq_bellows (r : OutReq) : (c.dropReq r).bellows = c.bellows := rfl
@[simp] theorem Core.dropReq_crucible (r : OutReq) : (c.dropReq r).crucible = c.crucible := rfl
@[simp] theorem Core.dropReq_sync (r : OutReq) : (c.dropReq r).sync = c.sync := rfl
@[simp] theorem Core.dropReq_pools (r : OutReq) : (c.dropReq r).pools = c.pools := rfl
@[simp] theorem Core.dropReq_route (r : OutReq) : (c.dropReq r).route = c.route := rfl
@[simp] theorem Core.dropReq_ports (r : OutReq) : (c.dropReq r).ports = c.ports := rfl
@[simp] theorem Core.dropReq_snap (r : OutReq) : (c.dropReq r).snap = c.snap := rfl
@[simp] theorem Core.dropReq_free (r : OutReq) : (c.dropReq r).free = c.free := rfl

@[simp] theorem Core.dropXfer_part (i : Nat) : (c.dropXfer i).part = c.part := rfl
@[simp] theorem Core.dropXfer_mgt (i : Nat) : (c.dropXfer i).mgt = c.mgt := rfl
@[simp] theorem Core.dropXfer_cfg (i : Nat) : (c.dropXfer i).cfg = c.cfg := rfl
@[simp] theorem Core.dropXfer_latched (i : Nat) : (c.dropXfer i).latched = c.latched := rfl
@[simp] theorem Core.dropXfer_counters (i : Nat) : (c.dropXfer i).counters = c.counters := rfl
@[simp] theorem Core.dropXfer_stacked (i : Nat) : (c.dropXfer i).stacked = c.stacked := rfl
@[simp] theorem Core.dropXfer_hub (i : Nat) : (c.dropXfer i).hub = c.hub := rfl
@[simp] theorem Core.dropXfer_dram (i : Nat) : (c.dropXfer i).dram = c.dram := rfl
@[simp] theorem Core.dropXfer_hearths (i : Nat) : (c.dropXfer i).hearths = c.hearths := rfl
@[simp] theorem Core.dropXfer_scratchEpoch (i : Nat) : (c.dropXfer i).scratchEpoch = c.scratchEpoch := rfl
@[simp] theorem Core.dropXfer_smithies (i : Nat) : (c.dropXfer i).smithies = c.smithies := rfl
@[simp] theorem Core.dropXfer_tt (i : Nat) : (c.dropXfer i).tt = c.tt := rfl
@[simp] theorem Core.dropXfer_hash (i : Nat) : (c.dropXfer i).hash = c.hash := rfl
@[simp] theorem Core.dropXfer_picker (i : Nat) : (c.dropXfer i).picker = c.picker := rfl
@[simp] theorem Core.dropXfer_bellows (i : Nat) : (c.dropXfer i).bellows = c.bellows := rfl
@[simp] theorem Core.dropXfer_crucible (i : Nat) : (c.dropXfer i).crucible = c.crucible := rfl
@[simp] theorem Core.dropXfer_sync (i : Nat) : (c.dropXfer i).sync = c.sync := rfl
@[simp] theorem Core.dropXfer_pools (i : Nat) : (c.dropXfer i).pools = c.pools := rfl
@[simp] theorem Core.dropXfer_route (i : Nat) : (c.dropXfer i).route = c.route := rfl
@[simp] theorem Core.dropXfer_ports (i : Nat) : (c.dropXfer i).ports = c.ports := rfl
@[simp] theorem Core.dropXfer_snap (i : Nat) : (c.dropXfer i).snap = c.snap := rfl
@[simp] theorem Core.dropXfer_free (i : Nat) : (c.dropXfer i).free = c.free := rfl

@[simp] theorem State.setLink_core (p : Nat) (l : Link) : (s.setLink p l).core = s.core := rfl
@[simp] theorem State.setLink_power (p : Nat) (l : Link) : (s.setLink p l).power = s.power := rfl
@[simp] theorem State.setLink_pending (p : Nat) (l : Link) : (s.setLink p l).pending = s.pending := rfl
@[simp] theorem State.modLink_core (p : Nat) (f : Link → Link) : (s.modLink p f).core = s.core := rfl
@[simp] theorem State.modLink_power (p : Nat) (f : Link → Link) : (s.modLink p f).power = s.power := rfl
@[simp] theorem State.modLink_pending (p : Nat) (f : Link → Link) : (s.modLink p f).pending = s.pending := rfl

/-! What a unit reads. -/

theorem Core.hearth_modHearth (h j : Nat) (f : Hearth → Hearth) : (c.modHearth h f).hearth j = if j = h then f (c.hearth h) else c.hearth j := by
  simp only [Core.modHearth, Core.setHearth, Core.hearth, kvGet_kvPut]
  split <;> rfl

@[simp] theorem Core.hearth_modHearth_same (h : Nat) (f : Hearth → Hearth) : (c.modHearth h f).hearth h = f (c.hearth h) := by
  simp [Core.hearth_modHearth]

theorem Core.smithy_modSmithy (i j : Nat) (f : Smithy → Smithy) : (c.modSmithy i f).smithy j = if j = i then f (c.smithy i) else c.smithy j := by
  simp only [Core.modSmithy, Core.setSmithy, Core.smithy, kvGet_kvPut]
  split <;> rfl

theorem Core.port_modPort (q j : Nat) (f : HostPort → HostPort) : (c.modPort q f).port j = if j = q then f (c.port q) else c.port j := by
  simp only [Core.modPort, Core.setPort, Core.port, kvGet_kvPut]
  split <;> rfl

theorem Core.ring_modRing (q r j k : Nat) (f : Ring → Ring) :
    (c.modRing q r f).ring j k = if j = q ∧ k = r then f (c.ring q r) else c.ring j k := by
  simp only [Core.ring, Core.modRing, Core.port_modPort]
  by_cases hj : j = q
  · subst hj
    simp only [HostPort.ring, kvGet_kvPut, if_true, true_and]
    split <;> rfl
  · simp [hj]

theorem Core.rollCtx_setRollCtx (i j : Nat) (x : RollCtx) : (c.setRollCtx i x).rollCtx j = if j = i then x else c.rollCtx j := by
  simp only [Core.setRollCtx, Core.rollCtx, spGet_spPut]

theorem Core.poolSet_setPoolSet (p q : Nat) (x : PoolSet) : (c.setPoolSet p x).poolSet q = if q = p then x else c.poolSet q := by
  simp only [Core.setPoolSet, Core.poolSet, spGet_spPut]

theorem Core.held_setHeld (r j v : Nat) : (c.setHeld r v).held j = if j = r then v else c.held j := by
  simp only [Core.setHeld, Core.held, spGet_spPut]

@[simp] theorem Core.bumpBy_zero (k : Nat) : c.bumpBy k 0 = c := rfl

theorem Core.counter_bumpBy (k n j : Nat) : (c.bumpBy k n).counter j = if j = k ∧ n ≠ 0 then satAdd 32 (c.counter k) n else c.counter j := by
  by_cases hn : n = 0
  · subst hn; simp
  · simp only [Core.bumpBy, Core.counter, hn, if_false, spGet_spPut, ne_eq, not_false_eq_true, and_true]

theorem State.link_setLink (p j : Nat) (l : Link) : (s.setLink p l).link j = if j = p then l else s.link j := by
  simp only [State.setLink, State.link, kvGet_kvPut]
  split <;> rfl

theorem State.link_modLink (p j : Nat) (f : Link → Link) : (s.modLink p f).link j = if j = p then f (s.link p) else s.link j := by
  simp only [State.modLink, State.link_setLink]

/-! Registers of a sequencer (R103). -/

theorem Hearth.reg_zero (x : Hearth) : x.reg 0 = 0#32 := rfl

theorem Hearth.reg_setReg (x : Hearth) (r j : Nat) (v : Word32) : (x.setReg r v).reg j = if j = r ∧ r ≠ 0 then v else x.reg j := by
  unfold Hearth.setReg Hearth.reg
  by_cases hr : r = 0
  · subst hr; simp
  · by_cases hj : j = r
    · subst hj; simp [hr, kvGet_kvPut_same]
    · by_cases h0 : j = 0
      · simp [h0, Ne.symm hr]
      · simp [hr, h0, hj, kvGet_kvPut_ne _ _ hj]

end Sys2Proof.Machine
end

