-- ==== Sys2Proof/Laws/Edges.lean ====
section
/-!
SUPPORT. Sys2Proof/Laws/Edges.lean: what a unit that crosses an edge FIFO leaves as it was: of a host port, the memory controllers, the management block; and
what a register write over a port changes before it is judged.
-/

namespace Sys2Proof.Machine

variable (p : HostPort) (d : Dram) (w : Power) (c : Core) (s : State) (n q : Nat)

@[simp] theorem HostPort.heard_trained : (p.heard n).trained = p.trained := rfl
@[simp] theorem HostPort.heard_gen : (p.heard n).gen = p.gen := rfl
@[simp] theorem HostPort.heard_width : (p.heard n).width = p.width := rfl
@[simp] theorem HostPort.heard_perst : (p.heard n).perst = p.perst := rfl
@[simp] theorem HostPort.heard_lost : (p.heard n).lost = p.lost := rfl
@[simp] theorem HostPort.heard_rings : (p.heard n).rings = p.rings := rfl
@[simp] theorem HostPort.heard_masked : (p.heard n).masked = p.masked := rfl
@[simp] theorem HostPort.heard_pendingBits : (p.heard n).pendingBits = p.pendingBits := rfl
@[simp] theorem HostPort.heard_sent : (p.heard n).sent = p.sent := rfl
@[simp] theorem HostPort.heard_writes : (p.heard n).writes = p.writes := rfl
@[simp] theorem HostPort.heard_config : (p.heard n).config = p.config := rfl
@[simp] theorem HostPort.heard_sinceBeat : (p.heard n).sinceBeat = p.sinceBeat := rfl
@[simp] theorem HostPort.heard_outEdge : (p.heard n).outEdge = p.outEdge := rfl

@[simp] theorem HostPort.says_trained : (p.says n).trained = p.trained := rfl
@[simp] theorem HostPort.says_gen : (p.says n).gen = p.gen := rfl
@[simp] theorem HostPort.says_width : (p.says n).width = p.width := rfl
@[simp] theorem HostPort.says_perst : (p.says n).perst = p.perst := rfl
@[simp] theorem HostPort.says_lost : (p.says n).lost = p.lost := rfl
@[simp] theorem HostPort.says_rings : (p.says n).rings = p.rings := rfl
@[simp] theorem HostPort.says_masked : (p.says n).masked = p.masked := rfl
@[simp] theorem HostPort.says_pendingBits : (p.says n).pendingBits = p.pendingBits := rfl
@[simp] theorem HostPort.says_sent : (p.says n).sent = p.sent := rfl
@[simp] theorem HostPort.says_writes : (p.says n).writes = p.writes := rfl
@[simp] theorem HostPort.says_config : (p.says n).config = p.config := rfl
@[simp] theorem HostPort.says_sinceBeat : (p.says n).sinceBeat = p.sinceBeat := rfl
@[simp] theorem HostPort.says_inEdge : (p.says n).inEdge = p.inEdge := rfl

@[simp] theorem Dram.ticked_active : (d.ticked n).active = d.active := rfl
@[simp] theorem Dram.ticked_localSize : (d.ticked n).localSize = d.localSize := rfl
@[simp] theorem Dram.ticked_errors : (d.ticked n).errors = d.errors := rfl
@[simp] theorem Dram.ticked_watch : (d.ticked n).watch = d.watch := rfl
@[simp] theorem Dram.ticked_marked : (d.ticked n).marked = d.marked := rfl
@[simp] theorem Dram.ticked_retiredRows : (d.ticked n).retiredRows = d.retiredRows := rfl
@[simp] theorem Dram.ticked_retiredChannels : (d.ticked n).retiredChannels = d.retiredChannels := rfl
@[simp] theorem Dram.ticked_patrol : (d.ticked n).patrol = d.patrol := rfl
@[simp] theorem Dram.ticked_refreshes : (d.ticked n).refreshes = d.refreshes := rfl

@[simp] theorem Power.heard_stage : (w.heard n).stage = w.stage := rfl
@[simp] theorem Power.heard_waitFor : (w.heard n).waitFor = w.waitFor := rfl
@[simp] theorem Power.heard_failCode : (w.heard n).failCode = w.failCode := rfl
@[simp] theorem Power.heard_percent : (w.heard n).percent = w.percent := rfl
@[simp] theorem Power.heard_portsDone : (w.heard n).portsDone = w.portsDone := rfl
@[simp] theorem Power.heard_enable : (w.heard n).enable = w.enable := rfl
@[simp] theorem Power.heard_standbyOn : (w.heard n).standbyOn = w.standbyOn := rfl
@[simp] theorem Power.heard_mainOn : (w.heard n).mainOn = w.mainOn := rfl
@[simp] theorem Power.heard_thermTrip : (w.heard n).thermTrip = w.thermTrip := rfl
@[simp] theorem Power.heard_coreNow : (w.heard n).coreNow = w.coreNow := rfl
@[simp] theorem Power.heard_powerNow : (w.heard n).powerNow = w.powerNow := rfl
@[simp] theorem Power.heard_inputMv : (w.heard n).inputMv = w.inputMv := rfl
@[simp] theorem Power.heard_beatRate : (w.heard n).beatRate = w.beatRate := rfl
@[simp] theorem Power.heard_rates : (w.heard n).rates = w.rates := rfl
@[simp] theorem Power.heard_cap : (w.heard n).cap = w.cap := rfl
@[simp] theorem Power.heard_fixed : (w.heard n).fixed = w.fixed := rfl
@[simp] theorem Power.heard_coreSet : (w.heard n).coreSet = w.coreSet := rfl
@[simp] theorem Power.heard_hearthTemp : (w.heard n).hearthTemp = w.hearthTemp := rfl
@[simp] theorem Power.heard_layerTemp : (w.heard n).layerTemp = w.layerTemp := rfl
@[simp] theorem Power.heard_hot : (w.heard n).hot = w.hot := rfl
@[simp] theorem Power.heard_throttled : (w.heard n).throttled = w.throttled := rfl
@[simp] theorem Power.heard_tick : (w.heard n).tick = w.tick := rfl
@[simp] theorem Power.heard_meas : (w.heard n).meas = w.meas := rfl
@[simp] theorem Power.heard_flash : (w.heard n).flash = w.flash := rfl
@[simp] theorem Power.heard_bootedB : (w.heard n).bootedB = w.bootedB := rfl
@[simp] theorem Power.heard_running : (w.heard n).running = w.running := rfl
@[simp] theorem Power.heard_fusedMin : (w.heard n).fusedMin = w.fusedMin := rfl
@[simp] theorem Power.heard_rootKey : (w.heard n).rootKey = w.rootKey := rfl
@[simp] theorem Power.heard_svnCommit : (w.heard n).svnCommit = w.svnCommit := rfl
@[simp] theorem Power.heard_replies : (w.heard n).replies = w.replies := rfl
@[simp] theorem Power.heard_mgtOut : (w.heard n).mgtOut = w.mgtOut := rfl

@[simp] theorem Power.says_stage : (w.says n).stage = w.stage := rfl
@[simp] theorem Power.says_waitFor : (w.says n).waitFor = w.waitFor := rfl
@[simp] theorem Power.says_failCode : (w.says n).failCode = w.failCode := rfl
@[simp] theorem Power.says_percent : (w.says n).percent = w.percent := rfl
@[simp] theorem Power.says_portsDone : (w.says n).portsDone = w.portsDone := rfl
@[simp] theorem Power.says_enable : (w.says n).enable = w.enable := rfl
@[simp] theorem Power.says_standbyOn : (w.says n).standbyOn = w.standbyOn := rfl
@[simp] theorem Power.says_mainOn : (w.says n).mainOn = w.mainOn := rfl
@[simp] theorem Power.says_thermTrip : (w.says n).thermTrip = w.thermTrip := rfl
@[simp] theorem Power.says_coreNow : (w.says n).coreNow = w.coreNow := rfl
@[simp] theorem Power.says_powerNow : (w.says n).powerNow = w.powerNow := rfl
@[simp] theorem Power.says_inputMv : (w.says n).inputMv = w.inputMv := rfl
@[simp] theorem Power.says_beatRate : (w.says n).beatRate = w.beatRate := rfl
@[simp] theorem Power.says_rates : (w.says n).rates = w.rates := rfl
@[simp] theorem Power.says_cap : (w.says n).cap = w.cap := rfl
@[simp] theorem Power.says_fixed : (w.says n).fixed = w.fixed := rfl
@[simp] theorem Power.says_coreSet : (w.says n).coreSet = w.coreSet := rfl
@[simp] theorem Power.says_hearthTemp : (w.says n).hearthTemp = w.hearthTemp := rfl
@[simp] theorem Power.says_layerTemp : (w.says n).layerTemp = w.layerTemp := rfl
@[simp] theorem Power.says_hot : (w.says n).hot = w.hot := rfl
@[simp] theorem Power.says_throttled : (w.says n).throttled = w.throttled := rfl
@[simp] theorem Power.says_tick : (w.says n).tick = w.tick := rfl
@[simp] theorem Power.says_meas : (w.says n).meas = w.meas := rfl
@[simp] theorem Power.says_flash : (w.says n).flash = w.flash := rfl
@[simp] theorem Power.says_bootedB : (w.says n).bootedB = w.bootedB := rfl
@[simp] theorem Power.says_running : (w.says n).running = w.running := rfl
@[simp] theorem Power.says_fusedMin : (w.says n).fusedMin = w.fusedMin := rfl
@[simp] theorem Power.says_rootKey : (w.says n).rootKey = w.rootKey := rfl
@[simp] theorem Power.says_svnCommit : (w.says n).svnCommit = w.svnCommit := rfl
@[simp] theorem Power.says_replies : (w.says n).replies = w.replies := rfl
@[simp] theorem Power.says_mgtIn : (w.says n).mgtIn = w.mgtIn := rfl

theorem Core.hostIn_trained (h : (c.port q).trained = true) : c.hostIn q = c.modPort q (fun x => x.heard 1) := by
  simp [Core.hostIn, h]

@[simp] theorem Core.hostIn_part : (c.hostIn q).part = c.part := by
  unfold Core.hostIn
  split <;> rfl
@[simp] theorem Core.hostIn_mgt : (c.hostIn q).mgt = c.mgt := by
  unfold Core.hostIn
  split <;> rfl
@[simp] theorem Core.hostIn_cfg : (c.hostIn q).cfg = c.cfg := by
  unfold Core.hostIn
  split <;> rfl
@[simp] theorem Core.hostIn_latched : (c.hostIn q).latched = c.latched := by
  unfold Core.hostIn
  split <;> rfl
@[simp] theorem Core.hostIn_counters : (c.hostIn q).counters = c.counters := by
  unfold Core.hostIn
  split <;> rfl
@[simp] theorem Core.hostIn_stacked : (c.hostIn q).stacked = c.stacked := by
  unfold Core.hostIn
  split <;> rfl
@[simp] theorem Core.hostIn_hub : (c.hostIn q).hub = c.hub := by
  unfold Core.hostIn
  split <;> rfl
@[simp] theorem Core.hostIn_dram : (c.hostIn q).dram = c.dram := by
  unfold Core.hostIn
  split <;> rfl
@[simp] theorem Core.hostIn_hearths : (c.hostIn q).hearths = c.hearths := by
  unfold Core.hostIn
  split <;> rfl
@[simp] theorem Core.hostIn_scratchEpoch : (c.hostIn q).scratchEpoch = c.scratchEpoch := by
  unfold Core.hostIn
  split <;> rfl
@[simp] theorem Core.hostIn_smithies : (c.hostIn q).smithies = c.smithies := by
  unfold Core.hostIn
  split <;> rfl
@[simp] theorem Core.hostIn_tt : (c.hostIn q).tt = c.tt := by
  unfold Core.hostIn
  split <;> rfl
@[simp] theorem Core.hostIn_hash : (c.hostIn q).hash = c.hash := by
  unfold Core.hostIn
  split <;> rfl
@[simp] theorem Core.hostIn_picker : (c.hostIn q).picker = c.picker := by
  unfold Core.hostIn
  split <;> rfl
@[simp] theorem Core.hostIn_bellows : (c.hostIn q).bellows = c.bellows := by
  unfold Core.hostIn
  split <;> rfl
@[simp] theorem Core.hostIn_crucible : (c.hostIn q).crucible = c.crucible := by
  unfold Core.hostIn
  split <;> rfl
@[simp] theorem Core.hostIn_sync : (c.hostIn q).sync = c.sync := by
  unfold Core.hostIn
  split <;> rfl
@[simp] theorem Core.hostIn_pools : (c.hostIn q).pools = c.pools := by
  unfold Core.hostIn
  split <;> rfl
@[simp] theorem Core.hostIn_fabric : (c.hostIn q).fabric = c.fabric := by
  unfold Core.hostIn
  split <;> rfl
@[simp] theorem Core.hostIn_route : (c.hostIn q).route = c.route := by
  unfold Core.hostIn
  split <;> rfl
@[simp] theorem Core.hostIn_snap : (c.hostIn q).snap = c.snap := by
  unfold Core.hostIn
  split <;> rfl
@[simp] theorem Core.hostIn_free : (c.hostIn q).free = c.free := by
  unfold Core.hostIn
  split <;> rfl

@[simp] theorem State.heard_power : (s.heard q).power = s.power := rfl
@[simp] theorem State.heard_links : (s.heard q).links = s.links := rfl
@[simp] theorem State.heard_pending : (s.heard q).pending = s.pending := rfl
@[simp] theorem State.heard_core : (s.heard q).core = s.core.hostIn q := rfl

end Sys2Proof.Machine
end

