-- ==== Sys2Proof/Laws/Ops.lean ====
section
/-!
SUPPORT. Sys2Proof/Laws/Ops.lean: the shared operations. How an operation that may fault runs, part by part; what the checks and the accesses of an
operation of a Lesson do where nothing stands in their way; what issue does with an operation that runs.
-/

namespace Sys2Proof.Machine

variable {α β : Type} (c : Core)

/-! Runs of operations. -/

@[simp] theorem run_pure (a : α) : (pure a : OpM α).run c = .ok a c := rfl
@[simp] theorem run_get : (get : OpM Core).run c = .ok c c := rfl
@[simp] theorem run_set (d : Core) : (set d : OpM Unit).run c = .ok () d := rfl
@[simp] theorem run_modify (f : Core → Core) : (modify f : OpM Unit).run c = .ok () (f c) := rfl
@[simp] theorem run_update (f : Core → Core) : (update f).run c = .ok () (f c) := rfl
@[simp] theorem run_throw (f : FaultReq) : (throw f : OpM α).run c = .error f c := rfl
@[simp] theorem run_failWith (st a : Nat) : (failWith st a : OpM α).run c = .error { cls := 0, status := st, addr := a } c := rfl

theorem run_bind (x : OpM α) (f : α → OpM β) :
    (x >>= f).run c = match x.run c with | .ok a d => (f a).run d | .error e d => .error e d := by
  simp only [bind, EStateM.bind, EStateM.run]
  cases x c <;> rfl

theorem run_bind_ok {x : OpM α} {f : α → OpM β} {a : α} {d : Core} (h : x.run c = .ok a d) : (x >>= f).run c = (f a).run d := by
  rw [run_bind, h]

@[simp] theorem run_require (b : Bool) (st : Nat) : (require b st).run c = if b then .ok () c else .error { cls := 0, status := st } c := by
  cases b <;> rfl

@[simp] theorem run_requireLent (b : Bool) : (requireLent b).run c = if b then .ok () c else .error { cls := clsBreach, status := stFormat } c := by
  cases b <;> rfl

@[simp] theorem run_ite (b : Prop) [Decidable b] (x y : OpM α) : (if b then x else y).run c = if b then x.run c else y.run c := by
  split <;> rfl

/-! Accesses where no error of the symbol code stands. -/

theorem run_senseAll (st : StoreId) (l : List Nat) (h : c.dram.errors = []) : (senseAll st l).run c = .ok () c := by
  simp [senseAll, h]

theorem run_senseWrite (st : StoreId) (l : List Nat) (h : c.dram.errors = []) (hs : st ≠ .stacked) : (senseWrite st l).run c = .ok () c := by
  simp [senseWrite, run_senseAll c _ _ h, h, hs]

theorem run_senseWord (st : StoreId) (b : Nat) (h : c.dram.errors = []) : (senseWord st b).run c = .ok () c := by
  simp [senseWord, h]

theorem run_senseSpan (st : StoreId) (b n : Nat) (h : c.dram.errors = []) : (senseSpan st b n).run c = .ok () c := by
  simp [senseSpan, h]

theorem run_senseHub (a n : Nat) (h : c.dram.errors = []) : (senseHub a n).run c = .ok () c := by
  unfold senseHub
  split
  · exact run_senseSpan c _ _ _ h
  · rfl

theorem run_sensePath (x : Nat) (h : c.dram.errors = []) : (sensePath x).run c = .ok () c := by
  simp [sensePath, h, run_senseWord]

theorem freshSpan_none (st : StoreId) (b n : Nat) (h : c.dram.errors = []) : c.freshSpan st b n = c := by
  simp [Core.freshSpan, h]

theorem run_readScratch (h off n : Nat) (he : c.dram.errors = []) :
    (readScratch h off n).run c = .ok ((List.range n).map (fun i => c.scratchByte h (off + i))) c := by
  simp only [readScratch, run_bind, run_senseAll c _ _ he]
  rfl

theorem run_writeScratch (h off : Nat) (d : List Byte) (he : c.dram.errors = []) :
    (writeScratch h off d).run c = .ok () (c.modHearth h (fun x => { x with scratch := memPutAll none x.scratch off d })) := by
  simp [writeScratch, run_senseWrite c _ _ he]

/-! Issue (R124 to R128). -/

theorem perform_ok {h slot : Nat} {keep : Core → Core} {body : OpM Unit} {d : Core} (hb : body.run c = .ok () d) : c.perform h slot keep body = d := by
  simp [Core.perform, hb]

theorem issue_ok {h : Nat} {op : SlotOp} {body : OpM Unit} {d : Core} (hc : c.canIssue h op = true) (hs : c.startsNow h op = true)
    (hr : body.run (c.issued h) = .ok () d) : c.issue h op body = d := by
  unfold Core.startsNow at hs
  simp only [Core.issue, Core.issueNow, hc, hs, Bool.not_true, Bool.or_true, if_true, Bool.false_eq_true, if_false]
  exact perform_ok _ hr

theorem issue_queued {h : Nat} {op : SlotOp} (body : OpM Unit) (hc : c.canIssue h op = true) (hl : latches op = false) (hs : c.startsNow h op = false) :
    c.issue h op body = (c.issued h).queueOp h ((c.hearth h).issued op) := by
  unfold Core.startsNow at hs
  simp only [Core.issue, Core.issueNow, hc, hs, hl, Bool.not_true, Bool.or_false, Bool.false_eq_true, if_false]
  rfl

theorem issue_not {h : Nat} {op : SlotOp} (body : OpM Unit) (hc : c.canIssue h op = false) : c.issue h op body = c := by
  simp [Core.issue, hc]

theorem tongsDo_ok {h slot : Nat} {l : List Touch} {op : OpM Unit} {d : Core} (hf : c.tongsFree h slot l = true) (hr : op.run c = .ok () d) :
    c.tongsDo h slot l op = d := by
  simp [Core.tongsDo, hf, perform_ok c hr]

/-! The router intake (R198). -/

theorem intakeRecord_stalls (a : Actor) (slot record : Nat)
    (h : c.recordBatch record = none ∧ intakeRoom ≤ c.bellows.intake.length ∨ (c.bellows.stalled.any (fun x => x.1 == a && x.2.1 == slot)) = true) :
    (intakeRecord a slot record).run c = .ok () (c.modBellows (fun x => { x with stalled := x.stalled ++ [(a, slot, record)] })) := by
  cases hb : c.recordBatch record <;> cases hs : c.bellows.stalled.any (fun x => x.1 == a && x.2.1 == slot) <;>
    simp_all [intakeRecord]

theorem intakeRecord_waits (a : Actor) (slot record : Nat) (hb : c.recordBatch record = none) (hr : c.bellows.intake.length < intakeRoom)
    (hs : c.bellows.stalled.any (fun x => x.1 == a && x.2.1 == slot) = false) :
    (intakeRecord a slot record).run c = .ok () (c.modBellows (fun x => { x with intake := x.intake ++ [record] })) := by
  simp [intakeRecord, hb, hs, Nat.not_le.mpr hr]

end Sys2Proof.Machine
end

