-- ==== Sys2Proof/Laws/Links.lean ====
section
/-!
SUPPORT. Sys2Proof/Laws/Links.lean: a transaction's arrival on a port: what being accepted, being held and leaving a receive buffer leave as it was, and when it
is taken at once.
-/

namespace Sys2Proof.Machine

variable (s : State)

theorem State.portSensed_none (p : Nat) (h : s.core.dram.errors = []) : s.portSensed p = (s.core, true) := by
  simp [State.portSensed, run_senseWord s.core _ _ h]

theorem State.sensed_none (p : Nat) (h : s.core.dram.errors = []) : s.sensed p = s := by
  simp [State.sensed, State.portSensed_none s p h]

/-! Counted retries are all that acceptance changes on the job side. -/

theorem State.retryCounted_dram (p : Nat) : (s.retryCounted p).dram = s.core.dram := by
  unfold State.retryCounted
  split <;> rfl

@[simp] theorem State.accept_power (w : Head) (vc n : Nat) : (s.accept w vc n).power = s.power := rfl
@[simp] theorem State.accept_pending (w : Head) (vc n : Nat) : (s.accept w vc n).pending = s.pending := rfl
@[simp] theorem State.accept_core (w : Head) (vc n : Nat) : (s.accept w vc n).core = s.retryCounted w.port := rfl
@[simp] theorem State.hold_power (w : Head) (vc n : Nat) (i : Instr) : (s.hold w vc n i).power = s.power := rfl
@[simp] theorem State.hold_pending (w : Head) (vc n : Nat) (i : Instr) : (s.hold w vc n i).pending = s.pending := rfl
@[simp] theorem State.hold_core (w : Head) (vc n : Nat) (i : Instr) : (s.hold w vc n i).core = s.retryCounted w.port := rfl

theorem State.accept_link (w : Head) (vc n q : Nat) (h : q ≠ w.port) : (s.accept w vc n).link q = s.link q :=
  (State.link_setLink s w.port q _).trans (if_neg h)

theorem State.hold_link (w : Head) (vc n q : Nat) (i : Instr) (h : q ≠ w.port) : (s.hold w vc n i).link q = s.link q :=
  (State.link_setLink s w.port q _).trans (if_neg h)

/-! What an arrival does. -/

theorem State.arrive_stale (w : Head) (vc n : Nat) (i : Instr) (h : (s.link w.port).inOrder w = false) : s.arrive w vc n i = s := by
  simp [State.arrive, h]

theorem State.arrive_held (w : Head) (vc n : Nat) (i : Instr) (h : (s.link w.port).inOrder w = true)
    (hb : ((s.link w.port).channelEmpty vc && s.frameReady w.port vc i) = false) : s.arrive w vc n i = s.hold w vc n i := by
  simp [State.arrive, h, hb]

theorem State.arrive_taken (w : Head) (vc n : Nat) (i : Instr) (h : (s.link w.port).inOrder w = true)
    (hb : ((s.link w.port).channelEmpty vc && s.frameReady w.port vc i) = true) (he : s.core.dram.errors = []) :
    s.arrive w vc n i = (s.accept w vc n).takeFrame i := by
  have hs : (s.accept w vc n).portSensed w.port = ((s.accept w vc n).core, true) :=
    State.portSensed_none _ _ (by rw [State.accept_core, State.retryCounted_dram, he])
  simp [State.arrive, h, hb, hs]
  rfl

end Sys2Proof.Machine
end

