-- ==== Sys2Proof/Laws/Memory.lean ====
section
/-!
SUPPORT. Sys2Proof/Laws/Memory.lean: byte stores: a byte read after a write, the bytes a write leaves alone, and the canonical form, which every
operation of Store.lean keeps and the reset state has.
-/

namespace Sys2Proof.Machine

theorem memGet_memPut (z : Option Byte) (m : Mem) (a x : Nat) (b : Byte) : memGet z (memPut z m a b) x = if x = a then some b else memGet z m x := by
  unfold memPut
  by_cases hx : x = a
  · subst hx
    split
    · rename_i h; simp [memGet, kvGet_kvDel_same, h]
    · simp [memGet, kvGet_kvPut_same]
  · split <;> simp [memGet, kvGet_kvDel_ne m hx, kvGet_kvPut_ne m b hx]

theorem memGet_memPutAll_outside (z : Option Byte) (d : List Byte) :
    ∀ (m : Mem) (a x : Nat), x < a ∨ a + d.length ≤ x → memGet z (memPutAll z m a d) x = memGet z m x := by
  induction d with
  | nil => intros; rfl
  | cons b r ih =>
    intro m a x hx
    have hne : x ≠ a := by simp at hx; omega
    rw [memPutAll, ih _ _ _ (by simp at hx ⊢; omega), memGet_memPut]
    simp [hne]

theorem memGet_memPutAll_inside (z : Option Byte) (d : List Byte) :
    ∀ (m : Mem) (a i : Nat), i < d.length → memGet z (memPutAll z m a d) (a + i) = d[i]? := by
  induction d with
  | nil => intro m a i h; simp at h
  | cons b r ih =>
    intro m a i hi
    cases i with
    | zero =>
      rw [memPutAll, memGet_memPutAll_outside z r _ _ _ (by omega), memGet_memPut]
      simp
    | succ i =>
      have := ih (memPut z m a b) (a + 1) i (by simpa using hi)
      rw [memPutAll, show a + (i + 1) = a + 1 + i by omega, this]
      simp

theorem cellsWf_mono (z : Option Byte) (m : Mem) {lo lo' : Nat} (h : lo' ≤ lo) (hm : cellsWf z lo m = true) : cellsWf z lo' m = true := by
  cases m with
  | nil => rfl
  | cons e r => obtain ⟨a, b⟩ := e; simp [cellsWf] at hm ⊢; exact ⟨⟨by omega, hm.1.2⟩, hm.2⟩

theorem cellsWf_kvPut (z : Option Byte) (b : Byte) (hb : z ≠ some b) : ∀ (m : Mem) (lo a : Nat), lo ≤ a → cellsWf z lo m = true →
    cellsWf z lo (kvPut m a b) = true := by
  intro m
  induction m with
  | nil => intro lo a h _; simp [kvPut, cellsWf, h, hb]
  | cons e r ih =>
    obtain ⟨x, w⟩ := e
    intro lo a h hm
    simp [cellsWf] at hm
    unfold kvPut
    split
    · simp [cellsWf, h, hb, hm.1.2, hm.2]; omega
    · split
      · rename_i hk; subst hk; simp [cellsWf, h, hb, hm.2]
      · simp [cellsWf, hm.1.1, hm.1.2]
        exact ih _ _ (by omega) hm.2

theorem cellsWf_kvDel (z : Option Byte) (a : Nat) : ∀ (m : Mem) (lo : Nat), cellsWf z lo m = true → cellsWf z lo (kvDel m a) = true := by
  intro m
  induction m with
  | nil => intros; rfl
  | cons e r ih =>
    obtain ⟨x, w⟩ := e
    intro lo hm
    simp [cellsWf] at hm
    unfold kvDel
    split
    · exact cellsWf_mono z _ (by omega) (ih _ hm.2)
    · simp [cellsWf, hm.1.1, hm.1.2, ih _ hm.2]

/-- Every write of a byte keeps the canonical form. -/
theorem memPut_wf (z : Option Byte) (m : Mem) (a : Nat) (b : Byte) (h : Memory.wf z m = true) : Memory.wf z (memPut z m a b) = true := by
  unfold memPut
  split
  · exact cellsWf_kvDel z a m 0 h
  · rename_i hb; exact cellsWf_kvPut z b hb m 0 a (by omega) h

/-- Every write of bytes keeps the canonical form. -/
theorem memPutAll_wf (z : Option Byte) (d : List Byte) : ∀ (m : Mem) (a : Nat), Memory.wf z m = true → Memory.wf z (memPutAll z m a d) = true := by
  induction d with
  | nil => intro m a h; exact h
  | cons b r ih => intro m a h; exact ih _ _ (memPut_wf z m a b h)

theorem cellsWf_filter (z : Option Byte) (p : Nat × Byte → Bool) : ∀ (m : Mem) (lo : Nat), cellsWf z lo m = true → cellsWf z lo (m.filter p) = true := by
  intro m
  induction m with
  | nil => intros; rfl
  | cons e r ih =>
    obtain ⟨x, w⟩ := e
    intro lo hm
    simp [cellsWf] at hm
    cases hp : p (x, w) with
    | true => simp [hp, cellsWf, hm.1.1, hm.1.2, ih _ hm.2]
    | false => simpa [hp] using cellsWf_mono z _ (show lo ≤ x + 1 by omega) (ih _ hm.2)

/-- Cells taken out keep the canonical form. -/
theorem memClear_wf (z : Option Byte) (m : Mem) (a n : Nat) (h : Memory.wf z m = true) : Memory.wf z (memClear m a n) = true :=
  cellsWf_filter z _ m 0 h

/-- The reset state's stores have the canonical form. -/
theorem reset_memory_wf : Memory.wf zeroByte State.reset.core.stacked = true ∧ Memory.wf zeroByte State.reset.core.hub = true := by decide

end Sys2Proof.Machine
end

