-- ==== Sys2Proof/Tests/Slice0.lean ====
section
/-!
SUPPORT. Sys2Proof/Tests/Slice0.lean: tests of the model's own: ill-formed commands, slots by hand, and for each statement states and operands that meet its
hypotheses.
-/

namespace Sys2Proof.Tests

open Sys2Proof.Machine

set_option Elab.async false

/-! Slots written out field by field, most significant first, from Tables 4-4 to 4-9 (value, width). -/

/-- A number from its fields, most significant first, and their total width. -/
def fieldsOf (l : List (Nat × Nat)) : Nat × Nat := l.foldl (fun a f => (a.1 * 2 ^ f.2 + f.1, a.2 + f.2)) (0, 0)

/-- Whether 48 bits spelled by fields decode in a slot to an operation. -/
def spells (k : Nat) (l : List (Nat × Nat)) (o : Option SlotOp) : Bool := let w := fieldsOf l; w.2 == 48 && decide (decodeSlot k w.1 = o)

theorem test_slotsOfTongs :
    spells 0 [(1, 6), (5, 3), (1, 4), (2, 4), (3, 4), (17, 5), (4097, 13), (1, 1), (0, 1), (0, 7)]
      (some (.tload { desc := 5, row0 := 1, col0 := 2, rows := 3, cols32 := 17, scratch := 4097, transpose := true, idx := false })) ∧
    spells 0 [(2, 6), (6, 3), (8190, 13), (9, 4), (31, 5), (77, 13), (4, 4)]
      (some (.tgather { desc := 6, index := 8190, count := 9, cols32 := 31, scratch := 77, col0 := 4 })) ∧
    spells 0 [(3, 6), (12, 13), (8191, 13), (0xBEEF, 16)] (some (.tfill { scratch := 12, length := 8191, pattern := 0xBEEF })) ∧
    spells 1 [(1, 6), (0, 3), (15, 4), (14, 4), (13, 4), (1, 5), (2, 13), (0, 1), (9, 4), (1, 1), (0, 3)]
      (some (.tstore { desc := 0, row0 := 15, col0 := 14, rows := 13, cols32 := 1, scratch := 2, transpose := false, srcFmt := 9, idx := true })) ∧
    spells 1 [(2, 6), (3, 3), (100, 13), (1, 4), (2, 5), (200, 13), (15, 4)]
      (some (.tscatter { desc := 3, index := 100, count := 1, cols32 := 2, scratch := 200, col0 := 15 })) := by decide +kernel

theorem test_slotsOfAnvilAndTemper :
    spells 2 [(1, 6), (1, 1), (0, 1), (1, 1), (300, 13), (7, 4), (8, 4), (1, 1), (0, 17)]
      (some (.aload { pair := 1, kinner := false, narrow := true, scratch := 300, k0 := 7, n0 := 8, idx := true })) ∧
    spells 2 [(2, 6), (0, 1), (1, 1), (12, 4), (1, 1), (0, 1), (44, 13), (5, 4), (6, 4), (0, 1), (0, 12)]
      (some (.astream { pair := 0, narrow := true, g := 12, opens := true, closes := false, scratch := 44, base := 5, rows := 6, idx := false })) ∧
    spells 2 [(3, 6), (11, 4), (7, 3), (1, 4), (2, 4), (3, 4), (4, 4), (0, 19)] (some (.abind { g := 11, out := 7, chain := 1, m0 := 2, n0 := 3, split := 4 })) ∧
    spells 2 [(4, 6), (13, 4), (0, 1), (0, 37)] (some (.aclose { g := 13, narrow := false })) ∧
    spells 2 [(5, 6), (1, 1), (2, 4), (8191, 13), (1, 1), (0, 23)] (some (.acatch { pair := 1, g := 2, list := 8191, idx := true })) ∧
    spells 3 [(1, 6), (15, 4), (1023, 10), (0, 28)] (some (.vdef 15 1023)) ∧
    spells 3 [(2, 6), (3, 4), (4, 4), (555, 13), (2, 3), (5, 4), (6, 4), (1, 1), (0, 9)]
      (some (.vrun { chain := 3, rows := 4, src := 555, out := 2, m0 := 5, n0 := 6, idx := true })) ∧
    spells 3 [(3, 6), (9, 4), (0, 38)] (some (.vlen 9)) := by decide +kernel

theorem test_slotsOfTalliesAndControl :
    spells 4 [(1, 6), (2, 2), (65535, 16), (3, 4), (0, 4), (4660, 16)] (some (.wait { scope := 2, index := 65535, n := 3, dev := 0, imm := 4660 })) ∧
    spells 4 [(2, 6), (2, 2), (256, 16), (0, 4), (7, 4), (9, 16)] (some (.signal { scope := 2, index := 256, n := 0, dev := 7, imm := 9 })) ∧
    spells 4 [(3, 6), (1, 2), (255, 16), (0, 4), (0, 4), (1, 16)] (some (.sub { scope := 1, index := 255, n := 0, dev := 0, imm := 1 })) ∧
    spells 4 [(4, 6), (200, 8), (2, 2), (99999, 17), (0, 15)] (some (.roll { ctx := 200, red := 2, payload := 99999 })) ∧
    spells 4 [(5, 6), (0, 42)] (some .fence) ∧
    spells 5 [(1, 6), (3, 4), (4, 4), (20000, 15), (0, 3), (12, 16)] (some (.loop { count := 3, index := 4, endW := 20000, imm := 12 })) ∧
    spells 5 [(2, 6), (6, 4), (1, 2), (0, 36)] (some (.brk { reg := 6, cond := 1, target := 0 })) ∧
    spells 5 [(3, 6), (6, 4), (2, 2), (32767, 15), (0, 21)] (some (.jump { reg := 6, cond := 2, target := 32767 })) ∧
    spells 5 [(4, 6), (1, 4), (2, 4), (3, 4), (5, 3), (1, 1), (0xFFFFFF, 24), (0, 2)]
      (some (.alu { d := 1, a := 2, b := 3, fn := 5, imm := true, imm24 := 0xFFFFFF })) ∧
    spells 5 [(5, 6), (8, 4), (0x12345678, 32), (0, 6)] (some (.li 8 0x12345678)) ∧
    spells 5 [(6, 6), (8, 4), (0x7FFFFC, 23), (0, 15)] (some (.ldx 8 0x7FFFFC)) ∧
    spells 5 [(7, 6), (3, 2), (0, 40)] (some (.take 3)) := by decide +kernel

/-- Slots that the tables refuse: a reserved bit, an absent descriptor, a length of 0, a narrow group of 13, a Tally past its scope, a condition of 3, an
unaligned LDX, an unknown opcode. -/
theorem test_slotsRefused :
    spells 0 [(1, 6), (5, 3), (0, 38), (1, 1)] none ∧ spells 0 [(1, 6), (7, 3), (0, 39)] none ∧ spells 0 [(3, 6), (12, 13), (0, 13), (1, 16)] none ∧
    spells 2 [(4, 6), (13, 4), (1, 1), (0, 37)] none ∧ spells 4 [(1, 6), (0, 2), (64, 16), (0, 24)] none ∧ spells 4 [(2, 6), (3, 2), (0, 40)] none ∧
    spells 4 [(1, 6), (0, 2), (1, 16), (0, 4), (1, 4), (0, 16)] none ∧ spells 4 [(4, 6), (0, 8), (3, 2), (0, 32)] none ∧ spells 5 [(2, 6), (6, 4), (3, 2), (0, 36)] none ∧
    spells 5 [(6, 6), (8, 4), (2, 23), (0, 15)] none ∧ spells 3 [(0, 48)] none ∧ spells 5 [(8, 6), (0, 42)] none := by decide +kernel

/-! Ill-formed commands: one for each kind of check of WellFormed.lean. -/

/-- Whether every command of a list is ill-formed. -/
def illFormed (l : List Instr) : Bool := l.all (fun i => !i.WellFormed)

/-- Bytes of zero. -/
def noughts (n : Nat) : List Byte := List.replicate n 0#8

/-- The header of a frame that comes in on a port. -/
def on (p : Nat) : Head := { port := p }

/-- An origin, a message and readings to spoil. -/
def goodOrigin : Origin := ⟨1, 63, 65535⟩
def goodPull : PullF := { layer := 1, expert := 2, step := 3, revision := 4, requester := 5, epoch := 6, slot := 7 }
def goodRoll : RollMsg := { ctx := 1, gen := 2, sender := 3, red := 0, tenant := 0, payload := noughts 64 }
def noFindings : BootFindings := { badRows := [], badHearths := [] }
def goodImage : Image := { kind := 1, version := 0, payload := [], signature := noughts 512, certificate := [], signed := true }
def goodReadings : Readings := { avg1ms := 1, avg10us := 1, inputMv := 48000, beatRate := 1, hearths := List.replicate 88 30, layers := List.replicate 16 30 }

theorem test_illFormedDescriptors :
    (Instr.opFill goodOrigin {}).WellFormed ∧ (Instr.opRunLend goodOrigin { lend := true }).WellFormed ∧
    illFormed [.opFill ⟨2, 0, 0⟩ {}, .opCopy ⟨0, 64, 0⟩ {}, .opSignal ⟨0, 0, 65536⟩ {}, .opRoll goodOrigin { tag := 2 ^ 32 }, .opCard goodOrigin { path := 65536 },
      .opSeat goodOrigin { rsv := 2 ^ 67 }, .opLessonLoad goodOrigin { a := 2 ^ 64 }, .forwardBatch goodOrigin { q := 2 ^ 64 }, .opCrucibleStep goodOrigin { kb := 2 ^ 32 },
      .opRun goodOrigin { lend := true }, .opRunLend goodOrigin {}] := by decide +kernel

theorem test_illFormedSlots :
    illFormed [.tload 0 { desc := 7, row0 := 0, col0 := 0, rows := 0, cols32 := 1, scratch := 0, transpose := false, idx := false },
      .tgather 0 { desc := 0, index := 8192, count := 0, cols32 := 0, scratch := 0, col0 := 0 }, .tfill 88 { scratch := 0, length := 1, pattern := 0 },
      .tfill 0 { scratch := 0, length := 0, pattern := 0 }, .tfill 0 { scratch := 0, length := 1, pattern := 65536 },
      .tstore 0 { desc := 0, row0 := 0, col0 := 0, rows := 0, cols32 := 32, scratch := 0, transpose := false, srcFmt := 0, idx := false },
      .tscatter 0 { desc := 7, index := 0, count := 0, cols32 := 0, scratch := 0, col0 := 0 }, .combineScatter 88 { desc := 0, index := 0, count := 0, cols32 := 0, scratch := 0, col0 := 0 },
      .hashScatter 0 { desc := 0, index := 0, count := 16, cols32 := 0, scratch := 0, col0 := 0 },
      .aload 0 { pair := 2, kinner := false, narrow := false, scratch := 0, k0 := 0, n0 := 0, idx := false },
      .astream 0 { pair := 0, narrow := true, g := 13, opens := false, closes := false, scratch := 0, base := 0, rows := 0, idx := false },
      .abind 0 { g := 0, out := 8, chain := 0, m0 := 0, n0 := 0, split := 0 }, .aclose 0 { g := 13, narrow := true }, .acatch 0 { pair := 0, g := 16, list := 0, idx := false },
      .groupWriteback 88, .vdef 0 16 0, .vdef 0 0 1024, .vrun 0 { chain := 0, rows := 0, src := 0, out := 8, m0 := 0, n0 := 0, idx := false }, .vlen 0 16,
      .wait 0 { scope := 0, index := 64, n := 0, dev := 0, imm := 0 }, .wait 0 { scope := 0, index := 0, n := 0, dev := 1, imm := 0 }, .waitSatisfied 88,
      .signal 0 { scope := 3, index := 0, n := 0, dev := 0, imm := 0 }, .sub 0 { scope := 1, index := 256, n := 0, dev := 0, imm := 0 },
      .roll 0 { ctx := 0, red := 3, payload := 0 }, .fence 88, .loop 0 { count := 0, index := 0, endW := 32768, imm := 0 }, .brk 0 { reg := 0, cond := 3, target := 0 },
      .brk 0 { reg := 0, cond := 0, target := 1 }, .jump 0 { reg := 0, cond := 0, target := 32768 }, .alu 0 { d := 0, a := 0, b := 0, fn := 8, imm := false, imm24 := 0 },
      .li 0 0 (2 ^ 32), .ldx 0 0 2, .take 0 4, .timetableItemTaken 88, .runEnd 88, .lentItemTake 88, .lentBudgetExpiry 88] := by decide +kernel

theorem test_illFormedMessages :
    (Instr.pullRequest (on 31) goodPull).WellFormed ∧ (Instr.rollArrivalMsg (on 0) goodRoll).WellFormed ∧ (Instr.loadRequest (on 0) {}).WellFormed ∧
    illFormed [.routerRecord (2 ^ 512), .timetablePost 4, .intakeTimeout 65536, .pullRequest (on 32) goodPull, .pullRequest (on 0) { goodPull with slot := 65536 },
      .pullRequest (on 0) { goodPull with revision := 2 ^ 32 }, .mergeWindowClose 0 0 (2 ^ 32),
      .granule (on 0) { layer := 0, slot := 0, epoch := 0, index := 0, holder := 65536, members := [], data := [] }, .granule (on 0) { layer := 0, slot := 0, epoch := 0, index := 0, holder := 0, members := [], data := noughts 4097 },
      .token (on 0) { backward := false, layer := 0, step := 2 ^ 32, microBatch := 0, expert := 0, origin := 0, epoch := 0, revision := 0, returnRow := 0, weight := 0, data := [] },
      .answer (on 0) { backward := false, holder := 0, epoch := 0, returnRow := 2 ^ 32, data := [] }, .frameRecord 88 0, .scatterChunk 22 0, .scatterChunk 0 16, .closeRecord 0 (2 ^ 512),
      .frameDrain 22, .mergeRecord (.hearth 88) 0, .mergeRecord (.host ⟨2, 0, 0⟩) 0, .announce (.hearth 0) (2 ^ 1024),
      .contrib (on 0) { matrix := 0, round := 16, owner := false, sender := 0, chunk := 0, absent := false, last := false, rows := [], vals := [] },
      .gatherGranule (on 0) { matrix := 2 ^ 20, step := 0, sender := 0, noChange := false, index := 0, data := [] }, .rollArrivalMsg (on 0) { goodRoll with red := 3 },
      .rollResultMsg (on 0) { goodRoll with payload := noughts 63 }, .rollCallClose 256, .rollCallTimeout 256, .tallyWindowStore (.hearth 0) 0x80000 4 0 0,
      .tallyWindowStore (.hearth 0) 0 0 0 0, .tallyWindowLoad 0 0 4097 0 0, .tallyWindowLoad 0 0 4 0 (2 ^ 23), .atomicRecord (.hearth 0) 0x1000 0, .poolRequest 2 0, .poolFree 0 (2 ^ 512),
      .poolSetInitDone 16] := by decide +kernel

theorem test_illFormedFabricAndLinks :
    illFormed [.loadRequest (on 32) {}, .loadRequest { port := 0, seq := 65536 } {}, .loadRequest { port := 0, creditVc := 4 } {}, .loadRequest { port := 0, ack := 65536 } {}, .loadRequest (on 0) { len := 0 }, .loadRequest (on 0) { len := 4097 }, .atomicRequest (on 0) { tenant := 2 }, .signalRequest (on 0) { key := 2 ^ 32 },
      .storeRequest (on 0) { len := 2 } [0#8], .lineUnitWrite (2 ^ 42), .dataResponse (on 0) {} (noughts 4097), .doneResponse (on 0) { op := 256 }, .resultResponse (on 0) { opndA := 2 ^ 64 },
      .progress (on 0) 65536 0, .progressTimer 0 65536, .fabResendTimer 65536, .fabTimeout 0 65536, .replayEntryEvict 0 (2 ^ 32), .frameForward (on 0) { txn := {}, hops := 16 },
      .frameForward (on 0) { txn := {}, vc := 4 }, .badFrame 24 [4], .badFrame 0 [7, 8], .badFrame 32 [], .ackFrame 0 { ack := 65536 }, .ackTimer 32, .nakFrame 32 {}, .laneRateWindow 24 4 { dataBits := 0, corrected := 0 },
      .laneSet (on 0) [0, 8], .idleFrame 0 0 4 0, .creditFrame 0 0 { credit := 2 ^ 14 }, .trainFrame 0 (.version 256 []), .trainFrame 0 (.version 0 [8]), .trainFrame 0 (.identity 0 8 0 0),
      .trainFrame 0 (.identity 0 0 32 0), .trainFrame 0 (.credit [0, 0, 0]), .basePage 32 true true, .portTraining 0 (.lanesReady [8]), .portTraining 24 (.aligned [4]),
      .trainingTimeout 32, .peerSignalLost 32] ∧
    (Instr.trainFrame 0 (.credit [0, 0, 0, 0])).WellFormed ∧ (Instr.badFrame 24 [3]).WellFormed ∧ (Instr.badFrame 23 [0, 7]).WellFormed := by decide +kernel

theorem test_illFormedPowerAndPorts :
    (Instr.regulatorTick goodReadings).WellFormed ∧ (Instr.enableHigh { badRows := [(63, 0)], badHearths := [87] }).WellFormed ∧
    illFormed [.restartWave (on 0) 65536 0 0 0, .restartWave (on 0) 0 0 256 0, .refreshTick 64, .patrolScrubStep 64, .layerTemperature 2 0 0, .layerTemperature 0 8 0, .layerTemperature 0 0 256,
      .regulatorTick { goodReadings with hearths := [1] }, .regulatorTick { goodReadings with layers := [] }, .regulatorTick { goodReadings with avg1ms := 4096 },
      .regulatorTick { goodReadings with inputMv := 65536 }, .thermalTrip 88, .enableHigh { badRows := [(64, 0)], badHearths := [] }, .enableHigh { badRows := [], badHearths := [88] },
      .perstDeassert 2, .perstAssert 2, .pcieLinkUp 2 { gen := 5, width := 16 } noFindings, .pcieLinkUp 0 { gen := 2, width := 16 } noFindings, .pcieLinkUp 0 { gen := 7, width := 16 } noFindings, .pcieLinkUp 0 { gen := 5, width := 3 } noFindings, .pcieLinkDown 2, .heartbeatTimeout 2, .configRequest 2,
      .sqTail 0 64 0, .cqHead 2 0 0, .msixUnmask 0 66, .pciRingEnable 0 2 0 0, .pciRingEnable 0 0 64 0, .pciHeartbeat 2 0 0, .jobStart 2, .jobEnd 2, .mgtFaultClear 0 (2 ^ 64),
      .mgtSvnCommit 2 0, .mgtDeviceIdWrite 0 (2 ^ 64), .poolSetEnable 2 0, .farPortRetrain 2 0, .hubFabTeardown 2 0, .registerWrite 0 0x1000000 8 0, .registerWrite 0 0 8 (2 ^ 64)] := by
  decide +kernel

theorem test_illFormedManagement :
    illFormed [.setDeviceId 65536, .setPowerCap 4096, .pldmFirmwareUpdate { goodImage with kind := 0 }, .pldmFirmwareUpdate { goodImage with kind := 5 },
      .pldmFirmwareUpdate { goodImage with version := 2 ^ 32 }, .pldmFirmwareUpdate { goodImage with signature := [] },
      .negotiateAlgorithms (2 ^ 32) 0, .getCertificate 256 0 0, .getCertificate 0 65536 0, .challenge 0 [0#8], .getMeasurements 0 true [0#8], .getMeasurements 256 true (noughts 32),
      .spdmUnsupported 256] ∧ (Instr.challenge 0 (noughts 32)).WellFormed ∧ (Instr.pldmFirmwareUpdate goodImage).WellFormed := by decide +kernel

/-! The queue, reset, bounds. -/

/-- A front command. -/
theorem witness_front : ({ pending := [.inputCutoff, .coldStart] } : State).pending = .inputCutoff :: [.coldStart] := rfl

/-- Setpoints at both ends of the range, and a step. -/
theorem witness_setpoint : State.SetpointInRange { power := { coreNow := 600 } } ∧ State.SetpointInRange { power := { coreNow := 900 }, pending := [.coldStart] } ∧
    ∃ t, step { power := { coreNow := 900 }, pending := [.coldStart] } = .next t := by
  refine ⟨?_, ?_, _, rfl⟩ <;> (unfold State.SetpointInRange; decide)

/-- A port that is UP on its fewest lanes, about to lose one. -/
def fewest : State := { links := [(0, { position := 7, lanes := [0, 1, 2, 3] })], pending := [.laneSet { port := 0, seq := 1 } [0, 1, 2]] }

theorem witness_lanes : fewest.LanesSuffice ∧ ∃ t, step fewest = .next t := by
  refine ⟨fun p => ?_, _, rfl⟩
  by_cases h : p = 0
  · subst h; decide
  · simp [fewest, State.link, kvGet, h, Link.up, posUp]

theorem witness_slotOp : (SlotOp.ldx 15 0x7FFFFC).wf = true ∧ (SlotOp.tload ⟨6, 15, 15, 15, 31, 8191, true, true⟩).wf = true := by decide

/-! The control slot. -/

/-- An operation of a job side succeeds. -/
def goes {α : Type} (m : OpM α) (c : Core) : Bool := match m.run c with | .ok _ _ => true | .error _ _ => false

theorem goes_run {α : Type} {m : OpM α} {c : Core} (h : goes m c = true) : ∃ a d, m.run c = .ok a d := by
  unfold goes at h
  split at h
  · exact ⟨_, _, by assumption⟩
  · cases h

/-- The header of the next transaction on port 3. -/
def at3 : Head := { port := 3, seq := 1 }

/-- What an arrival asks for, as a test. -/
def arrives (s : State) (vc : Nat) (i : Instr) : Bool :=
  (s.link 3).inOrder at3 && (s.link 3).channelEmpty vc && s.frameReady at3.port vc i && s.core.dram.errors.isEmpty

theorem arrives_of {s : State} {vc : Nat} {i : Instr} (h : arrives s vc i = true) : s.Arrives at3 vc i := by
  simp only [arrives, Bool.and_eq_true, List.isEmpty_iff] at h
  exact ⟨h.1.1.1, h.1.1.2, h.1.2, h.2⟩

/-- A job whose Hearth 0 runs, port 3 UP. -/
def job (x : Hearth) (c : Core := {}) : State :=
  { links := [(3, { position := 7, lanes := [0, 1, 2, 3, 4, 5, 6, 7] })],
    core := { c with mgt := { c.mgt with active := true, logical := [0, 1, 44], deviceId := 0x8001 }, hearths := [(0, { x with running := true })] } }

/-- Registers x1 = 5, x2 = 0xFFFF_FFFF, x3 = 1024. -/
def someRegs : List (Nat × Word32) := [(1, 5#32), (2, 0xFFFFFFFF#32), (3, 1024#32)]

theorem witness_controls : (job { regs := someRegs }).Controls 0 := by unfold State.Controls; decide

theorem witness_ldx : (job { scratch := [(0x7FFFFC, 1#8)] }).Issues 0 (.ldx 5 0x7FFFFC) ∧ (job { scratch := [(0x7FFFFC, 1#8)] }).core.Own 0 ∧
    (job { scratch := [(0x7FFFFC, 1#8)] }).core.dram.errors = [] ∧ 0x7FFFFC + 4 ≤ 0x800000 ∧ (job { scratch := [(0x7FFFFC, 1#8)] }).Issues 0 (.ldx 0 0x7FFFFC) := by
  unfold State.Issues Core.Own; decide

/-- Conditions of a JUMP: always; x4 = 0 holds and fails; x1 ≠ 0 holds. -/
theorem witness_conditions : (job { regs := someRegs }).Controls 0 ∧ ((job { regs := someRegs }).core.hearth 0).reg 4 = 0#32 ∧
    ((job { regs := someRegs }).core.hearth 0).reg 1 ≠ 0#32 := by unfold State.Controls; decide

/-- Two loops that end at different words. -/
def looping : State :=
  job { regs := someRegs, loops := [{ body := 10, endW := 20, after := 21, reg := 6, iter := 0, count := 3 }, { body := 5, endW := 30, after := 31, reg := 7, iter := 1, count := 2 }] }

theorem witness_break : looping.Controls 0 ∧ (job {}).Controls 0 ∧ ((job {}).core.hearth 0).loops = [] ∧ (∀ k ∈ [({ body := 5, endW := 30, after := 31, reg := 7, iter := 1, count := 2 } : LoopEntry)], k.endW ≠ 20) := by
  unfold State.Controls; decide

/-- An end word without slots at the last word address; a count of 5 and a count of 0. -/
theorem witness_loop : (job { regs := someRegs }).Controls 0 ∧ (job { regs := someRegs }).core.dram.errors = [] ∧ 32767 < 32768 ∧
    decodeWord 32767 (memRange (fun _ => 0#8) ((job { regs := someRegs }).core.hearth 0).lesson (2 * 32767) (min 38 (65536 - 2 * 32767))) =
      some { at_ := 32767, tail := 0, tbyte := 0, ops := [], next := 32768 } ∧ (((job { regs := someRegs }).core.hearth 0).reg 1).toNat ≠ 0 ∧
    (((job { regs := someRegs }).core.hearth 0).reg 4).toNat = 0 := by unfold State.Controls; decide

/-! Tallies and Roll calls of a Lesson. -/

/-- Local Tally 63 at a value, with its flag OVER. -/
def tallied (v : Nat) (past : Bool) (x : Hearth := {}) : State := job { x with regs := someRegs, tallies := [(63, { value := v, overSet := past })] }

/-- A count of 5 on local Tally 63. -/
def five : TallyF := { scope := 0, index := 63, n := 1, dev := 0, imm := 0 }

theorem witness_signal : ∀ p ∈ [(7, true), (0xFFFFFFFA, false), (0xFFFFFFFB, false)], (tallied p.1 p.2).Syncs 0 (.signal five) ∧ (tallied p.1 p.2).core.TallyAllowed 0 0 63 ∧
    ((tallied p.1 p.2).core.hearth 0).tallyCount five = 5 ∧ (tallied p.1 p.2).core.dram.errors = [] ∧ (tallied p.1 p.2).core.route.gen1 = [] := by simp only [State.Syncs, Core.TallyAllowed]; decide

/-- Scopes 1 and 2, a fabric signal named with this device, in one-tenant mode. -/
theorem witness_signalScopes : (tallied 0 false).core.TallyAllowed 0 1 255 ∧ (tallied 0 false).core.TallyAllowed 0 2 65535 ∧
    (tallied 0 false).core.isSelf (((job { regs := [(1, 1#32)] }).core.hearth 0).reg 1).toNat = true := by simp only [Core.TallyAllowed]; decide

/-- A signal of a count on fabric Tally 256 of device 0x10, and the same of 0. -/
def away (n : Nat) : TallyF := { scope := 2, index := 256, n := 0, dev := 5, imm := n }

def routed : State := job { regs := (5, 0x10#32) :: someRegs } { route := { masks := [(0x10, 1)] } }

theorem witness_signalAway : ∀ n ∈ [0, 65535], routed.Syncs 0 (.signal (away n)) ∧ routed.core.dram.errors = [] ∧ (routed.core.hearth 0).lentRun = none ∧
    (away n).dev ≠ 0 ∧ routed.core.isSelf ((routed.core.hearth 0).reg 5).toNat = false ∧ (routed.core.hearth 0).tallyCount (away n) = n := by
  unfold State.Syncs; decide

theorem witness_signalSent : (sendRequest { actor := .hearth 0, tenant := 0, keyed := false } .signal
      { op := opSignalTx, dst := 0x10, addr := globalAddr 0x10 (0x500060000000 + 8 * 256), len := 8, opndA := 65535 + 1 <<< 32 } vcSync []).run routed.core matches .ok () _ := by
  decide +kernel

theorem witness_sub : ∀ p ∈ [(5, false), (4, false), (4, true)], (tallied p.1 p.2).Syncs 0 (.sub five) ∧ (tallied p.1 p.2).core.TallyAllowed 0 0 63 ∧
    (tallied p.1 p.2).core.dram.errors = [] := by
  simp only [State.Syncs, Core.TallyAllowed]; decide

/-- A wait of 0, one that the Tally holds, one that it does not hold, one at an OVER Tally, and one behind a signal that is still under way. -/
def waits : List (State × Nat) :=
  [(tallied 4 false, 0), (tallied 5 false, 5), (tallied 4 false, 5), (tallied 4 true, 5), (tallied 5 false { yq := [.sent 9] }, 5)]

def waitOf (n : Nat) : TallyF := { scope := 0, index := 63, n := 0, dev := 0, imm := n }

theorem witness_wait : ∀ p ∈ waits, p.1.core.halted = false ∧ p.1.core.canIssue 0 (.wait (waitOf p.2)) = true ∧ p.1.core.TallyAllowed 0 0 63 ∧ p.1.core.dram.errors = [] ∧
    (∀ w ∈ p.1.core.sync.waiters, w.hearth ≠ 0) ∧ ((p.1.core.hearth 0).yq = [] ∨ ∃ o ∈ (p.1.core.hearth 0).yq.head?, o.awaits = true) := by
  simp only [Core.TallyAllowed]; decide

/-- A wait at the head of Hearth 0's queue, before a signal under way, at a Tally of a value; Hearth 1 waits there too, before or behind it. -/
def waited (n v : Nat) (past first : Bool) : State :=
  let s := tallied v past { yq := [.wait 0 63 n, .sent 9] }
  let w : List Waiter := [{ scope := 0, unit := 0, index := 63, n := n, hearth := 0 }, { scope := 0, unit := 0, index := 63, n := 4, hearth := 1 }]
  { s with core := { s.core with sync := { s.core.sync with waiters := if first then w else w.reverse } } }

theorem witness_waitSatisfied : ∀ s ∈ [waited 5 5 false true, waited 5 4 true true, waited 0 4 false false, waited 5 4 false true, waited 5 5 false false],
    s.core.halted = false ∧ (s.core.hearth 0).yq.tail = [.sent 9] ∧ s.core.dram.errors = [] ∧ (∃ w ∈ s.core.sync.waiters, w.hearth = 0) ∧
    (∀ o, (s.core.hearth 0).yq.tail.head? = some o → o.awaits = true) := by
  intro s hs
  simp only [List.mem_cons, List.not_mem_nil, or_false] at hs
  rcases hs with rfl | rfl | rfl | rfl | rfl <;> exact ⟨rfl, rfl, rfl, by decide, fun o h => by cases h; rfl⟩

theorem witness_waitTurns : (waited 5 5 false true).core.firstWaiter 0 0 63 0 = true ∧ (waited 5 5 false false).core.firstWaiter 0 0 63 0 = false := by decide

/-- A write of Hearth 0 to another device that has no response yet. -/
def writing : OutReq := { tag := 9, dst := 0x10, frame := { txn := { op := opStore, dst := 0x10, addr := 0x1000, tag := 9, seq := 4 }, data := [1#8] }, actor := .hearth 0, use := .store }

/-- A Hearth with a writeback to come: here, or to device 0x10. -/
def owing (base : Nat) : Hearth :=
  { card0 := leBytes 64 0 ++ leBytes 64 base, wbq := [{ binding := { out := 0 }, base := 0, slots := 0, values := [], segments := 1, flags := 0 }] }

/-- Nothing under way; a write to another device; a writeback to come, here and there; the write behind a signal that itself waits. -/
def fences : List State :=
  [job {}, job {} { fabric := { out := [writing] } }, job (owing 0x1000), job (owing (0x10 <<< 49 + 0x1000)),
   job { yq := [.sent 8] } { fabric := { out := [writing] } }]

theorem witness_fence : (∀ s ∈ fences, s.core.halted = false ∧ s.core.canIssue 0 .fence = true ∧ s.core.dram.errors = []) ∧
    fences.map (fun s => s.core.fenceWaits 0 (s.core.priorWork 0)) = [false, true, false, true, true] ∧
    fences.map (fun s => s.core.remoteWrites 0) = [[], [9], [], [], [9]] ∧
    fences.map (fun s => (s.core.hearth 0).yq) = [[], [], [], [], [.sent 8]] ∧
    ((job {}).core.hearth 0).waitq = [] ∧ ((job {}).core.hearth 0).wbq = [] ∧ (job {}).core.readsOf 0 = [] := by decide +kernel

/-- Hub bytes: context records from 0x5000_0000_1000 on, context 1 of device scope over every Hearth, reduction 1. -/
def rollHub : Mem := memPutAll (some 0#8) [] (0x1000 + 64) (leBytes 64 (1 <<< 34 + 0xC000 <<< 80))

/-- A Hearth of context 1, alone or after Hearths 1 and 44. -/
def rolling (arrived : List (Party × List Byte × Nat)) : State :=
  job {} { hub := rollHub, latched := [(rRollBase, 0x500000001000)], sync := { ctxs := [(1, { gen := 3, counts := [(0, 3)], arrived := arrived })] } }

def others : List (Party × List Byte × Nat) := [(.hearth 1, List.replicate 64 1#8, 0), (.hearth 44, List.replicate 64 2#8, 0)]

theorem witness_roll : ∀ l ∈ [[], others], (rolling l).Syncs 0 (.roll { ctx := 1, red := 1, payload := 131071 }) ∧ (rolling l).core.rollClear 0 131071 ((rolling l).core.priorWork 0) = true ∧
    (rolling l).core.dram.errors = [] ∧ (rolling l).core.Own 0 ∧ 64 * 131071 + 64 ≤ 0x800000 ∧ ((rolling l).core.twoTenant = true → (rolling l).core.ctxTenant 1 = (rolling l).core.hearthTenant 0) ∧
    ((rolling l).core.ctxRec 1).valid = true ∧ ((rolling l).core.ctxRec 1).scope = 0 ∧ ((rolling l).core.ctxRec 1).reduction = 1 ∧
    ((rolling l).core.ctxRec 1).admits (rolling l).core ((rolling l).core.ctxTenant 1) (.hearth 0) = true ∧ spGet 0 ((rolling l).core.rollCtx 1).counts 0 = ((rolling l).core.rollCtx 1).gen ∧ ((rolling l).core.rollCtx 1).gen < 256 ∧
    (∀ a ∈ ((rolling l).core.rollCtx 1).arrived, a.1.key ≠ 0) ∧ ((rolling l).core.rollCtx 1).sentUp = false := by
  unfold State.Syncs Core.Own; decide +kernel

/-- The names of a context of device or job scope, wherever its structures and settings are these. -/
theorem ctxNames_of {c d : Core} {r : CtxRec} (h : r.scope = 0 ∨ r.scope = 1) (he : c.dram.errors = []) (h1 : d.hub = c.hub) (h3 : d.latched = c.latched)
    (h4 : d.mgt = c.mgt) (h5 : d.dram = c.dram) : (ctxNames r).run d = .ok (if r.scope = 0 then [c.selfId] else c.jobNames) d := by
  have e : d.dram.errors = [] := by rw [h5]; exact he
  have f : ∀ o, d.inForce o = c.inForce o := fun o => by unfold Core.inForce; rw [h3]
  have g : ∀ a n, d.hubNat a n = c.hubNat a n := fun a n => by unfold Core.hubNat; rw [h1]
  have j : d.jobNames = c.jobNames := by
    have k : d.jobEntry = c.jobEntry := funext fun i => by unfold Core.jobEntry; rw [g, f]
    unfold Core.jobNames; rw [f, k]
  have k : d.selfId = c.selfId := by unfold Core.selfId; rw [h4]
  rcases h with h | h <;> unfold ctxNames <;> rw [h]
  · rw [if_pos rfl, ← k]
    rfl
  · rw [if_neg (by decide), ← j]
    simp only [EStateM.run_bind, EStateM.run_get, senseJob, run_senseHub d _ _ e]
    rfl

/-- Hub bytes: a context 1 of job scope, and a job map of one node whose devices are given. -/
def jobHub (scope devices : Nat) : Mem :=
  memPutAll (some 0#8) (memPutAll (some 0#8) [] (0x1000 + 64) (leBytes 64 (scope <<< 32 + 1 <<< 34 + 0xC000 <<< 80))) 0x2000 (leBytes 4 (devices <<< 16))

/-- Hearth 0 at context 1 with generation 3 open and its own count given; who has arrived, and which devices. -/
def jobRoll (scope devices count : Nat) (arrived : List (Party × List Byte × Nat)) (remote : List (Nat × List Byte)) : State :=
  job {} { hub := jobHub scope devices, latched := [(rRollBase, 0x500000001000), (rJobmapBase, 0x500000002000), (rJobNodes, 1)], route := { masks := [(0, 1), (2, 1)] },
           sync := { ctxs := [(1, { gen := 3, counts := [(0, count)], arrived := arrived, remote := remote })] } }

/-- Device scope; the root of two devices before and after the other's arrival; a child; an arrival for the next generation; a duplicate. -/
def jobRolls : List (State × List Nat) :=
  [(jobRoll 0 2 3 others [], [1]), (jobRoll 1 6 3 others [], [1, 2]), (jobRoll 1 6 3 others [(2, List.replicate 64 5#8)], [1, 2]), (jobRoll 1 3 3 others [], [0, 1]),
   (jobRoll 1 3 3 [] [], [0, 1]), (jobRoll 1 3 4 others [], [0, 1]), (jobRoll 1 3 3 ((.hearth 0, List.replicate 64 1#8, 0) :: others) [], [0, 1])]

def rollF : RollF := { ctx := 1, red := 1, payload := 131071 }

theorem witness_rollScopes : ∀ p ∈ jobRolls, p.1.Syncs 0 (.roll rollF) ∧ p.1.core.rollClear 0 131071 (p.1.core.priorWork 0) = true ∧
    p.1.core.dram.errors = [] ∧ p.1.core.Own 0 ∧ p.1.core.twoTenant = false ∧ (p.1.core.ctxRec 1).valid = true ∧ (p.1.core.ctxRec 1).reduction = 1 ∧
    (p.1.core.ctxRec 1).admits p.1.core (p.1.core.ctxTenant 1) (.hearth 0) = true ∧ (p.1.core.rollCtx 1).gen = 3 ∧ (p.1.core.rollCtx 1).sentUp = false ∧
    ((p.1.core.ctxRec 1).scope = 0 ∨ (p.1.core.ctxRec 1).scope = 1) ∧ (if (p.1.core.ctxRec 1).scope = 0 then [p.1.core.selfId] else p.1.core.jobNames) = p.2 ∧
    p.1.core.selfIn p.2 = some 1 := by
  unfold State.Syncs Core.Own; decide +kernel

/-- Who is the root, who waits and what goes out there. -/
theorem witness_rollTree : treeParent [1, 2] 1 = none ∧ treeChildren [1, 2] 1 = [2] ∧ treeParent [0, 1] 1 = some 0 ∧ treeChildren [0, 1] 1 = [] ∧ treeChildren [1] 1 = [] ∧
    treeParent [1] 1 = none ∧
    goes (sendRoll 0 1 3 1 0 (List.replicate 64 0#8)) (jobRoll 1 3 3 others []).core = true ∧ goes (sendRoll 1 1 3 1 2 (List.replicate 64 0#8)) (jobRoll 1 6 3 others []).core = true := by
  decide +kernel

/-! Items and ends of runs. -/

/-- The first bytes of a layer card: its header and the 512 bits of its first descriptors. -/
def cardOf (header : Nat) (descs : List Nat) : List Byte := leBytes 64 header ++ descs.flatMap (leBytes 64)

/-- A FORWARD batch of layer 2, step 3, rings 0 and 1, every Hearth a worker. -/
def forward : Nat := 3 + 2 <<< 48 + 1 <<< 64 + 1 <<< 74 + 0xC000 <<< 96 + 4 <<< 128

def batch7 : Batch := { epoch := 7, acc := 0, record := forward, recHost := false, recAddr := 0, origin := ⟨0, 0, 0⟩, tenant := 0, revision := 0 }

/-- An item of four rows of that batch. -/
def item4 : Item := { x8 := 5 + 4 <<< 17, x9 := 11, x10 := 12, x11 := 13, epoch := 7, guestSeg := false, guests := [], backward := false, layer := 2 }

/-- A Hearth whose item pool of 32 slots holds 16, with or without an item to take. -/
def taker (batches : List Batch) (items : List Item) (taking : Option Nat := none) : State :=
  job { card0 := cardOf (64 <<< 320 + 32 <<< 336) [], allocs := [(64, 16, 1)], taking := taking }
    { bellows := { batches := batches }, tt := { waiting := [(0, [])], rings := [(0, items)] } }

/-- The view that ring 0 gives of batch 7. -/
def view7 (shut : Bool) : RingView :=
  { acc := 0, epoch := 7, backward := false, localRing := 0, guestRing := 1, path := 0xC000, tenant := 0, localClosed := shut, guestClosed := false }

/-- A released batch whose close Hearth 0 has not been shown. -/
def released (taking : Option Nat := none) : State :=
  job { card0 := cardOf (64 <<< 320 + 32 <<< 336) [], taking := taking } { bellows := { ended := [{ view7 true with guestClosed := true, batchGone := true }] } }

/-- An item to take, none yet, the close of the batch, no batch, a pool without room. -/
def takings : List State :=
  [taker [batch7] [item4], taker [batch7] [], released, taker [] [],
   job { card0 := cardOf (64 <<< 320 + 32 <<< 336) [], allocs := [(64, 16, 1), (80, 16, 1)] } { bellows := { batches := [batch7] }, tt := { waiting := [(0, [])], rings := [(0, [item4])] } }]

theorem witness_take : (∀ s ∈ takings, s.Controls 0 ∧ (s.core.hearth 0).lentRun = none ∧ s.core.twoTenant = false ∧ (∀ j ∈ (s.core.hearth 0).items, j.ring ≠ 0) ∧
      s.core.dram.errors = [] ∧ s.core.itemRetired 0 0 = s.core) ∧
    takings.map (fun s => s.core.currentBatch 0 0) = [some (view7 false), some (view7 false), some { view7 true with guestClosed := true, batchGone := true },
      none, some (view7 false)] ∧
    takings.map (fun s => (s.core.nextItem 0 0 (view7 false)).isSome) = [true, false, false, false, true] ∧
    takings.map (fun s => poolFind (s.core.hearth 0) (itemSlots (s.core.hearth 0) item4) (s.core.hearth 0).usedSlots) = [some 80, some 80, some 64, some 80, none] ∧
    (∀ s ∈ takings, (poolFind (s.core.hearth 0) (itemSlots (s.core.hearth 0) item4) []).isSome = true) ∧
    ({ view7 true with guestClosed := true, batchGone := true } : RingView).closed 0 = true ∧ (view7 false).closed 0 = false := by
  unfold State.Controls; decide +kernel

/-- An operation of a job side succeeds with a value and leaves a state. -/
def endsIn {α : Type} [DecidableEq α] (m : OpM α) (c : Core) (a : α) (d : Core) : Bool := match m.run c with | .ok b e => decide (b = a ∧ e = d) | .error _ _ => false

theorem endsIn_run {α : Type} [DecidableEq α] {m : OpM α} {c d : Core} {a : α} (h : endsIn m c a d = true) : m.run c = .ok a d := by
  unfold endsIn at h
  split at h <;> simp_all

theorem witness_takeAtRest : (taker [batch7] [item4]).core.BellowsAtRest ∧ ((taker [batch7] [item4]).core.itemTaken 0 0 0 80 16 item4).BellowsAtRest ∧
    (taker [batch7] []).core.BellowsAtRest ∧ released.core.BellowsAtRest ∧ (taker [] []).core.BellowsAtRest := by
  refine ⟨endsIn_run ?_, endsIn_run ?_, endsIn_run ?_, endsIn_run ?_, endsIn_run ?_⟩ <;> decide +kernel

/-- A Hearth that took an item of the batch before: TAKE retires it and frees its footprint. -/
def retiring : State :=
  job { card0 := cardOf (64 <<< 320 + 32 <<< 336) [], allocs := [(64, 16, 0)], items := [{ ring := 0, epoch := 7, backward := false, weight := false, layer := 2, guests := [] }] }
    { bellows := { batches := [batch7] }, tt := { waiting := [(0, [])], rings := [(0, [item4])] } }

theorem witness_takeRetires : retiring.Controls 0 ∧ (∀ j, (retiring.core.hearth 0).items.find? (fun k => k.ring == 0) = some j → j.guests = []) ∧
    ((retiring.core.itemRetired 0 0).hearth 0).items = [] ∧ ((retiring.core.itemRetired 0 0).hearth 0).usedSlots = [] := by
  unfold State.Controls
  refine ⟨by decide, fun j h => ?_, by decide, by decide⟩
  cases h; rfl

theorem witness_taking : (taker [batch7] [item4] (some 0)).core.halted = false ∧ ((taker [batch7] [item4] (some 0)).core.hearth 0).taking = some 0 ∧
    (taker [batch7] [item4] (some 0)).core.currentBatch 0 0 = some (view7 false) ∧
    ((released (some 0)).core.hearth 0).taking = some 0 ∧ ((released (some 0)).core.currentBatch 0 0).isSome = true ∧
    ((taker [batch7] [item4] (some 0)).core.itemTaken 0 0 0 80 16 item4).BellowsAtRest := by
  refine ⟨by decide, by decide, by decide +kernel, by decide, by decide +kernel, endsIn_run ?_⟩
  decide +kernel

/-- An OP_RUN in slot 3 of port 0, ring 1, on Hearth 0. -/
def run3 : Started := { slot := 3, tag := 77, opcode := 3, irq := false, barrier := false, hearths := [0] }

/-- A group of one row in slots 0 to 3. -/
def group1 : Group := { base := 0, rows := 1, slotsPerRow := 4, fmt := 0, fold := false, binding := {}, acc := [] }

/-- A Hearth that reached END 9 with a group still open. -/
def ending : State := job { ended := some 9, runOf := some ⟨0, 1, 3⟩, groups := [(2, group1)] } { ports := [(0, { rings := [(1, { enabled := true, started := [run3] })] })] }

theorem witness_runEnd : ending.core.halted = false ∧ ending.core.runEndReady 0 = true ∧ (ending.core.hearth 0).ended = some 9 ∧ (ending.core.hearth 0).lentRun = none ∧
    (ending.core.hearth 0).items = [] ∧ (ending.core.hearth 0).runOf = some ⟨0, 1, 3⟩ ∧ (ending.core.ring 0 1).started = [run3] ∧ run3.slot = 3 ∧ run3.hearths = [0] ∧
    run3.members = [] := by decide

/-- An OP_RUN on Hearths 0 and 1, one member ended with code 9 or 8. -/
def run4 (k : Nat) : Started := { run3 with hearths := [1, 0], members := if k = 0 then [] else [(1, some k, stOk)] }

/-- Hearth 0 reaches its END, with the item of a batch and the group open. -/
def endingOf (k : Nat) : State :=
  job { ended := some 9, runOf := some ⟨0, 1, 3⟩, groups := [(2, group1)], items := [{ ring := 0, epoch := 7, backward := false, weight := false, layer := 2, guests := [] }] }
    { ports := [(0, { rings := [(1, { enabled := true, started := [run4 k] })] })], bellows := { batches := [batch7] }, tt := { waiting := [(0, [])] } }

theorem witness_runEndMembers : ∀ k ∈ [0, 8, 9], (endingOf k).core.halted = false ∧ (endingOf k).core.runEndReady 0 = true ∧ ((endingOf k).core.hearth 0).ended = some 9 ∧
    ((endingOf k).core.hearth 0).lentRun = none ∧ (∀ i ∈ ((endingOf k).core.hearth 0).items, i.guests = []) ∧ ((endingOf k).core.ring 0 1).started = [run4 k] ∧
    (run4 k).irq = false ∧ (∀ m ∈ (run4 k).members, m.2.2 = stOk) ∧
    (k ≠ 0 → (run4 k).hearths.map (fun j => (((run4 k).members ++ [((0, some 9, stOk) : Nat × Option Nat × Nat)]).find? (fun m => m.1 == j)).bind (fun m => m.2.1)) = [some k, some 9]) := by decide +kernel

theorem witness_runEndRetires : goes (retireAll 0) (endingOf 8).core = true := by decide +kernel

/-- A lend record of an image of 100 bytes at 0x5000 in its host's memory, budget 9, 20 slots. -/
def lendRecord : Nat := 0x5000 + 100 <<< 224 + 9 <<< 240 + 20 <<< 272 + 1 <<< 288 + 1 <<< 289

def lendPost : LendPost := { origin := ⟨1, 0, 2⟩, irq := true, record := lendRecord }

/-- Two tenants; Smithy 0 is tenant 0's, its Hearth 0 lends, and tenant 1 has a lent item on ring 3 of Hearth 0's die. -/
def lendable (ring : Nat) (x : Hearth := {}) : State :=
  { core := { mgt := { active := true, logical := [0, 1, 44] }, latched := [(rTenantMode, 1), (rTenantSmithy, 2), (rLendEnable0, 1)], hearths := [(0, x)],
              tt := { lend := [(ring, [lendPost])] }, ports := [(1, { rings := [(0, { enabled := true, started := [{ run3 with slot := 2, hearths := [] }] })] })] } }

theorem witness_lentTake : ∀ ring ∈ [3, 7], (lendable ring).core.halted = false ∧ (lendable ring).core.lentReady 0 = true ∧ (lendable ring).core.lentNext 0 = some (ring, lendPost) ∧
    bit lendPost.record 288 = true := by decide
/-- The borrower's state once Hearth 0 has taken that item off ring 3. -/
def lentBound (s : State) (n : Nat) : Core :=
  ({ s.core with tt := { s.core.tt with lend := kvPut s.core.tt.lend 3 (((kvGet s.core.tt.lend 3).getD []).drop 1) } } : Core).modHearth 0 (fun x =>
    { x with lentRun := some { origin := ⟨1, 0, 2⟩, irq := true, budget := bits n 271 240, slots := bits n 287 272 } })

def lent1 : LentItem := { origin := ⟨1, 0, 2⟩, irq := true, budget := 9, slots := 20 }

def lentRunning : State := lendable 3 { running := true, lentRun := some lent1, tallies := [(55, { value := 1 }), (56, { value := 2 }), (63, { overSet := true })], groups := [(0, group1)] }

theorem witness_lentBudget : lentRunning.core.halted = false ∧ (lentRunning.core.hearth 0).running = true ∧ (lentRunning.core.hearth 0).lentRun = some lent1 ∧
    lent1.ending = none ∧ (lentRunning.core.hearth 0).splitsOpen = [] ∧ lentRunning.core.splitBusy 0 = false := by decide

/-- A lent item that reached its END. -/
def lentEnded : State := lendable 3 { running := true, ended := some 9, lentRun := some lent1, tallies := [(55, { value := 1 }), (56, { value := 2 })], groups := [(0, group1)] }

theorem witness_lentEnd : lentEnded.core.halted = false ∧ lentEnded.core.runEndReady 0 = true ∧ (lentEnded.core.hearth 0).ended = some 9 ∧
    (lentEnded.core.hearth 0).lentRun = some lent1 ∧ (lentEnded.core.hearth 0).items = [] := by decide

/-! Tiles. -/

theorem reads_of {c : Core} {w : Who} {rs : List (Nat × Nat)} {bs : List (List Byte)} {b : List Byte} (hb : bs.flatten = b)
    (hg : (rs.forM (fun r => checkGlobal r.1)).run c = .ok () c) (hp : (c.pieces rs).all (fun p => c.isLocal p.1) = true)
    (hm : ((c.pieces rs).mapM (fun p => readLocal w p.1 p.2)).run c = .ok bs c) : c.Reads w rs b := by
  intro cont
  subst hb
  simp only [readRanges, EStateM.run_bind, hg, EStateM.run_get, hp, if_true, hm]
  rfl

/-- A tensor descriptor of `rows` rows. -/
def tensor (base ext0 rows stride code : Nat) : Nat :=
  base + ext0 <<< 64 + rows <<< 96 + 1 <<< 128 + 1 <<< 160 + stride <<< 192 + code <<< 336 + 1 <<< 343 + 5 <<< 480

/-- Two regions over memory and the windows, key 5, every kind of access. -/
def region : List (Nat × Nat) := [(rRgnLo 0, 0xBE), (rRgnHi 0, 5 <<< 32 + 0xFFFFFFFF), (rRgnLo 1, 0x5000000000BE), (rRgnHi 1, 5 <<< 32 + 0xFFFFFFFF)]

/-- Stacked memory with bytes from an address on. -/
def at_ (a : Nat) (b : List Byte) : Mem := memPutAll zeroByte [] ((({} : Dram).key a).getD 0) b

/-- Hearth 0 with a card of step 3 and one tensor; x1 = 8, x2 = 33, x4 = 1, x5 = 1024; a route to device 0x10. -/
def tiles (header d : Nat) (x : Hearth := {}) (m : Mem := []) : State :=
  job { x with regs := [(1, 8#32), (2, 33#32), (4, 1#32), (5, 1024#32)], card0 := cardOf (header + 3 <<< 64) [d] } { cfg := region, stacked := m, route := { masks := [(0x10, 1)] } }

/-- FP32 8 × 32 here and on device 0x10; MXFP8 33 × 32 with its blocks along dimension 1; BF16 1 × 256, compressed, its form at 0x8000; FP32 8 × 32 RECOMPUTE; BF16
8 × 32. -/
def dense : Nat := tensor 0x1000 32 8 128 0
def remote : Nat := tensor (0x10 <<< 49 + 0x1000) 32 8 128 0
def mxCols : Nat := tensor 0x2000 32 33 32 5 + 1 <<< 346 + 0x20 <<< 416
def compressed : Nat := tensor 0x6000 256 1 512 1 + 1 <<< 352 + 2 <<< 384 + 9 <<< 448
def recompute : Nat := dense + 2 <<< 344
def bf16 : Nat := tensor 0x5000 32 8 64 1

theorem witness_tfill : (tiles 0 0).Ready 0 (.tfill ⟨8191, 1, 0xABCD⟩) ∧ 1024 * 8191 < 0x800000 ∧ 1024 * 8191 + 1024 * 1 ≤ 0x800000 ∧ (tiles 0 0).Ready 0 (.tfill ⟨0, 8192, 0⟩) := by
  unfold State.Ready State.Issues Core.Own; decide +kernel

/-- A TLOAD of the tensor. -/
def load (rows scratch : Nat) (transpose : Bool := false) : TloadF := ⟨0, 0, 0, rows, 0, scratch, transpose, false⟩

def loadArgs (s : State) (f : TloadF) : TileArgs := (s.core.hearth 0).tloadArgs f

theorem witness_tload : ∀ p ∈ [(dense, load 1 8191), (mxCols, load 2 8), (dense, load 1 0 true), (remote, load 1 0)], (tiles 0 p.1).Ready 0 (.tload p.2) ∧
    (p.2.transpose = true → (loadArgs (tiles 0 p.1) p.2).d.fmt.isMx = false) ∧
    (loadArgs (tiles 0 p.1) p.2).off < 0x800000 ∧
    (loadArgs (tiles 0 p.1) p.2).off + (loadArgs (tiles 0 p.1) p.2).size (loadArgs (tiles 0 p.1) p.2).d.fmt ≤ 0x800000 ∧
    (loadArgs (tiles 0 p.1) p.2).d.readAligned (loadArgs (tiles 0 p.1) p.2).row0 (loadArgs (tiles 0 p.1) p.2).col0 = true ∧
    ((tiles 0 p.1).core.hearth 0).windowLoad (loadArgs (tiles 0 p.1) p.2).d = false := by
  unfold State.Ready State.Issues Core.Own; decide +kernel

theorem witness_tloadWindows : (tiles 0 dense).core.Windows 0 (loadArgs (tiles 0 dense) (load 1 8191)).ranges ∧
    (tiles 0 mxCols).core.Windows 0 (loadArgs (tiles 0 mxCols) (load 2 8)).ranges ∧ (tiles 0 remote).core.Windows 0 (loadArgs (tiles 0 remote) (load 1 0)).ranges := by
  refine ⟨endsIn_run ?_, endsIn_run ?_, endsIn_run ?_⟩ <;> decide +kernel

theorem witness_tloadReads : ∃ b, (tiles 0 mxCols {} (at_ 0x2000 (List.replicate 64 3#8))).core.Reads ((tiles 0 mxCols).core.who 0 ((tiles 0 mxCols).core.hearth 0 |>.desc 0))
      (loadArgs (tiles 0 mxCols) (load 4 8)).ranges b := by
  refine ⟨List.replicate 32 3#8 ++ List.replicate 32 0x00#8, reads_of (bs := [List.replicate 32 3#8, List.replicate 32 0#8]) rfl (endsIn_run ?_) ?_ (endsIn_run ?_)⟩
  all_goals decide +kernel

/-- A read of ranges waits for other devices. -/
def stalls (m : OpM (Option (List Byte))) (c : Core) : Bool := match m.run c with | .ok none _ => true | _ => false

theorem stalls_run {m : OpM (Option (List Byte))} {c : Core} (h : stalls m c = true) : ∃ d, m.run c = .ok none d := by
  unfold stalls at h
  split at h
  · exact ⟨_, by assumption⟩
  · cases h

theorem witness_tloadRemote : stalls (readRanges ((tiles 0 remote).core.who 0 ((tiles 0 remote).core.hearth 0 |>.desc 0)) (.tload 0 (load 1 0) [])
    (loadArgs (tiles 0 remote) (load 1 0)).ranges) (tiles 0 remote).core = true := by decide +kernel

/-- A TLOAD of the compressed tensor under pattern 4:8 or an observing card. -/
def loadWindow (scratch : Nat) : TloadF := ⟨0, 0, 0, 4, 7, scratch, false, false⟩

/-- No tag; the tag of the tensor and step; the same with the line held dense. -/
def tags : List Mem := [[], at_ 0x8000 (leBytes 16 (9 + 3 <<< 32)), at_ 0x8000 (leBytes 16 (9 + 3 <<< 32 + 1 <<< 96))]

def halfIn (s : State) (kind : Nat) : WindowHalf := (s.core.hearth 0).halfRecord ((s.core.hearth 0).tloadArgs (loadWindow 1)) 0 kind

/-- An FP8 row of 1,280 elements, compressed; the two halves of the window over it; its tags, of the step. -/
def wide : Nat := tensor 0x6000 1280 1 1280 3 + 1 <<< 352 + 2 <<< 384 + 9 <<< 448
def firstHalf : TloadF := ⟨0, 0, 0, 4, 31, 1, false, false⟩
def secondHalf (at_ : Nat := 3) : TloadF := ⟨0, 0, 5, 4, 7, at_, false, false⟩
def taggedWide : Mem := at_ 0x8000 ((List.replicate 5 (leBytes 16 (9 + 3 <<< 32))).flatten)

/-- The checks of a window's load hold, and both forms of it can be staged. -/
def windowFits (s : State) : Bool :=
  let x := s.core.hearth 0
  let t := x.tloadArgs (loadWindow 1)
  let form := if x.pattern = 0 then 2 else 1
  decide (t.off < 0x800000) && decide (windowEnd t x.patternN form ≤ 0x800000) && decide (t.off ≤ windowEnd t x.patternN form) &&
    t.d.readAligned t.row0 t.col0 && x.windowLoad t.d && t.col0 % 256 == 0 && t.cols % 256 == 0 && x.windows.isEmpty &&
    endsIn ((t.lineList.map (fun p => (t.d.tagAt p.1 p.2, 16))).forM (fun r => checkWindow 0 r.1 r.2)) s.core () s.core &&
    goes (stageHalf 0 (halfIn s 0) 1) (s.core.bump (kHth 0 9)) && goes (stageHalf 0 (halfIn s form) 0) s.core

theorem witness_window : ∀ m ∈ tags, ∀ header ∈ [1 <<< 112, 1 <<< 114], (tiles header compressed {} m).Ready 0 (.tload (loadWindow 1)) ∧
    windowFits (tiles header compressed {} m) = true := by
  unfold State.Ready State.Issues Core.Own; decide +kernel

/-- The tag lines of that window, read. -/
theorem witness_windowTags : ∃ b, (tiles (1 <<< 112) compressed {} (at_ 0x8000 (leBytes 16 (9 + 3 <<< 32)))).core.Reads
    ((tiles 0 compressed).core.who 0 ((tiles 0 compressed).core.hearth 0 |>.desc 0)) [(0x8000, 16)] b := by
  refine ⟨leBytes 16 (9 + 3 <<< 32), reads_of (bs := [leBytes 16 (9 + 3 <<< 32)]) rfl (endsIn_run ?_) ?_ (endsIn_run ?_)⟩ <;> decide +kernel

/-- A Hearth with the first half of a 16-bit window staged, dense or in a form. -/
def halfStaged (kind : Nat) (m : Mem) : State :=
  let s := tiles (1 <<< 112) wide {} m
  let x := s.core.hearth 0
  tiles (1 <<< 112) wide { windows := [x.halfRecord (x.tloadArgs firstHalf) 0 kind] } m

/-- The second half follows the first, and either can be staged. -/
def secondFits (s : State) (at_ : Nat) : Bool :=
  let x := s.core.hearth 0
  let t := x.tloadArgs (secondHalf at_)
  let me := x.halfRecord t 0 1
  decide (x.windows.find? (fun w => followsHalf t.d.fmt w me) = x.windows.head?) && x.windowLoad t.d && t.d.readAligned t.row0 t.col0 && decide (windowEnd t x.patternN 1 ≤ 0x800000) &&
    goes (stageHalf 0 me 0) s.core && goes (stageHalf 0 (x.halfRecord (if t.off < 3072 then { t with off := 3072 } else t) 0 0) 3) s.core &&
    x.windows.all (fun a => decide ((x.halfRecord (x.halfArgs a) a.desc 0).next = 3072) && goes (stageHalf 0 (x.halfRecord (x.halfArgs a) a.desc 0) 3) (s.core.bump (kHth 0 9)))

theorem witness_secondHalf : ∀ p ∈ [(0, taggedWide), (1, taggedWide), (1, [])], ∀ a ∈ [2, 3], (halfStaged p.1 p.2).Ready 0 (.tload (secondHalf a)) ∧
    secondFits (halfStaged p.1 p.2) a = true := by
  unfold State.Ready State.Issues Core.Own; decide +kernel

/-- A TSTORE of 8 rows from an offset of 8 KiB. -/
def store (rows src : Nat) (transpose : Bool := false) : TstoreF := ⟨0, 0, 0, rows, 0, 8, transpose, src, false⟩

/-- A Hearth with some scratch to store. -/
def storing (d : Nat) : State := tiles 0 d { scratch := (List.range 64).map (fun i => ⟨8192 + i, BitVec.ofNat 8 (i * i)⟩) }

/-- What a TSTORE asks of its operands. -/
def storeFits (d : Nat) (f : TstoreF) (src : Fmt) : Bool :=
  let x := (storing d).core.hearth 0
  let t := x.tstoreArgs f
  decide (fmtOfCode f.srcFmt = some src) && sourceOk (some src) t.d.fmt && !(f.transpose && t.d.fmt.isMx) &&
    decide (t.off < 0x800000) && decide (t.off + (if f.transpose then stagedBytes src false (rows32 t.cols) t.rows else t.size src) ≤ 0x800000) && !t.d.compress && !t.d.hasAlt && !t.d.shadow &&
    (!t.d.fmt.isMx || t.d.wholeBlocks t.d.blockDim t.row0 t.rows t.col0 t.cols)

theorem witness_tstore : ∀ p ∈ [(dense, store 1 0, Fmt.fp32), (recompute, store 1 0, .fp32), (bf16, store 1 0, .fp32), (bf16, store 1 2 true, .fp16), (mxCols, store 2 0, .fp32)],
    (storing p.1).Ready 0 (.tstore p.2.1) ∧ storeFits p.1 p.2.1 p.2.2 = true := by
  unfold State.Ready State.Issues Core.Own; decide +kernel

/-- A compressed BF16 row under an observing card, its tag lines here or on device 0x10. -/
def observed (device : Nat) : State :=
  tiles (1 <<< 114) (tensor (device <<< 49 + 0x6000) 32 1 512 1 + 1 <<< 352 + 2 <<< 384) { scratch := memPutAll none [] 8192 (List.replicate 32 (leBytes 2 0x3F80)).flatten }

theorem witness_tstoreTags : ∀ aux ∈ [0, 0x10], (observed aux).Ready 0 (.tstore (store 4 1)) ∧ ((observed aux).core.hearth 0).observe = true ∧ ((observed aux).core.hearth 0).pattern = 0 ∧
    (((observed aux).core.hearth 0).tstoreArgs (store 4 1)).d.compress = true ∧
    endsIn (([(aux <<< 49 + 0x8000, 16)] : List (Nat × Nat)).forM (fun r => checkWindow 0 r.1 r.2)) (observed aux).core () (observed aux).core = true := by
  unfold State.Ready State.Issues Core.Own; decide +kernel

/-- A row of stacked memory lies in these channel bytes and is the agent's. -/
def rowPlace (c : Core) (w : Who) (a n : Nat) (ks : List Nat) : Bool :=
  decide (a < 2 ^ 64) && !badGlobal a && c.isLocal a && decide ks.Nodup && (match c.place (a % 2 ^ 48) n with | .ok (.stacked p) => decide (c.dram.keys p n = some ks) | _ => false) &&
    endsIn (checkKey w (a % 2 ^ 48) n .write) c () c

theorem rowPlace_of {c : Core} {w : Who} {a n : Nat} {ks : List Nat} (h : rowPlace c w a n ks = true) : c.RowPlace w a n ks := by
  simp only [rowPlace, Bool.and_eq_true, Bool.not_eq_true', decide_eq_true_eq] at h
  obtain ⟨⟨⟨⟨⟨h1, h2⟩, h3⟩, h4⟩, h5⟩, h6⟩ := h
  refine ⟨h1, h2, h3, h4, ?_, endsIn_run h6⟩
  split at h5
  · exact ⟨_, by assumption, of_decide_eq_true h5⟩
  · cases h5

/-- The 128 bytes from 0x1000 on. -/
def row128 : List Nat := (({} : Dram).keys 0x1000 128).getD []

theorem witness_tstoreRow : (storing dense).Ready 0 (.tstore (store 4 0)) ∧
    (storing dense).core.RowPlace { (storing dense).core.who 0 (((storing dense).core.hearth 0).desc 0) with slot := 1 } 0x1000 128 row128 ∧ (storing dense).core.Windows 0 [(0x1000, 128)] ∧
    (let t := ((storing dense).core.hearth 0).tstoreArgs (store 4 0)
     t.d.fmt = .fp32 ∧ t.rows = 1 ∧ t.row0 < t.d.rows ∧ t.col0 + t.cols ≤ t.d.ext0 ∧ t.cols = 32 ∧ t.d.rowAddr t.row0 + t.col0 * 4 = 0x1000 ∧ t.off + 128 ≤ 0x800000 ∧ t.d.keep = 0) := by
  refine ⟨?_, rowPlace_of ?_, endsIn_run ?_, ?_⟩
  · unfold State.Ready State.Issues Core.Own; decide +kernel
  all_goals decide +kernel

/-- One row of that store: its runs start at whole bytes, and its bytes can be stored. -/
theorem witness_tstoreRuns : let s := storing dense
    let x := s.core.hearth 0
    let t := x.tstoreArgs (store 4 0)
    let out := (t.outs x .fp32 (t.inside (stagedCodes .fp32 true t.groups 32 (s.core.scratchBytes 0 t.off 128)))).2
    goes ((elemWrites t.d out ++ scaleWrites t.d t.d.blockDim out).forM (storePiece 0 1 t.d)) (s.core.issued 0) = true := by
  decide +kernel

/-- One index word in scratch. -/
def indexed (header ix : Nat) : State := tiles header dense { scratch := memPutAll none [] 0 (leBytes 4 ix) ++ [⟨1024, 7#8⟩] } (at_ 0x1000 [1#8, 2#8])

def gather : TindexF := ⟨0, 0, 4, 0, 2, 0⟩

/-- The rows that the index word names. -/
def oneRow (s : State) : List (Option Nat) := indexRows ((s.core.hearth 0).desc 0) (s.core.scratchBytes 0 0 4) 1

theorem witness_indexed : ∀ p ∈ [(0, 7, 0), (0, 8, 1), (1 <<< 115, 7, 0), (1 <<< 115, 8, 1)], (indexed p.1 p.2.1).Ready 0 (.tgather gather) ∧
    (oneRow (indexed p.1 p.2.1)).filter Option.isNone = List.replicate p.2.2 none ∧ ((indexed p.1 p.2.1).core.hearth 0).strict = (p.1 != 0) ∧
    (indexed p.1 p.2.1).Ready 0 (.tscatter gather) := by
  unfold State.Ready State.Issues Core.Own; decide +kernel

theorem witness_tgatherReads : ∃ b, ((indexed 0 8).core.rangeNoted 0 1).Reads ((indexed 0 8).core.who 0 ((indexed 0 8).core.hearth 0 |>.desc 0))
    (gatherRanges ((indexed 0 8).core.hearth 0 |>.desc 0) 0 32 [none, some 7]) b := by
  refine ⟨List.replicate 128 0#8, reads_of (bs := [List.replicate 128 0#8]) rfl (endsIn_run ?_) ?_ (endsIn_run ?_)⟩ <;> decide +kernel

theorem witness_tgatherWindows : (∀ m ∈ [some 7, none], ((indexed 0 7).core.rangeNoted 0 0).Windows 0 (gatherRanges ((indexed 0 7).core.hearth 0 |>.desc 0) 0 32 [m])) ∧
    (let s := tiles 0 remote {} []
     s.Ready 0 (.tgather gather) ∧ s.core.Windows 0 (gatherRanges (s.core.hearth 0 |>.desc 0) 0 32 [some 0]) ∧
       stalls (readRanges (s.core.who 0 (s.core.hearth 0 |>.desc 0)) (.tgather 0 gather (s.core.hearth 0).regs) (gatherRanges (s.core.hearth 0 |>.desc 0) 0 32 [some 0])) s.core = true) := by
  refine ⟨?_, ?_, endsIn_run ?_, ?_⟩
  · intro m hm
    simp only [List.mem_cons, List.not_mem_nil, or_false] at hm
    rcases hm with rfl | rfl <;> exact endsIn_run (by decide +kernel)
  · unfold State.Ready State.Issues Core.Own; decide +kernel
  all_goals decide +kernel

theorem witness_tscatterStores : (match (indexed 0 7).core.place (((indexed 0 7).core.hearth 0).desc 0).base 1 with | .ok (.stacked a) => a == 0x1000 | _ => false) = true ∧
    goes ([[(7, 0, rawElem (7, 127))]].forM (storeElems 0 1 ((indexed 0 7).core.hearth 0 |>.desc 0) 0)) ((indexed 0 7).core.rangeNoted 0 0) = true := by
  decide +kernel

/-! Frames and the hash accumulator. -/

/-- A frame record: two tokens from 4 on, columns 16 to 63 of rows of 64, FP32, one part, Tally 255; `more` adds fields. -/
def frameOf (more : Nat) : Nat := 1 <<< 40 + 255 <<< 48 + 5 <<< 64 + 48 <<< 96 + 16 <<< 112 + 2 <<< 128 + 4 <<< 160 + 64 <<< 192 + 256 <<< 224 + 0x9000 <<< 256 + more

/-- Ordered mode with two slots. -/
def ordered : Nat := frameOf (1 <<< 32 + 2 <<< 28)

/-- Hearth 0 with a card of one tensor and scratch, and its Smithy. -/
def smithing (y : Smithy) (d : Nat := 0) (x : Hearth := {}) (c : Core := {}) : State :=
  job { x with regs := [(1, 1#32), (2, 16#32)], card0 := cardOf 0 [d] } { c with cfg := region, smithies := [(0, y)] }

theorem witness_frameRecord : ∀ y ∈ [({} : Smithy), { frame := some { record := frameOf 0 } }, { frame := some { record := frameOf 0, closes := 1 } }],
    (smithing y).core.halted = false ∧ (smithing y).core.dram.errors = [] ∧ (smithing y).core.tongsFree 0 1 [] = true ∧ ((smithing y).core.hearth 0).lentRun = none ∧ (frameRecOf (frameOf 0)).ok = true ∧
    (frameRecOf ordered).ok = true ∧ (frameRecOf (frameOf (32 <<< 96))).ok = true ∧ (frameRecOf (frameOf (1 <<< 96))).ok = false ∧ (frameRecOf (frameOf 0)).parts = 1 := by
  decide

/-- A combine scatter of one row of 32 columns at its frame's first column, token 5, slot 1, weight 2. -/
def scattered (record : Nat) (x : Hearth := {}) : State :=
  smithing { frame := some { record := record } } (tensor 0x500020000000 64 16 256 0)
    { x with scratch := memPutAll none [] 0 (leBytes 16 (5 + 1 <<< 32 + 0x40000000 <<< 64)) ++ memPutAll none [] 1024 (List.replicate 32 (leBytes 4 0x3F800000)).flatten }

def scatterRow : TindexF := ⟨0, 0, 1, 0, 1, 2⟩

/-- The list entries of that scatter. -/
def scatterEntries (s : State) : List Nat := unpackCodes 128 1 0 (s.core.scratchBytes 0 0 16)

theorem witness_combine : ∀ r ∈ [frameOf 0, ordered], (scattered r).Ready 0 (.tscatter scatterRow) ∧ (((scattered r).core.hearth 0).desc 0).fmt = .fp32 ∧
    ((scattered r).core.smithy 0).frame = some { record := r } ∧ (((scattered r).core.hearth 0).reg 2).toNat = (frameRecOf r).col0 ∧ 16 + 32 ≤ (frameRecOf r).col0 + (frameRecOf r).cols ∧
    (∀ e ∈ scatterEntries (scattered r), (frameRecOf r).outside e = false) ∧ (scattered r).core.isLocal (((scattered r).core.hearth 0).desc 0).base = true ∧
    (frameRecOf r).parts = 1 ∧ (match (scattered r).core.place (((scattered r).core.hearth 0).desc 0).base 1 with | .ok (.combine 0 off) => off == 0 | _ => false) = true := by
  unfold State.Ready State.Issues Core.Own; decide +kernel

/-- The same scatter under a card, its token past the frame's. -/
def outsider (strict : Bool) : State :=
  let s := scattered (frameOf 0)
  { s with core := s.core.modHearth 0 (fun x => { x with card0 := cardOf (if strict then 1 <<< 115 else 0) [tensor 0x500020000000 64 16 256 0],
                                                          scratch := memPutAll none x.scratch 0 (leBytes 16 (7 + 1 <<< 32)) }) }

theorem witness_combineOutside : ∀ b ∈ [true, false], (outsider b).Ready 0 (.tscatter scatterRow) ∧ ((outsider b).core.hearth 0).strict = b ∧
    (scatterEntries (outsider b)).map (frameRecOf (frameOf 0)).outside = [true] ∧ (frameRecOf (frameOf 0)).parts = 1 := by
  unfold State.Ready State.Issues Core.Own; decide +kernel

/-- A tensor in another Smithy's buffer, and past the cells of its own. -/
theorem witness_combineElsewhere : ∀ p ∈ [(0x500020400000, 1), (0x500020200000, 0)], ∃ m off, (m ≠ 0 ∨ 0x200000 ≤ off) ∧
    ({} : Core).place p.1 1 = .ok (.combine m off) ∧ ({} : Core).isLocal p.1 = true := by
  intro p hp
  simp only [List.mem_cons, List.not_mem_nil, or_false] at hp
  rcases hp with rfl | rfl
  · exact ⟨1, 0, by decide, rfl, by decide⟩
  · exact ⟨0, 0x200000, by decide, rfl, by decide⟩

/-- A bank with two chunks, of which the first meets a cell written before. -/
def banked (record : Nat) : State :=
  smithing { frame := some { record := record, cells := [(16, 0x3F800000#32)], written := [16] }, banks := [(1, [{ cell := 16, vals := [0x40000000#32, 0x40400000#32] }, { cell := 272, vals := [] }])] }

theorem witness_scatterChunk : ∀ r ∈ [frameOf 0, ordered], (banked r).core.halted = false ∧ (banked r).core.dram.errors = [] ∧ ((banked r).core.smithy 0).frame.isSome = true ∧
    kvGet ((banked r).core.smithy 0).banks 1 = some [{ cell := 16, vals := [0x40000000#32, 0x40400000#32] }, { cell := 272, vals := [] }] := by decide

/-- A frame that can drain, with or without a held record. -/
def draining (held : List (Nat × Nat)) : State := smithing { frame := some { record := frameOf 0, cells := [(0, 0x3F800000#32)], closes := 1 }, held := held }

theorem witness_drain : ∀ l ∈ [[], [(3, ordered)]], (draining l).core.halted = false ∧ (draining l).core.dram.errors = [] ∧ (draining l).core.drainReady 0 = true ∧ 0 < (frameRecOf (frameOf 0)).cols ∧
    (frameRecOf (frameOf 0)).gauge = 0 ∧ ((draining l).core.tally 1 0 255) = {} := by decide

/-- The rows of that frame written. -/
def drainWrites (s : State) (m : Nat) (f : CFrame) : OpM Unit :=
  let r := frameRecOf f.record
  let d := r.desc
  let w : Who := { actor := .smithy m, tenant := s.core.smithyTenant m, key := r.key }
  let vals := fun t => (List.range r.cols).map (fun j => (r.token0 + t, r.col0 + j, f.value r t j))
  let outs := fun t => convList d d.fmt 0 r.seed r.step (vals t)
  (List.range r.tokens).forM (fun t => putAny w vcReq ((r.outBase + (r.token0 + t) * r.outStride + r.col0 * (d.fmt.elemBits / 8)) % 2 ^ 64)
    (packCodes d.fmt.elemBits ((outs t).map (fun e => e.2.2.code))))

theorem witness_drainWrites : (match (drainWrites (draining []) 0 { record := frameOf 0, cells := [(0, 0x3F800000#32)], closes := 1 }).run (draining []).core with
    | .ok () c => !c.waits (.smithy 0) && decide (c.smithy 0 = (draining []).core.smithy 0) && c.dram.errors.isEmpty
    | .error _ _ => false) = true := by decide +kernel

/-- Hash table 2 of 10 rows of 128 columns, and a spill table of four entries at 0x10000. -/
def hashed (hash : HashAcc := {}) (hub : Mem := []) : State :=
  smithing {} (tensor 0x500102000000 128 10 512 0)
    { scratch := memPutAll none [] 0 (leBytes 8 (9 + 3 <<< 32)) ++ memPutAll none [] 1024 (List.replicate 32 (leBytes 4 0x3F800000)).flatten }
    { latched := [(rSpillBase, 0x10000), (rSpillLog2, 2), (rHashTbl 2, 10 <<< 32 + 1)], hash := hash, hub := hub, route := { masks := [(0x10, 1)] } }

/-- The last row in range, at columns 16 to 47. -/
theorem witness_hash : hashed.Ready 0 (.tscatter scatterRow) ∧ ((hashed.core.hearth 0).desc 0).fmt = .fp32 ∧ bit ((hashed.core.hearth 0).desc 0).base 48 = false ∧
    hashTable ((hashed.core.hearth 0).desc 0).base = some 2 ∧ hashed.core.isLocal ((hashed.core.hearth 0).desc 0).base = true ∧ hashed.core.hashSetting 2 = some (10, 128) ∧
    16 + 32 ≤ 128 ∧ (∀ e ∈ unpackCodes 64 1 0 (hashed.core.scratchBytes 0 0 8), bits e 63 48 = 0 ∧ bits e 31 0 < 10) ∧
    (match hashed.core.place ((hashed.core.hearth 0).desc 0).base 1 with | .ok (.hashTbl 2 _) => true | _ => false) = true := by
  unfold State.Ready State.Issues Core.Own; decide +kernel

/-- The check and the addition of that row go through. -/
theorem witness_hashAdd : goes (do
    (linePieces 16 (List.replicate 32 0x3F800000#32)).forM (fun p => checkKey (hashed.core.who 0 ((hashed.core.hearth 0).desc 0))
      (hashSpot 0x500102000000 p % 2 ^ 48) (8 + 4 * p.2.2.length) .write)
    hashAddRow 2 (9 + 3 <<< 32) 16 (List.replicate 32 0x3F800000#32)) hashed.core = true := by decide +kernel

/-- The same scatter of a row, under a card, at a base. -/
def hashing (row : Nat) (strict : Bool) (base : Nat := 0x500102000000) : State :=
  { hashed with core := hashed.core.modHearth 0 (fun x => { x with card0 := cardOf (if strict then 1 <<< 115 else 0) [tensor base 128 10 512 0],
                                                                    scratch := memPutAll none x.scratch 0 (leBytes 8 (row + 3 <<< 32)) }) }

theorem witness_hashRows : ∀ p ∈ [(9, false), (10, false), (10, true)], (hashing p.1 p.2).Ready 0 (.tscatter scatterRow) ∧ ((hashing p.1 p.2).core.hearth 0).strict = p.2 ∧
    ((unpackCodes 64 1 0 ((hashing p.1 p.2).core.scratchBytes 0 0 8)).filter (fun e => decide (10 ≤ bits e 31 0))).length = p.1 - 9 := by
  unfold State.Ready State.Issues Core.Own; decide +kernel

/-- A table of device 0x10: the row goes there. -/
theorem witness_hashAway : let s := hashing 9 true (0x10 <<< 49 + 0x500102000000)
    let d := (s.core.hearth 0).desc 0
    s.Ready 0 (.tscatter scatterRow) ∧ bit d.base 48 = false ∧ hashTable d.base = some 2 ∧ s.core.isLocal d.base = false ∧
    goes (hashSend { s.core.who 0 d with slot := 1 } d.base d.key true (9 + 3 <<< 32) 16 (List.replicate 32 0x3F800000#32)) s.core = true := by
  unfold State.Ready State.Issues Core.Own; decide +kernel

/-- A merge record of some bytes at 0x20000, step 7, fabric Tally 6. -/
def mergeRecord (bytes : Nat) : Nat := 0x20000 + bytes <<< 64 + 6 <<< 96 + 7 <<< 128

/-- The steps of a merge with nothing resident or spilled all succeed, and its header of 64 bytes fits or not. -/
def merges (record : Nat) (fits : Bool) : Bool :=
  match liveSpill.run hashed.core with
  | .error _ _ => false
  | .ok live c =>
    decide (live = []) && decide (64 ≤ bits record 95 64) == fits && bits record 511 160 == 0 && bits record 127 112 == 0 &&
      goes (blockPut (bits record 63 0) (sparseHeader 7 0 64 stOk)) c && goes (blockPut (bits record 63 0) (sparseHeader 7 0 64 stQuota)) c &&
      goes (signalFabric (bits record 111 96) 1) c && hashed.core.tallyOwned 0 (bits record 111 96)

theorem witness_merge : hashed.core.halted = false ∧ hashed.core.agentFree (.hearth 0) ∧ hashed.core.hash.lines = [] ∧ merges (mergeRecord 64) true = true ∧
    merges (mergeRecord 63) false = true := by unfold Core.agentFree; decide +kernel

/-! The Anvil and the Temper. -/

/-- An operation of a job side succeeds and leaves it as it was. -/
def keeps {α : Type} (m : OpM α) (c : Core) : Bool := match m.run c with | .ok _ d => decide (d = c) | .error _ _ => false

/-- A filled plane. -/
def full : Plane := { loaded := true, width := 128 }

def ld (narrow : Bool := false) (kinner : Bool := true) : AloadF := ⟨0, kinner, narrow, 32, 3, 3, false⟩

def fp8 : Nat := tensor 0x5000 32 8 64 3
def bf16c : Nat := tensor 0x6000 256 1 512 1 + 1 <<< 352

theorem witness_aload : ∀ p ∈ [(tiles 0 bf16, ld, Fmt.bf16), (tiles 0 bf16 { shadow := some full }, ld, Fmt.bf16), (tiles 0 fp8, ld true, .e4m3), (tiles (1 <<< 114) bf16c, ld, .bf16)],
    p.1.Ready 0 (.aload p.2.1) ∧ (p.1.core.hearth 0).skipMode = 0 ∧ ((p.1.core.hearth 0).pairT 0).1.fmt = p.2.2 ∧ ((p.1.core.hearth 0).pairT 0).2.fmt = p.2.2 ∧
      pairAllowed p.2.2 p.2.2 0 = true ∧ 32 * 1024 < 0x800000 ∧ 32 * 1024 + ((p.1.core.hearth 0).pairT 0).1.tileBytes true 128 33 33 ≤ 0x800000 := by
  unfold State.Ready State.Issues Core.Own; decide +kernel

/-- A narrow-K table whose first segment covers 64 positions and whose others cover none. -/
def narrowTab : State := tiles 0 fp8 { scratch := memPutAll none [] 0 (leBytes 16 (64 <<< 32) ++ List.replicate 48 0#8) }

theorem witness_aloadNarrow : narrowTab.Ready 0 (.aload (ld true)) ∧ narrowAllowed .e4m3 .e4m3 (narrowTab.core.hearth 0).accFormat = true ∧
    (chunks 16 (narrowTab.core.scratchBytes 0 (1024 * (narrowTab.core.hearth 0).cardField 396 384) 64)).mapM (fun e => narrowEntry (leNat e)) =
      some [(64, 0, 0), (0, 0, 0), (0, 0, 0), (0, 0, 0)] := by
  unfold State.Ready State.Issues Core.Own; decide +kernel

/-- An observed window of 256 columns in one dense row. -/
def staged : State := tiles (1 <<< 114) bf16c { scratch := memPutAll none [] 0x8000 (leBytes 64 (1 <<< 32 + 256 <<< 48)) }

theorem witness_aloadWindow : staged.Ready 0 (.aload ld) ∧ (staged.core.hearth 0).observe = true ∧ ((staged.core.hearth 0).pairT 0).1.compress = true ∧
    keeps (Machine.loadWindow 0 ((staged.core.hearth 0).pairT 0).1 ((staged.core.hearth 0).pairT 0).2 ld 0x8000 0 0) staged.core = true := by
  unfold State.Ready State.Issues Core.Own; decide +kernel

/-- A run in skip mode over one tensor, and the columns that its first chunk's lane map names. -/
def skipping (mode : Nat) (x : Hearth := {}) : State := tiles (mode <<< 116) bf16 x

def probeLoad : AloadF := ⟨1, true, false, 32, 3, 3, false⟩

theorem witness_aloadSkip : (∀ m ∈ [1, 3], (skipping m).Ready 0 (.aload probeLoad) ∧ ((skipping m).core.hearth 0).skipMode = m) ∧
    goes (loadProbe 0 probeLoad (32 * 1024) 0 0) (skipping 1).core = true ∧ (skipping 3).Ready 0 (.aload ld) ∧ ((skipping 3).core.hearth 0).shadow = none ∧
    (match (laneMap 0 0 true).run (skipping 3).core with
      | .ok m c => goes (readSpan 0 (((skipping 3).core.hearth 0).pairT 0).1 true 128 0 0 (32 * 1024) m.width) c
      | .error _ _ => false) = true := by
  unfold State.Ready State.Issues Core.Own; decide +kernel
theorem witness_aloadProbeFull : (skipping 1 { probeNext := some { n0 := 0, k0 := 0, cols := [], sigma := [] } }).Ready 0 (.aload probeLoad) := by
  unfold State.Ready State.Issues Core.Own; decide +kernel

/-- An ASTREAM of one row into group 15; `base` is in x6. -/
def stream (opens closes : Bool) : AstreamF := ⟨0, false, 15, opens, closes, 0, 6, 4, false⟩

/-- What the stream opens or goes on with. -/
def streamGroup (out : Nat) : Group :=
  { base := 0, rows := 1, slotsPerRow := 4, fmt := 0, fold := false, binding := { out := out }, acc := List.replicate 1 (List.replicate 128 (0#32, 0#32)) }

/-- A stream's Hearth: its shadow plane loaded or not, its group open or not. -/
def streams (shadow : Option Plane) (out : Nat) (opened : Bool) : State :=
  tiles 0 bf16 { shadow := shadow, bindings := [(15, { out := out })], groups := if opened then [(15, streamGroup out)] else [],
                 scratch := memPutAll none [] 0 (List.replicate 32 [0x80#8, 0x3F#8]).flatten ++ memPutAll none [] 64 (List.replicate 192 0#8) }

theorem witness_astream : ∀ p ∈ [(none, true), (some full, true), (none, false), (some full, false)], (streams p.1 0 (!p.2)).Ready 0 (.astream (stream p.2 true)) ∧
    (let x := (streams p.1 0 (!p.2)).core.hearth 0
     x.skipMode = 0 ∧ pairAllowed (x.pairT 0).1.fmt (x.pairT 0).2.fmt x.accFormat = true ∧ kPerBeat x.accFormat (x.pairT 0).1.fmt (x.pairT 0).2.fmt = 128 ∧
       (x.reg 4).toNat = 1 ∧ (x.reg 6).toNat = 0 ∧ kvGet x.groups 15 = (if p.2 then none else some (streamGroup 0)) ∧ x.groupSlots = (4, 4) ∧
       splitWordOk ((kvGet x.bindings 15).getD {}).split false = true ∧ (kvGet x.bindings 15).getD {} = (streamGroup 0).binding ∧ x.accFormat = (streamGroup 0).fmt ∧
       bit x.card 107 = false ∧ 1 * stagedRowBytes (x.pairT 0).2.fmt true 128 ≤ 0x800000 ∧ (0 % x.groupSlots.2 = 0)) := by
  unfold State.Ready State.Issues Core.Own; decide +kernel

/-- That group, or an abandoned one, can be closed. -/
theorem witness_astreamCloses : ∀ out ∈ [0, 7], goes (closeOp 0 15) (streams none out true).core = true := by decide +kernel

/-- A stream that finds its rows held by a writeback to come. -/
def heldRows : State :=
  let s := streams none 0 false
  { s with core := s.core.modHearth 0 (fun x => { x with wbq := [{ binding := { out := 0 }, base := 0, slots := 4, values := [], segments := 1, flags := 0 }] }) }

theorem witness_astreamHeld : heldRows.Ready 0 (.astream (stream true false)) ∧
    ((heldRows.core.hearth 0).wbq.any (fun w => slotsMeet 0 (1 * (1 * (heldRows.core.hearth 0).groupSlots.1)) w.base w.slots)) = true ∧
    ((heldRows.core.hearth 0).wbq.any (fun w => slotsMeet 0 (4 * (1 * (heldRows.core.hearth 0).groupSlots.1)) w.base w.slots)) = true := by
  unfold State.Ready State.Issues Core.Own; decide +kernel

/-- A stream in a skip run: no probe, or one of two columns with its plane; its group open or not. -/
def skipGroup (probe : List Nat) : Group :=
  let map : LaneMap := { n0 := 0, extent := 128, width := 128, chosen := [3], probe := probe, forced := probe.map (fun _ => false) }
  let part : SkipPart := { map := map, probes := [probe.map (fun _ => 0#32)], absSum := [0#32], sigma := probe.map (fun _ => FV.zero), tiles := [] }
  { streamGroup 0 with slotsPerRow := 32, skip := some part }

def skipStream (mode : Nat) (probe : List Nat) (opened : Bool) : State :=
  tiles (mode <<< 116 + 0x8000 <<< 192) (bf16 + 1 <<< 352 + 3 <<< 384)
    { shadow := some full, bindings := [(15, { out := 0 })], groups := if opened then [(15, skipGroup probe)] else [],
      probeNext := if probe.isEmpty then none else some { n0 := 0, k0 := 0, cols := probe.map (fun _ => List.replicate 128 (f32V fOne)), sigma := probe.map (fun _ => f32V fOne) },
      scratch := memPutAll none [] 0 (List.replicate 128 [0x80#8, 0x3F#8]).flatten }

/-- What such a stream asks of its Hearth and its group. -/
def skipFits (s : State) (f : AstreamF) : Bool :=
  let x := s.core.hearth 0
  match (if f.opens then openGroup 0 15 0 1 false else pure ()).run (s.core.issued 0) with
  | .error _ _ => false
  | .ok () c0 => match kvGet (c0.hearth 0).groups 15 with
    | none => false
    | some g => match g.skip with
      | none => false
      | some sp => g.rows == 1 && !sp.judged && sp.map.n0 == 0 && x.skipMode != 0 && pairAllowed (x.pairT 0).1.fmt (x.pairT 0).2.fmt x.accFormat && decide (g.total + 128 ≤ 2 ^ 22) &&
        (x.skipMode == 3 || sp.map.probe.isEmpty || x.probeNext.isSome) && (x.reg 4).toNat == 1 && (x.reg 6).toNat == 0 && decide (stagedRowBytes (x.pairT 0).2.fmt true 128 ≤ 0x800000)

theorem witness_astreamSkip : ∀ p ∈ [(1, [], true), (1, [0, 5], true), (3, [0, 5], true), (3, [], false)],
    (skipStream p.1 p.2.1 p.2.2).Ready 0 (.astream (stream (!p.2.2) true)) ∧ skipFits (skipStream p.1 p.2.1 p.2.2) (stream (!p.2.2) true) = true := by
  unfold State.Ready State.Issues Core.Own; decide +kernel

/-- Narrow streams of one row: four groups from g 12 on, opened at x5, or open; the table's first segment streams row 0, the others nothing. -/
def narrowStream (opens closes : Bool) : AstreamF := ⟨0, true, 12, opens, closes, 0, 5, 4, false⟩

def narrowGroup (j : Nat) : Group := { streamGroup 7 with base := 1024 + 4 * j }

def narrowing (opened : Bool) : State :=
  tiles (1 <<< 384) fp8
    { shadow := some { full with narrow := true }, bindings := [(12, { out := 7 }), (13, { out := 7 }), (14, { out := 7 }), (15, { out := 7 })],
      groups := if opened then (List.range 4).map (fun j => (12 + j, narrowGroup j)) else [],
      scratch := memPutAll none [] 0 (List.replicate 64 0x38#8) ++ memPutAll none [] 1024 (leBytes 16 (64 <<< 32) ++ List.replicate 48 0#8) }

theorem witness_astreamNarrow : ∀ b ∈ [true, false], (narrowing (!b)).Ready 0 (.astream (narrowStream b true)) ∧
    (let x := (narrowing (!b)).core.hearth 0
     narrowAllowed (x.pairT 0).1.fmt (x.pairT 0).2.fmt x.accFormat = true ∧ (x.reg 5).toNat = 1024 ∧ x.groupSlots = (4, 4) ∧ 1024 * x.cardField 396 384 + 64 ≤ 0x800000 ∧
       (∀ j ∈ List.range 4, kvGet x.groups (12 + j) = (if b then none else some (narrowGroup j)) ∧ splitWordOk ((kvGet x.bindings (12 + j)).getD {}).split true = true ∧
         1024 + 4 * j + 4 ≤ 16384) ∧
       (chunks 16 ((narrowing (!b)).core.scratchBytes 0 (1024 * x.cardField 396 384) 64)).mapM (fun e => narrowEntry (leNat e)) = some [(64, 0, 0), (0, 0, 0), (0, 0, 0), (0, 0, 0)] ∧
       goes ([12, 13, 14, 15].forM (closeOp 0)) (narrowing true).core = true) := by
  unfold State.Ready State.Issues Core.Own; decide +kernel

theorem witness_aclosesNarrow : (narrowing true).Issues 0 (.aclose ⟨12, true⟩) ∧ (narrowing true).core.dram.errors = [] := by unfold State.Issues; decide

theorem witness_abind : (tiles 0 0).Issues 0 (.abind ⟨15, 6, 7, 1, 2, 0⟩) ∧ ∀ g ∈ [[], [(15, streamGroup 7)], [(15, streamGroup 0)]],
    (tiles 0 0 { groups := g }).Issues 0 (.aclose ⟨15, false⟩) := by unfold State.Issues; decide

/-- A group of two segments, the first closed into the spare area at 0xC000 of the card, and one of a split. -/
def segmented (split : Nat) : State :=
  tiles (0xA000 <<< 192) dense { groups := [(15, { streamGroup 0 with closedSegs := if split = 0 then 1 else 0, binding := { out := 0, split := split, noSplit := split == 0 } })] }

theorem witness_acloseSegments : ∀ n ∈ [0, 1], (segmented n).Issues 0 (.aclose ⟨15, false⟩) ∧
    (match kvGet ((segmented n).core.hearth 0).groups 15 with | some gr => keeps (groupSegments 0 gr) (segmented n).core && gr.fmt == 0 && gr.binding.split == n | none => false) = true := by
  unfold State.Issues; decide +kernel

/-- A group of a skip run that is not judged yet. -/
def unjudged : State :=
  tiles (1 <<< 116) bf16 { groups := [(15, { streamGroup 0 with slotsPerRow := 32, skip := some { map := { n0 := 0, extent := 128, width := 128, chosen := [], probe := [], forced := [] }, probes := [], absSum := [], sigma := [], tiles := [] } })] }

theorem witness_acloseJudges : unjudged.Issues 0 (.aclose ⟨15, false⟩) ∧ (match kvGet (unjudged.core.hearth 0).groups 15 with
    | some gr => (match gr.skip with | some sp => !sp.judged && goes (judgeGroup 0 15 gr sp) unjudged.core | none => false) | none => false) = true := by
  unfold State.Issues; decide +kernel

theorem witness_acloseJudged : ∀ m ∈ [1, 3], (skipStream m [0, 5] true).Issues 0 (.aclose ⟨15, false⟩) ∧
    goes (readLocal ((skipStream m [0, 5] true).core.who 0 ((skipStream m [0, 5] true).core.hearth 0).companion) ((skipStream m [0, 5] true).core.hearth 0).auxArea 64)
      ((skipStream m [0, 5] true).core.issued 0) = true := by unfold State.Issues; decide +kernel

/-- A judged skip group of one row with nothing called back. -/
def judged : Group :=
  { streamGroup 0 with slotsPerRow := 32, skip := some { map := { n0 := 0, extent := 128, width := 128, chosen := [], probe := [], forced := [] }, probes := [], absSum := [], sigma := [],
                                                         tiles := [], judged := true, forcedCount := 2, unguarded := 3 } }

/-- Its plan in the last KiB of scratch. -/
def catching : State := tiles (1 <<< 116) bf16 { groups := [(15, judged)], scratch := memPutAll none [] 0x7FFC00 (List.replicate 64 0#8) }

theorem witness_acatch : catching.Ready 0 (.acatch ⟨0, 15, 8191, false⟩) ∧ kvGet (catching.core.hearth 0).groups 15 = some judged ∧ (judged.skip.map (·.judged)) = some true ∧
    (judged.skip.map (·.called)) = some [] ∧ 1024 * 8191 + 64 ≤ 0x800000 := by unfold State.Ready State.Issues Core.Own; decide +kernel

/-- The same with no output bound. -/
def catchingNone : State := tiles (1 <<< 116) bf16 { groups := [(15, { judged with binding := { out := 7 } })], scratch := memPutAll none [] 0x7FFC00 (List.replicate 64 0#8) }

theorem witness_acatchNone : catchingNone.Ready 0 (.acatch ⟨0, 15, 8191, false⟩) := by unfold State.Ready State.Issues Core.Own; decide +kernel

/-- Two columns called back, of one tile of 128 positions. -/
def called : Group :=
  match judged.skip with
  | some sp => { judged with skip := some { sp with called := [0, 5], tiles := [(0, true)] } }
  | none => judged

def recalling : State := tiles (1 <<< 116) bf16 { groups := [(15, called)], scratch := memPutAll none [] 1024 (leBytes 64 (512 + 256 <<< 32)) }

/-- What an ACATCH reads back. -/
def recalled (s : State) : List (Nat × Nat) :=
  match kvGet (s.core.hearth 0).groups 15 with
  | some gr => match gr.skip with
    | some sp => let st := ((s.core.hearth 0).pairT 0).1
      sp.tiles.flatMap (fun t => sp.called.flatMap (fun j => columnRanges st (kPerBeat (s.core.hearth 0).accFormat st.fmt ((s.core.hearth 0).pairT 0).2.fmt) (sp.map.n0 + j) t))
    | none => []
  | none => []

theorem witness_acatchCalls : recalling.Ready 0 (.acatch ⟨0, 15, 1, false⟩) ∧ recalled recalling ≠ [] ∧
    endsIn ((recalled recalling).forM (fun r => checkWindow 0 r.1 r.2)) (recalling.core.issued 0) () (recalling.core.issued 0) = true := by
  unfold State.Ready State.Issues Core.Own; decide +kernel

/-- The same with the tensor on device 0x10. -/
def recallingAway : State :=
  tiles (1 <<< 116) (bf16 + 0x10 <<< 49) { groups := [(15, called)], scratch := memPutAll none [] 1024 (leBytes 64 (512 + 256 <<< 32)) }

theorem witness_acatchAway : recallingAway.Ready 0 (.acatch ⟨0, 15, 1, false⟩) ∧
    stalls (readRanges (recallingAway.core.who 0 ((recallingAway.core.hearth 0).pairT 0).1) (.acatch 0 ⟨0, 15, 1, false⟩ (recallingAway.core.hearth 0).regs 1) (recalled recallingAway))
      (recallingAway.core.issued 0) = true := by
  unfold State.Ready State.Issues Core.Own; decide +kernel

/-- A writeback of one row: plain, of a skip group, and an aborted first split part of two. -/
def wb (split : Nat) (skip : Option SkipPass) : Writeback :=
  { binding := { out := 0, split := split, noSplit := split == 0 }, base := 0, slots := 4, values := [List.replicate 128 0x3F800000#32], segments := 1, flags := 0, skip := skip,
    status := if split == 0 then 0 else stBudget }

def skipOne : SkipPass := { lanes := List.replicate 128 false, extent := 128, replay := false, first := true }

/-- A tensor of one column. -/
def column : Nat := tensor 0x1000 1 8 128 0

/-- A Hearth with that writeback; its split area is at 0xA000. -/
def writes (w : Writeback) : State := tiles (0xA000 <<< 192 + 0x8000 <<< 256 + 1 <<< 288) column { wbq := [w, wb 0 none], allocs := [(0, 4, 0), (8, 4, 0)] }

theorem witness_writeback : ∀ w ∈ [wb 0 none, wb 0 (some skipOne), wb 1 none], (writes w).core.halted = false ∧ (writes w).core.writebackReady 0 = true ∧
    ((writes w).core.hearth 0).wbq = [w, wb 0 none] := by decide +kernel

/-- The pass of a writeback. -/
def wbPass (s : State) (w : Writeback) (ch : Chain) : Pass :=
  { slot := 2, chain := ch, out := some ((s.core.hearth 0).desc w.binding.out), m0 := w.binding.m0, n0 := w.binding.n0, rows := w.values.length,
    lanes := activeLanes ((s.core.hearth 0).desc w.binding.out) w.binding.n0, vals := w.values, skip := w.skip, segments := w.segments, flags := w.flags, status := w.status }

def wbTaken (s : State) (w : Writeback) : Core :=
  s.core.modHearth 0 (fun x => ({ x with wbq := [wb 0 none] } : Hearth).freeFootprint w.base)

theorem witness_writebackRuns : (∀ w ∈ [wb 0 none, wb 0 (some skipOne)], goes (do
      let ch ← readChain 0 w.binding.record
      runPass 0 (wbPass (writes w) w ch)) (wbTaken (writes w) w) = true) ∧
    goes (do maskRecord 0 (((writes (wb 0 none)).core.hearth 0).desc 0) (wb 0 none).binding skipOne
             skipCounts 0 skipOne 0 1 1 [] : OpM Unit) (wbTaken (writes (wb 0 (some skipOne))) (wb 0 none)) = true ∧
    goes (splitWriteback 0 (wb 1 none)) (wbTaken (writes (wb 1 none)) (wb 1 none)) = true := by decide +kernel

/-- The four bytes of the first row of that tensor. -/
def row4 : List Nat := (({} : Dram).keys 0x1000 4).getD []

theorem witness_writebackRow : (writes (wb 0 none)).core.Own 0 ∧ (writes (wb 0 none)).core.dram.errors = [] ∧
    (writes (wb 0 none)).core.RowPlace { (writes (wb 0 none)).core.who 0 (((writes (wb 0 none)).core.hearth 0).desc 0) with slot := 2 } 0x1000 4 row4 ∧
    (writes (wb 0 none)).core.Windows 0 [(0x1000, 4)] ∧
    (let x := (writes (wb 0 none)).core.hearth 0
     activeLanes (x.desc 0) 0 = 1 ∧ (x.desc 0).fmt = .fp32 ∧ (x.desc 0).keep = 0 ∧ (x.desc 0).rowAddr 0 = 0x1000 ∧ 0 < (x.desc 0).rows ∧ x.cardField 191 128 = 0) := by
  refine ⟨?_, by decide, rowPlace_of ?_, endsIn_run ?_, ?_⟩
  · unfold Core.Own; decide +kernel
  all_goals decide +kernel

/-- A chain's stages on three lanes. -/
def plainPass : Pass := { chain := {}, out := none, m0 := 0, n0 := 0, rows := 1, lanes := 128 }

theorem witness_chain : plainPass.skip = none := rfl

/-- A VRUN of no row into tensor 0, and of one FP32 row into nothing. -/
theorem witness_vslot : (tiles 0 column).Issues 0 (.vdef 7 31) ∧ (tiles 0 column).Issues 0 (.vlen 2) ∧ ∀ p ∈ [(0, 3, 0), (7, 4, 1)],
    (tiles 0 column).Issues 0 (.vrun ⟨7, p.2.1, 0, p.1, 3, 3, false⟩) ∧ (((tiles 0 column).core.hearth 0).reg p.2.1).toNat = p.2.2 ∧
    goes (do let ch ← readChain 0 none
             runPass 0 { chain := ch, out := if p.1 = 7 then none else some (((tiles 0 column).core.hearth 0).desc p.1), m0 := 0, n0 := 0, rows := p.2.2, lanes := 1,
                         src := some 0 }) (tiles 0 column).core = true := by
  unfold State.Issues; decide +kernel

theorem witness_vrunRow : (tiles 0 column).Ready 0 (.vrun ⟨7, 4, 0, 0, 3, 3, false⟩) ∧
    (tiles 0 column).core.RowPlace { (tiles 0 column).core.who 0 (((tiles 0 column).core.hearth 0).desc 0) with slot := 3 } 0x1000 4 row4 ∧
    (tiles 0 column).core.Windows 0 [(0x1000, 4)] ∧
    (let x := (tiles 0 column).core.hearth 0
     kvGet x.chains 7 = none ∧ (x.reg 4).toNat = 1 ∧ (x.reg 3).toNat = 0 ∧ x.vlen ≤ 128 ∧ min x.vlen ((x.desc 0).ext0 - 0) = 1 ∧ (x.desc 0).keep = 0 ∧ (x.desc 0).rowAddr 0 = 0x1000 ∧ x.cardField 191 128 = 0) := by
  refine ⟨?_, rowPlace_of ?_, endsIn_run ?_, ?_⟩
  · unfold State.Ready State.Issues Core.Own; decide +kernel
  all_goals decide +kernel

/-! Descriptors. -/

/-- Ring 1 of port 0 at slot 63, whose doorbell has announced slots 63 alone; Hearth 0's part and more of the machine are given. -/
def announced (x : Hearth := {}) (c : Core := {}) : State :=
  { core := { c with mgt := { c.mgt with active := true, logical := [0, 1, 44], deviceId := 0x8001 }, hearths := [(0, x)],
                     cfg := region ++ [(rRing 0 1 2, 6)], ports := [(0, { trained := true, rings := [(1, { enabled := true, fetchHead := 63, sqTail := 0 })] })] } }

def slot63 : Origin := ⟨0, 1, 63⟩

/-- Whether nothing hinders a descriptor. -/
def unhindered (s : State) (o : Origin) (op : Nat) (d : Desc) : Bool :=
  let f : Fetched := { slot := o.slot, opcode := op, d := d }
  (s.core.descHearths o.port f).all (s.core.hearthFree o.port o.ring op (s.core.descRefused o.port op d)) && (s.core.signalHearths o.port f).all (s.core.unclaimed o.port o.ring) &&
    (op != 9 || (s.core.crucible.phase == .idle && s.core.ports.all (fun p => p.2.rings.all (fun y => y.2.started.all (fun t => t.opcode != 9)))))

/-- What a descriptor that starts asks for, as a test. -/
def starts (s : State) (o : Origin) (op : Nat) (d : Desc) (hs : List Nat) : Bool :=
  let x := s.core.ring o.port o.ring
  !s.core.halted && s.core.fetches o.port o.ring && x.fetchHead == o.slot && x.sqTail != o.slot && x.sqTail == (o.slot + 1) % s.core.ringEntries o.port o.ring &&
    x.fetched.isEmpty && x.started.isEmpty && s.core.descHearths o.port { slot := o.slot, opcode := op, d := d } == hs && !s.core.descRefused o.port op d && unhindered s o op d

theorem unhindered_of {s : State} {o : Origin} {op : Nat} {d : Desc} (h : unhindered s o op d = true) : s.core.Unhindered o op d := by
  simp only [unhindered, Bool.and_eq_true, Bool.or_eq_true, List.all_eq_true, beq_iff_eq, bne_iff_ne] at h
  exact ⟨h.1.1, h.1.2, fun e => h.2.resolve_left (fun k => k e)⟩

theorem starts_of {s : State} {o : Origin} {op : Nat} {d : Desc} {hs : List Nat} (h : starts s o op d hs = true) : s.Starts o op d hs := by
  simp only [starts, Bool.and_eq_true, Bool.not_eq_true', beq_iff_eq, bne_iff_ne, List.isEmpty_iff] at h
  obtain ⟨⟨⟨⟨⟨⟨⟨⟨⟨h1, h2⟩, h3⟩, h4⟩, h5⟩, h6⟩, h7⟩, h8⟩, hr⟩, h9⟩ := h
  exact ⟨h1, ⟨h2, h3, h4, h5, h6, h7⟩, hr, h8, unhindered_of h9⟩

/-- A barrier that must be 0 in the reserved bits, a path without a unit, a lend bit on a copy, a run after a restart. -/
theorem witness_refused : announced.core.halted = false ∧ announced.core.Announced slot63 ∧
    ∀ p ∈ [(1, ({ rsv := 1 } : Desc)), (3, { l := 1, lend := true }), (5, { b := 8, l := 4 }), (6, { p := 1 <<< 56 + 64 <<< 32 }), (8, { p := 1 }), (11, { ka := 1 })],
      announced.core.Unhindered slot63 p.1 p.2 ∧ announced.core.descRefused 0 p.1 p.2 = true := by
  refine ⟨rfl, by unfold Core.Announced; decide +kernel, fun p h => ⟨unhindered_of ?_, ?_⟩⟩ <;> revert p <;> decide +kernel

theorem witness_completion : (ending.core.ring 0 1).started = [run3] ∧ run3.slot = 3 ∧ (ending.core.port 0).lost = false ∧ (ending.core.ring 0 1).lost = false ∧ run3.irq = false := by decide

/-- An image of one word that is END 9. -/
def image9 : List Byte := leBytes 8 1 ++ [0x80#8, 9#8]

/-- A load of that image from memory or the host to offset 0xDFC0, of a card, at Hearths 0 and 1. -/
def loads (host : Bool) : Desc := { path := 0x4000, aHost := host, a := 0x5000, l := 10, ka := 5, p := 0xDFC0 }
def cards (host : Bool) : Desc := { path := 0x4000, aHost := host, a := 0x5000 }

/-- Memory with that image. -/
def imageThere (x : Hearth := {}) : State := announced x { stacked := at_ 0x5000 image9 }

theorem witness_lessonStarts : ∀ host ∈ [true, false], imageThere.Starts slot63 1 (loads host) [0, 1] ∧ imageThere.Starts slot63 2 (cards host) [0, 1] ∧
    imageThere.Starts slot63 1 { loads host with path := 0x007F } [] ∧ imageThere.Starts slot63 2 { cards host with path := 0x007F } [] :=
  fun host h => ⟨starts_of (by revert host; decide +kernel), starts_of (by revert host; decide +kernel),
    starts_of (by revert host; decide +kernel), starts_of (by revert host; decide +kernel)⟩

theorem witness_noneLends : [0, 1].any imageThere.core.lending = false := by decide +kernel

def loading : Core := ((imageThere.core.begun slot63 1 (loads false) [0, 1]).claim slot63 [0, 1]).modStarted slot63 (fun t => { t with total := 10 })

theorem witness_lessonReads : loading.Reads { actor := .desc slot63, tenant := loading.originTenant slot63, key := 5 } [(0x5000, 10)] image9 := by
  refine reads_of (bs := [image9]) rfl (endsIn_run ?_) ?_ (endsIn_run ?_) <;> decide +kernel

theorem witness_lessonLoads : goes (loadImage [0, 1] 0xDFC0 image9) loading = true := by decide +kernel

def carding : Core := (imageThere.core.begun slot63 2 (cards false) [0, 1]).claim slot63 [0, 1]

def card512 : List Byte := image9 ++ List.replicate 502 0#8

theorem witness_cardReads : carding.Reads { actor := .desc slot63, tenant := carding.originTenant slot63, key := 0, keyed := false } [(0x5000, 512)] card512 := by
  refine reads_of (bs := [card512]) (by simp) (endsIn_run ?_) ?_ (endsIn_run ?_) <;> decide +kernel

/-- Hearth 0 with that image and a card of version `v` that enters at its word. -/
def carded (v : Nat) : State :=
  announced { lesson := memPutAll zeroByte [] 0 image9, images := [{ off := 0, len := 10, descMask := 0, pairMask := 0 }],
              card0 := cardOf (v <<< 96 + 63 <<< 120 + 4 <<< 304 + 1 <<< 288 + 63 <<< 400) [] }

theorem witness_runStarts : ∀ v ∈ [1, 2], (carded v).Starts slot63 3 {} [0] ∧
    ([0].mapM (fun h => cardOk h (((carded v).core.cardPicked ((carded v).core.hearth h).card).getD ([], [])))).run ((carded v).core.begun slot63 3 {} [0]) =
      .ok [v == 1] ((carded v).core.begun slot63 3 {} [0]) := by
  intro v hv
  refine ⟨starts_of ?_, endsIn_run ?_⟩ <;> revert v <;> decide +kernel

/-- Tenant 0 owns Smithy 0 alone, its Hearth 0 lends; ring 1 of port 1 is tenant 1's. -/
def lends (mode : Nat) : State :=
  let s := announced {} { latched := [(rTenantMode, mode), (rTenantSmithy, 2), (rLendEnable0, 1)], stacked := at_ 0x5000 (leBytes 64 lendRecord) }
  { s with core := { s.core with cfg := region ++ [(rRing 1 1 2, 6)], ports := [(1, { rings := [(1, { enabled := true, fetchHead := 63, sqTail := 0 })] })] } }

def lendSlot : Origin := ⟨1, 1, 63⟩

def lendDesc : Desc := { lend := true, a := 0x5000, ka := 5 }

theorem witness_lendStarts : ∀ mode ∈ [0, 1], (lends mode).Starts lendSlot 3 lendDesc [] ∧ (lends mode).core.twoTenant = (mode == 1) := by
  intro mode h
  refine ⟨starts_of ?_, ?_⟩ <;> revert mode <;> decide +kernel

theorem witness_lendPosts : ((lends 1).core.begun lendSlot 3 lendDesc []).Reads { actor := .desc lendSlot, tenant := 1, key := 5, keyed := false } [(0x5000, 64)] (leBytes 64 lendRecord) ∧
    lendBad (leNat (leBytes 64 lendRecord)) = false ∧ ∃ h ∈ (lends 1).core.mgt.logical, (lends 1).core.hearthTenant h ≠ 1 ∧ (lends 1).core.lending h = true := by
  refine ⟨reads_of (bs := [leBytes 64 lendRecord]) (by decide +kernel) (endsIn_run ?_) ?_ (endsIn_run ?_), ?_, 0, ?_⟩ <;> decide +kernel

/-- The same with a record that names a reserved bit, with no Hearth that lends, and with the record in its host's memory. -/
def lendsBad (enabled record : Nat) : State :=
  let s := lends 1
  { s with core := { s.core with latched := [(rTenantMode, 1), (rTenantSmithy, 2), (rLendEnable0, enabled)], stacked := at_ 0x5000 (leBytes 64 record) } }

theorem witness_lendRefusals : (∀ p ∈ [(1, lendRecord + 1 <<< 300), (0, lendRecord)], (lendsBad p.1 p.2).Starts lendSlot 3 lendDesc [] ∧ (lendsBad p.1 p.2).core.twoTenant = true) ∧
    (lends 1).Starts lendSlot 3 { lendDesc with aHost := true } [] ∧ lendBad (lendRecord + 1 <<< 300) = true ∧
    (∀ h ∈ (lendsBad 0 lendRecord).core.mgt.logical, (lendsBad 0 lendRecord).core.hearthTenant h = 1 ∨ (lendsBad 0 lendRecord).core.lending h = false) := by
  refine ⟨fun p h => ⟨starts_of ?_, ?_⟩, starts_of ?_, ?_, ?_⟩ <;> (try revert p) <;> decide +kernel

theorem witness_lendReadsBad : ((lendsBad 0 lendRecord).core.begun lendSlot 3 lendDesc []).Reads { actor := .desc lendSlot, tenant := 1, key := 5, keyed := false } [(0x5000, 64)] (leBytes 64 lendRecord) := by
  refine reads_of (bs := [leBytes 64 lendRecord]) (by decide +kernel) (endsIn_run ?_) ?_ (endsIn_run ?_) <;> decide +kernel

/-- A lent item whose image of 10 bytes is in device memory; its card is there too, or in its host's memory. The card enters at the image's word, or below it. -/
def lentLocal (host : Bool) (entry : Nat) : State :=
  let n := 0x5000 + 10 <<< 224 + 9 <<< 240 + 20 <<< 272 + 5 <<< 96 + 0x6000 <<< 128 + 5 <<< 192 + (if host then 1 <<< 289 else 0)
  let card := leBytes 64 (1 <<< 96 + 63 <<< 120 + 1 <<< 288 + entry <<< 304 + 63 <<< 400)
  let s := lendable 3
  let regions := [(rRgnLo 0, 0xFE), (rRgnHi 0, 5 <<< 32 + 0xFFFFFFFF)]
  { s with core := { s.core with tt := { lend := [(3, [{ lendPost with record := n }])] }, cfg := regions, stacked := memPutAll zeroByte (at_ 0x5000 image9) ((({} : Dram).key 0x6000).getD 0) card } }

theorem witness_lentLocal : ∀ host ∈ [true, false], ∃ key p, (lentLocal host 0x7004).core.halted = false ∧ (lentLocal host 0x7004).core.lentReady 0 = true ∧
    (lentLocal host 0x7004).core.lentNext 0 = some (key, p) ∧ (lentLocal host 0x7004).core.dram.errors = [] ∧ bit p.record 288 = false ∧ bit p.record 289 = host ∧
    (lentBound (lentLocal host 0x7004) p.record).Reads { actor := .desc p.origin, tenant := 1, key := bits p.record 127 96 } [(0x5000, 10)] image9 ∧
    (goes (loadImage [0] 0xE000 image9) (lentBound (lentLocal host 0x7004) p.record) = true) := by
  intro host h
  have two : host = true ∨ host = false := by cases host <;> simp
  rcases two with rfl | rfl <;> refine ⟨3, _, rfl, by decide +kernel, rfl, rfl, by decide +kernel, by decide +kernel, ?_, by decide +kernel⟩ <;>
    refine reads_of (bs := [image9]) rfl (endsIn_run ?_) ?_ (endsIn_run ?_) <;> decide +kernel

/-- Whether the card of that item, read from device memory, passes its checks, and whether it enters at the lent part of the store. -/
def lentCards (entry : Nat) : Option (Bool × Bool) :=
  let s := lentLocal false entry
  match s.core.lentNext 0 with
  | none => none
  | some (_, p) =>
    let b := lentBound s p.record
    match (readLocal { actor := .desc p.origin, tenant := 1, key := bits p.record 223 192 } 0x6000 512).run b with
    | .ok card _ => match b.cardPicked ({ b.hearth 0 with card1 := card } : Hearth).card, (loadImage [0] 0xE000 image9).run b with
      | some picks, .ok _ c => match (cardOk 0 picks).run (c.modHearth 0 (fun x => { x with card1 := card })) with
        | .ok g d => some (g, decide (0xE000 ≤ 2 * ((d.modHearth 0 (fun x => x.resolved picks)).hearth 0).cardField 319 304))
        | _ => none
      | _, _ => none
    | _ => none

theorem witness_lentCards : lentCards 0x7004 = some (true, true) ∧ lentCards 0x6000 = some (false, false) := by decide +kernel

/-! Copies, fills, signals, Roll calls of the host. -/

/-- A copy and a fill of 8 bytes at 0x5000, to the host, here or to device 0x10. -/
def copy (aHost bHost : Bool) (b : Nat := 0x6000) : Desc := { aHost := aHost, bHost := bHost, a := 0x5000, b := b, l := 8, ka := 5, kb := 5 }
def fill (bHost : Bool) (b : Nat := 0x6000) : Desc := { bHost := bHost, b := b, l := 8, kb := 5, p := 0x1122334455667788 }

/-- Memory with bytes at 0x5000, and a route to device 0x10. -/
def copies : State := announced {} { stacked := at_ 0x5000 [1#8, 2#8], route := { masks := [(0x10, 1)] } }

theorem witness_copyStarts : ∀ p ∈ [(false, false), (false, true), (true, false)], copies.Starts slot63 4 (copy p.1 p.2) [] ∧ copies.Starts slot63 5 (fill p.2) [] ∧
    copies.Starts slot63 5 (fill false (0x10 <<< 49 + 0x6000)) [] :=
  fun p h => ⟨starts_of (by revert p; decide +kernel), starts_of (by revert p; decide +kernel), starts_of (by decide +kernel)⟩

def copying (d : Desc) : Core := (copies.core.begun slot63 4 d []).modStarted slot63 (fun t => { t with total := 8 })

theorem witness_copyReads : ∀ b ∈ [true, false], (copying (copy false b)).Reads { actor := .desc slot63, tenant := (copying (copy false b)).originTenant slot63, key := 5 } [(0x5000, 8)]
    (leBytes 8 0x0201) := by
  intro b h
  refine reads_of (bs := [leBytes 8 0x0201]) (by simp) (endsIn_run ?_) ?_ (endsIn_run ?_) <;> revert b <;> decide +kernel

theorem witness_copyStores : ∀ b ∈ [0x6000, 0x10 <<< 49 + 0x6000], goes (storeTo ((copying (copy false false b)).descWho slot63 5) vcBulk b (leBytes 8 0x0201)) (copying (copy false false b)) = true := by
  decide +kernel

/-- A host signal of `n` (or SUB) to a Tally of a scope: local ones of Hearths 0 and 1, Smithy ones of their Smithy, a fabric one here or elsewhere. -/
def sig (op scope idx n : Nat) (dev : Option Nat := none) : Desc := { path := 0x4000, p := n + idx <<< 32 + scope <<< 48 + b2n dev.isSome <<< 50 + op <<< 56, q := dev.getD 0 }

theorem witness_hostSignals : ∀ p ∈ [sig 1 0 63 0xFFFFFFFF, sig 3 0 63 9, sig 1 1 255 9, sig 1 2 65535 9, sig 1 2 65535 9 (some 1), sig 3 2 3 0 (some 0x10), sig 1 2 3 9 (some 0x10)],
    copies.Starts slot63 6 p [] :=
  fun p h => starts_of (by revert p; decide +kernel)

theorem witness_hostSignalUnits : copies.core.targets 0 0x4000 = some [0, 1] ∧ smithiesOf [0, 1] = [0] ∧ descSigDevice (sig 1 2 65535 9 (some 1)) copies.core = none ∧
    copies.core.tallyOwned (copies.core.originTenant slot63) 65535 = true ∧ descSigDevice (sig 3 2 3 0 (some 0x10)) copies.core = some 0x10 := by decide +kernel

theorem witness_hostSignalSent : ∀ e ∈ [sig 3 2 3 0 (some 0x10), sig 1 2 3 9 (some 0x10)],
    goes (sendRequest { (copies.core.begun slot63 6 e []).descWho slot63 0 with keyed := false } .signal
      { op := opSignalTx, dst := 0x10, addr := globalAddr 0x10 (0x500060000000 + 8 * 3), len := 8, opndA := e.p % 2 ^ 32 + (if bits e.p 63 56 == 3 then 3 else 1) <<< 32 } vcSync [])
      (copies.core.begun slot63 6 e []) = true := by decide +kernel

/-- A Roll call on context 1, whose one participant is the host; reduction 1; 64 bytes at 0x5000 or of the host. -/
def hostRolls (counts : List (Nat × Nat)) : State :=
  announced {} { stacked := at_ 0x5000 [1#8], hub := memPutAll (some 0#8) [] (0x1000 + 64) (leBytes 64 (1 <<< 34 + 1 <<< 36)), latched := [(rRollBase, 0x500000001000)],
                  sync := { ctxs := [(1, { gen := 3, counts := counts })] } }

def hostRoll (aHost : Bool) : Desc := { aHost := aHost, a := 0x5000, ka := 5, p := 1 + 1 <<< 8 }

theorem witness_hostRolls : ∀ aHost ∈ [true, false], (hostRolls [(128, 3)]).Starts slot63 7 (hostRoll aHost) [] := fun aHost h => starts_of (by revert aHost; decide +kernel)

theorem witness_hostRollReads : ((hostRolls [(128, 3)]).core.begun slot63 7 (hostRoll false) []).Reads { actor := .desc slot63, tenant := 0, key := 5, keyed := false } [(0x5000, 64)]
    (leBytes 64 1) ∧ (hostRolls [(128, 3)]).core.twoTenant = false := by
  refine ⟨reads_of (bs := [leBytes 64 1]) (by simp) (endsIn_run ?_) ?_ (endsIn_run ?_), ?_⟩ <;> decide +kernel

theorem witness_hostRollArrives : goes (rollArrive 1 (.host slot63) 1 none (leBytes 64 1) (descRollBack (hostRoll false))) ((hostRolls [(128, 3)]).core.begun slot63 7 (hostRoll false) []) = true := by
  decide +kernel

/-! Records of the Bellows, the Crucible and the snapshot engine. -/

/-! Records of the Bellows, the Crucible and the snapshot engine. -/

/-- Hub bytes of layer 2: four experts, 4 KiB of weights, 64-byte tokens and answers, one Lodge slot at 0x20000, four guest rows at 0x30000, a plan at offset 0, lists at 0x40000,
counters at 0x8000. -/
def layerHub : Mem :=
  memPutAll (some 0#8) [] (0x2000 + 256)
    (leBytes 128 (4 + 4096 <<< 128 + 64 <<< 192 + 64 <<< 224 + 0x20000 <<< 256 + 1 <<< 320 + 0x40000 <<< 384 + 0x30000 <<< 448 + 4 <<< 544 + 0x8000 <<< 576))

/-- Epoch 7 live, and a 64-byte record at 0x5000. -/
def recorded (rec : Nat) (rolled : Bool := false) : State :=
  announced {} { stacked := at_ 0x5000 (leBytes 64 rec), hub := layerHub, latched := [(rLayerBase, 0x500000002000)], bellows := { lastEpoch := 7, batches := [{ batch7 with rollArrived := rolled }] } }

/-- A FORWARD of micro-batch 1; a BACKWARD, a RELEASE and a CANCEL of epoch 7. -/
def forward1 : Nat := forward + 1 <<< 32
def backward7 : Nat := forward + 1 <<< 64 + 7 <<< 80 + 0x50000 <<< 384 + 0x60000 <<< 448
def release7 : Nat := forward + 2 <<< 64 + 7 <<< 80
def cancel7 : Nat := forward + 3 <<< 64 + 7 <<< 80

def at5000 : Desc := { a := 0x5000 }

theorem witness_batchRecords : ∀ n ∈ [forward1, backward7, release7, cancel7], (recorded n).Starts slot63 8 at5000 [] ∧ (recorded n).Starts slot63 8 { at5000 with aHost := true } [] ∧
    (recorded n).core.dram.errors = [] ∧
    ((recorded n).core.begun slot63 8 at5000 []).recordRefused 0 (batchRecOf n) = false ∧ (((recorded n).core.begun slot63 8 at5000 []).targets 0 (batchRecOf n).workerPath).isSome = true ∧
    ((batchRecOf n).kind = 1 → (recorded n).core.repeats (batchRecOf n) = false) ∧ ((batchRecOf n).kind = 2 → (recorded n).core.backwardRefused (batchRecOf n) = false) :=
  fun n h => ⟨starts_of (by revert n; decide +kernel), starts_of (by revert n; decide +kernel), by revert n; decide +kernel⟩

theorem witness_recordReads : ((recorded cancel7).core.begun slot63 8 at5000 []).Reads { actor := .desc slot63, tenant := 0, keyed := false } [(0x5000, 64)] (leBytes 64 cancel7) ∧
    leNat ((leBytes 64 cancel7).take 64) = cancel7 := by
  refine ⟨reads_of (bs := [leBytes 64 cancel7]) (by simp) (endsIn_run ?_) ?_ (endsIn_run ?_), ?_⟩ <;> decide +kernel

/-- What each of the four records leaves for the Bellows to move on with. -/
def takenIn (s : State) (n : Nat) : Core :=
  let b := s.core.begun slot63 8 at5000 []
  match (batchRecOf n).kind with
  | 1 => b.modBellows (fun x => { x with waitingRecords := x.waitingRecords ++ [(slot63, false, 0x5000, n)] })
  | 2 => (b.modBellows (fun x => { x with acceptClock := x.acceptClock + 1 })).modBatch 7 (fun y =>
      { y with bwd := some { record := n, recHost := false, recAddr := 0x5000, acc := b.bellows.acceptClock, origin := slot63 } })
  | 3 => b.modBatch 7 (fun y => { y with enders := y.enders ++ [(slot63, false)] })
  | _ => ((b.dropItems 7).modBatch 7 (fun y => { y with enders := y.enders ++ [(slot63, true)], cancelled := true })).dropPulls 7

theorem witness_recordsMoveOn : ∀ n ∈ [forward1, backward7, release7, cancel7], goes bellowsPump (takenIn (recorded n true) n) = true ∧
    ((recorded n true).core.batch 7).all (fun y => y.rollArrived) = true := by decide +kernel

/-- A Bellows with nothing to do and a step it is at; one with the batch live; a path without a Hearth; a reserved bit. -/
def idleBellows (rec : Nat) : State :=
  announced {} { stacked := at_ 0x5000 (leBytes 64 rec), hub := layerHub, latched := [(rLayerBase, 0x500000002000)], bellows := { lastEpoch := 65535, acceptClock := 3, layerStep := [(2, (3, 0, 1))] } }

def refusedRecords : List (State × Nat) :=
  [(recorded forward, forward), (recorded (forward + 1 <<< 511), forward + 1 <<< 511), (recorded (forward + 1 <<< 64 + 6 <<< 80), forward + 1 <<< 64 + 6 <<< 80)]

theorem witness_forwardAccepted : (idleBellows forward).Starts slot63 8 at5000 [] ∧ (batchRecOf forward).kind = 1 ∧
    (let b := (idleBellows forward).core.begun slot63 8 at5000 []
     b.recordRefused 0 (batchRecOf forward) = false ∧ (b.targets 0 (batchRecOf forward).workerPath).isSome = true ∧ b.bellows.batches = [] ∧ b.bellows.waitingRecords = [] ∧
       b.bellows.intake = [] ∧ b.bellows.stalled = [] ∧ b.bellows.guests = [] ∧ b.bellows.standbyRev = 0 ∧ b.layerNow 2 = some (3, 0, 1)) := by
  refine ⟨starts_of ?_, ?_, ?_⟩ <;> decide +kernel

theorem witness_recordsRefused : ∀ p ∈ refusedRecords, p.1.Starts slot63 8 at5000 [] ∧ (p.1.core.dram.errors = [] ∧
    (let b := p.1.core.begun slot63 8 at5000 []
     let r := batchRecOf p.2
     b.recordRefused 0 r = true ∨ (r.kind = 1 ∧ b.repeats r = true) ∨ (r.kind = 2 ∧ b.backwardRefused r = true))) :=
  fun p h => ⟨starts_of (by revert p; decide +kernel), by revert p; decide +kernel⟩

/-- A record whose workers' path reaches no Hearth. -/
def lostRecord : Nat := forward1 - 0xC000 <<< 96 + 0x007F <<< 96

theorem witness_recordsLost : (recorded lostRecord).Starts slot63 8 at5000 [] ∧ (batchRecOf lostRecord).kind = 1 ∧
    (let b := (recorded lostRecord).core.begun slot63 8 at5000 []
     b.recordRefused 0 (batchRecOf lostRecord) = false ∧ b.repeats (batchRecOf lostRecord) = false ∧ b.targets 0 (batchRecOf lostRecord).workerPath = none) := by
  refine ⟨starts_of ?_, ?_, ?_⟩ <;> decide +kernel

theorem witness_recordsRead : ∀ p ∈ [(idleBellows forward, forward), (recorded lostRecord, lostRecord)] ++ refusedRecords,
    (p.1.core.begun slot63 8 at5000 []).Reads { actor := .desc slot63, tenant := 0, keyed := false } [(0x5000, 64)] (leBytes 64 p.2) := by
  intro p h
  refine reads_of (bs := [leBytes 64 p.2]) (by simp) (endsIn_run ?_) ?_ (endsIn_run ?_) <;> revert p <;> decide +kernel

/-- A step record of step 5, no shard owned, after the step last run. -/
def stepRecord : Nat := 5
def stepping (last : Option Nat) : State := announced {} { stacked := at_ 0x5000 (leBytes 64 stepRecord), crucible := { lastRun := last }, hub := memPutAll (some 0#8) [] 0x1000 (leBytes 64 (3 <<< 36)), latched := [(rRollBase, 0x500000001000)] }

theorem witness_step : ∀ last ∈ [none, some 4, some 5], (stepping last).Starts slot63 9 at5000 [] ∧ (stepping last).Starts slot63 9 { at5000 with aHost := true } [] :=
  fun last h => ⟨starts_of (by revert last; decide +kernel), starts_of (by revert last; decide +kernel)⟩

theorem witness_stepReads : ((stepping none).core.begun slot63 9 at5000 []).Reads { actor := .desc slot63, tenant := 0, keyed := false } [(0x5000, 64)] (leBytes 64 stepRecord) := by
  refine reads_of (bs := [leBytes 64 stepRecord]) (by simp) (endsIn_run ?_) ?_ (endsIn_run ?_) <;> decide +kernel

theorem witness_stepTaken : goes (acceptStep slot63 (leBytes 64 stepRecord)) ((stepping none).core.begun slot63 9 at5000 []) = true ∧ (stepRecOf (leNat (leBytes 64 stepRecord))).step ≤ 5 := by
  decide +kernel
/-- Such a record begins round 1 and arrives at its drain Roll call. -/
def roundBegun (last : Option Nat) : Core := ((stepping last).core.begun slot63 9 at5000 []).modCru (fun x =>
  { x with phase := .round 1, record := stepRecord, origin := some slot63, lastRun := some 5, acc := [], unfenced := 0 })

theorem witness_stepRound : goes (cruArrive (stepRecOf stepRecord).drainCtx .crucible 0 (List.replicate 64 0#8)) (roundBegun (some 4)) = true ∧
    (let r := stepRecOf (leNat (leBytes 64 stepRecord))
     r.rsvOk = true ∧ r.ownedCount = 0 ∧ r.rowset = 0 ∧ r.step = 5 ∧ f32V r.limit ≠ .nan ∧ (f32V r.limit).lt .zero = false ∧ f32V r.clip ≠ .nan ∧ (f32V r.clip).lt .zero = false) ∧
    (stepping (some 4)).core.crucible.announced = [] ∧ (stepping (some 4)).core.crucible.imaged = [] ∧ (stepping (some 4)).core.crucible.leafIn = [] ∧
    (stepping (some 4)).core.crucible.stageHeld = [] ∧ (stepping (some 4)).core.dram.errors = [] := by decide +kernel

/-- A plan of revision 4, effective at step 9, with 12 bytes behind its header, against the revision in force. -/
def plan : List Byte := leBytes 64 (4 + 9 <<< 32 + 12 <<< 64) ++ leBytes 12 0x010203
def seats (active : Nat) : State :=
  announced {} { stacked := at_ 0x5000 plan, latched := [(rPlanBase, 0x500000003000), (rPlanBankBytes, 64)], bellows := { activeRev := active, lastStep := some 8 } }
def seat : Desc := { a := 0x5000, l := 76 }

theorem witness_seat : ∀ active ∈ [3, 4], (seats active).Starts slot63 11 seat [] ∧ (seats active).Starts slot63 11 { seat with aHost := true } [] :=
  fun active h => ⟨starts_of (by revert active; decide +kernel), starts_of (by revert active; decide +kernel)⟩

def seating : Core := ((seats 3).core.begun slot63 11 seat []).modStarted slot63 (fun t => { t with total := 76 })

theorem witness_seatReads : seating.Reads { actor := .desc slot63, tenant := seating.originTenant slot63, keyed := false } [(0x5000, 76)] plan ∧
    goes (blockPut (seating.planBank 1) ((plan.drop 64).take 12)) seating = true := by
  refine ⟨reads_of (bs := [plan]) (by simp) (endsIn_run ?_) ?_ (endsIn_run ?_), ?_⟩ <;> decide +kernel

theorem witness_seatFits : 64 + 12 ≤ plan.length ∧ seating.bellows.activeRev < 4 ∧ seating.bellows.lastStep = some 8 ∧ 12 ≤ seating.inForce rPlanBankBytes := by decide +kernel

/-- A snapshot record: contexts 1 and 2, areas at 0x10000 and 0x20000, key 5; a bit that must be 0, a RESTORE, a TAKE of step 4. -/
def snapRecord (restore bad : Bool) : Nat := b2n restore + b2n bad <<< 1 + 1 <<< 48 + 2 <<< 56 + 4 <<< 64 + 0x10000 <<< 96 + 0x20000 <<< 160 + 5 <<< 320

/-- A device with that record, its job's state, the step it last ran; contexts 1 and 2 are the snapshot engine's. -/
def snaps (rec : Nat) (job : JobState) (last : Option Nat) (areas : Mem := []) : State :=
  let s := announced {} { stacked := at_ 0x5000 (leBytes 64 rec) ++ areas, hub := memPutAll (some 0#8) [] (0x1000 + 64) (leBytes 128 (2 <<< 34 + 5 <<< 36 + 5 <<< 548)), latched := [(rRollBase, 0x500000001000)], crucible := { lastRun := last, lastDone := last } }
  { s with core := { s.core with mgt := { s.core.mgt with jobState := job } } }

theorem witness_snaps : ∀ p ∈ [(snapRecord false true, JobState.running, none), (snapRecord true false, .running, none), (snapRecord false false, .running, some 3),
      (snapRecord false false, .running, some 4), (snapRecord true false, .restarted, none)],
    (snaps p.1 p.2.1 p.2.2).Starts slot63 10 at5000 [] ∧ (snapRecOf p.1).ok = (p.1 != snapRecord false true) ∧
      endsIn (committedAreas (snapRecOf p.1)) ((snaps p.1 p.2.1 p.2.2).core.begun slot63 10 at5000 []) [] ((snaps p.1 p.2.1 p.2.2).core.begun slot63 10 at5000 []) = true :=
  fun p h => ⟨starts_of (by revert p; decide +kernel), by revert p; decide +kernel⟩

theorem witness_snapReads : ((snaps (snapRecord false false) .running none).core.begun slot63 10 at5000 []).Reads { actor := .desc slot63, tenant := 0, keyed := false } [(0x5000, 64)]
    (leBytes 64 (snapRecord false false)) ∧ leNat (leBytes 64 (snapRecord false false)) = snapRecord false false := by
  refine ⟨reads_of (bs := [leBytes 64 (snapRecord false false)]) (by simp) (endsIn_run ?_) ?_ (endsIn_run ?_), ?_⟩ <;> decide +kernel

/-- A record that finds the engine at work. -/
def snapsBusy (restore : Bool) : State :=
  let s := snaps (snapRecord restore false) .running (some 4)
  { s with core := s.core.modSnap (fun x => { x with phase := 2 }) }

theorem witness_snapWaits : ∀ r ∈ [true, false], (snapsBusy r).Starts slot63 10 at5000 [] ∧ ((snapsBusy r).core.begun slot63 10 at5000 []).snap.phase ≠ 0 :=
  fun r h => ⟨starts_of (by revert r; decide +kernel), by revert r; decide +kernel⟩

/-- A TAKE of step 4 that begins, and its first arrival. -/
def takes : Core :=
  ((snaps (snapRecord false false) .running (some 4)).core.begun slot63 10 at5000 []).modSnap (fun x =>
    { x with phase := 1, restore := false, record := snapRecord false false, recAddr := 0x5000, origin := some slot63, area := 0x10000, turn := 1, step := 4 })

theorem witness_takeBegins : goes (snapArrive 1 (withComplement 4)) takes = true ∧ takes.crucible.lastDone = some 4 := by decide +kernel

theorem witness_takeUncommits : goes (do
      let old ← readArea (snapRecOf (snapRecord false false)) 0x10000
      writeArea (snapRecOf (snapRecord false false)) { old with committed := false }) takes = true := by decide +kernel

theorem witness_restoreBegins : goes (snapArrive 1 []) (((snaps (snapRecord true false) .restarted none).core.begun slot63 10 at5000 []).modSnap (fun x =>
    { x with phase := 1, restore := true, record := snapRecord true false, recAddr := 0x5000, origin := some slot63 })) = true := by decide +kernel

theorem mapM_some {f : Nat → Option Nat} {g : Nat → Nat} : ∀ {l : List Nat}, (∀ x ∈ l, f x = some (g x)) → l.mapM f = some (l.map g)
  | [], _ => rfl
  | a :: l, h => by
    rw [List.mapM_cons, h a (List.mem_cons_self ..), mapM_some (fun x hx => h x (List.mem_cons_of_mem _ hx))]
    rfl

/-- The channel bytes of the first 4 KiB of the two areas, on channels 32 and 1 of a device with every channel in use. -/
def area4K (a : Nat) : List Nat := (List.range 4096).map ((({} : Dram).key a).getD 0 + ·)

theorem witness_areaKeys : ∀ a ∈ [0x10000, 0x20000], ({} : Dram).keys a 4096 = some (area4K a) := by
  intro a ha
  refine mapM_some (fun i hi => ?_)
  have hi : i < 4096 := List.mem_range.1 hi
  simp only [List.mem_cons, List.not_mem_nil, or_false] at ha
  rcases ha with rfl | rfl
  · have h : (0x10000 + i) / 4096 = 16 ∧ (0x10000 + i) % 4096 = i := by omega
    simp only [Dram.key, h.1, h.2]
    rw [if_pos (by simp [channelBytes]; omega)]
    rfl
  · have h : (0x20000 + i) / 4096 = 32 ∧ (0x20000 + i) % 4096 = i := by omega
    simp only [Dram.key, h.1, h.2]
    rw [if_pos (by simp [channelBytes]; omega)]
    rfl

theorem area4K_nodup (a : Nat) : (area4K a).Nodup :=
  List.pairwise_map.2 (List.pairwise_lt_range.imp (fun h e => absurd e (by omega)))

/-- A device with region 0 over memory, and a TAKE of step 4 or a RESTORE about to begin. -/
def snapBegins (restore : Bool) : Core := (snaps (snapRecord restore false) (if restore then .restarted else .running) (some 4)).core.begun slot63 10 at5000 []

theorem witness_areasOpen : ∀ restore ∈ [true, false], ∀ a ∈ [0x10000, 0x20000], (snapBegins restore).AreaOpen 5 a (area4K a) := by
  intro restore hr a ha
  have hd : (snapBegins restore).dram = {} := rfl
  refine ⟨by rw [hd]; exact witness_areaKeys a ha, area4K_nodup a, ?_⟩
  revert a restore
  decide +kernel

theorem witness_snapJoins : ∀ restore ∈ [true, false], (snapBegins restore).SnapJoins 0 1 := by
  unfold Core.SnapJoins
  intro restore h
  refine ⟨?_, ?_, ?_, ?_, ?_, ?_, ?_, ?_, ?_, ?_, ?_⟩ <;> revert restore <;> decide +kernel

theorem witness_snapSteps : (∀ h ∈ (snapBegins false).committed (snapRecOf (snapRecord false false)), h.step < 4) ∧ (snapBegins false).crucible.lastDone = some 4 ∧
    (snapBegins false).snap.cardStep ≤ 5 ∧ (snapBegins true).mgt.jobState = .restarted := by decide +kernel

/-- A TAKE that has drained too long, of a descriptor or of none. -/
def drainingLong (origin : Option Origin) (phase : Nat := 2) : State :=
  { core := { snap := { phase := phase, record := snapRecord false false, recAddr := 0x5000, origin := origin }, mgt := { active := true } } }

theorem witness_drainTimeout : ∀ o ∈ [none, some slot63], (drainingLong o).core.halted = false ∧ (drainingLong o).core.snap.phase = 2 ∧ (drainingLong o).core.snap.origin = o ∧
    (drainingLong o).core.route.gen1 = [] ∧ (drainingLong o).core.mgt.active = true ∧ (drainingLong o).core.mgt.jobState = .running ∧ (drainingLong o 3).core.halted = false := by decide

/-! The Bellows. -/

/-- Bellows with layer 2 and a hub; epoch 7 of step 3. -/
def blown (b : Bellows) (c : Core := {}) : State :=
  job {} { c with hub := layerHub, latched := [(rLayerBase, 0x500000002000)], bellows := { b with activeRev := 4 }, route := { masks := [(0x10, 1), (0x11, 1)] }, cfg := region }

/-- A record of a token with k pairs of experts 3, and the last one given, weights 1. -/
def router (mb tok k e : Nat) : Nat := tok + 3 <<< 32 + mb <<< 64 + 2 <<< 80 + k <<< 96 + (3 + e <<< 16) <<< 128 + (0x3F800000 + 0x3F800000 <<< 32) <<< 256

/-- Epoch 7 with tokens that have come. -/
def fed (arrived : List Nat) (sealed : Bool := false) : State := blown { batches := [{ batch7 with arrived := arrived, firstSeen := !arrived.isEmpty, sealed := sealed }] }

def restsAt (c : Core) : Bool := endsIn bellowsPump c () c

theorem witness_router : (blown {}).core.recordBatch (router 0 3 2 0) = none ∧
    ((blown {}).core.modBellows (fun x => { x with intake := x.intake ++ [router 0 3 2 0] })).BellowsAtRest ∧
    ∀ a ∈ [[], [1, 3]], ((fed a).core.recordBatch (router 0 3 2 0)).map (·.epoch) = some 7 ∧ ((fed a).core.batch 7).map (·.arrived) = some a := by
  refine ⟨?_, endsIn_run ?_, ?_⟩ <;> decide +kernel

/-- A fresh token with pairs of experts 3 and 0, and one that has come. -/
theorem witness_routerFresh : ((fed [1]).core.modBatch 7 (fun b =>
      { b with firstSeen := true, arrived := 3 :: b.arrived, pairs := b.pairs ++ [⟨3, 0, 3, 0x3F800000⟩, ⟨3, 1, 0, 0x3F800000⟩] })).BellowsAtRest ∧
    (∀ e ∈ [3, 0], e < ((fed [1]).core.layer 2).experts) ∧ batch7.rec'.layer = 2 ∧ batch7.rec'.tokenCount = 4 ∧
    (((fed [3]).core.modBatch 7 (fun b => { b.note stFormat with discarded := b.discarded + 1, firstSeen := true })).bump (kBlw 5)).BellowsAtRest := by
  refine ⟨endsIn_run ?_, ?_, ?_, ?_, endsIn_run ?_⟩ <;> decide +kernel

/-- A full intake. -/
theorem witness_routerFull : 65536 ≤ (blown { intake := List.replicate 65536 0 }).core.bellows.intake.length ∧
    (blown { intake := List.replicate 65536 0 }).core.recordBatch (router 0 3 2 0) = none := by
  refine ⟨?_, by decide +kernel⟩
  show 65536 ≤ (List.replicate 65536 0).length
  exact Nat.le_of_eq List.length_replicate.symm

/-- A record of a unit's store that finds the intake full, or one of its unit's kept back before it. -/
def stalledCore : Core := (blown { stalled := [(.hearth 0, 1, router 0 2 2 0)] }).core

theorem witness_routerStalls : (∃ x ∈ stalledCore.bellows.stalled, x.1 = .hearth 0 ∧ x.2.1 = 1) ∧ (∀ x ∈ stalledCore.bellows.stalled, x.1 ≠ .block ∨ x.2.1 ≠ 9) := by decide

/-- An item that waits on ring 0 to be posted, when an even or odd number of its batch's has been. -/
def waitingItem (posted : Nat) : State := blown { batches := [batch7] } { tt := { waiting := [(0, [item4])], posted := [(seqKey 7 false 0, posted)] } }

theorem witness_post : ∀ k ∈ [0, 1], (waitingItem k).core.halted = false ∧ kvGet (waitingItem k).core.tt.waiting 0 = some [item4] ∧ ((kvGet (waitingItem k).core.tt.rings 0).getD []).length < 16384 := by
  decide +kernel

def postedItem (k : Nat) : Core :=
  let s := waitingItem k
  let tt : Timetable := { s.core.tt with waiting := kvDel s.core.tt.waiting 0, rings := kvPut s.core.tt.rings (k % 2 * 4) [item4], posted := kvPut s.core.tt.posted (seqKey 7 false 0) (k + 1) }
  ({ s.core with tt := tt } : Core).bump (kTtPosted (k % 2) 0)

theorem witness_postRests : ∀ k ∈ [0, 1], (postedItem k).BellowsAtRest :=
  fun k h => endsIn_run (by revert k; decide +kernel)

/-- A full ring of one die. -/
def fullRing : State := blown { batches := [batch7] } { tt := { waiting := [(0, [item4])], rings := [(0, List.replicate 16384 item4)] } }

theorem witness_postFull : 16384 ≤ ((kvGet fullRing.core.tt.rings 0).getD []).length ∧ kvGet fullRing.core.tt.waiting 0 = some [item4] := by
  refine ⟨?_, rfl⟩
  show 16384 ≤ (List.replicate 16384 item4).length
  exact Nat.le_of_eq List.length_replicate.symm

theorem witness_intakeTimeout : ∀ p ∈ [([], false), ([1], false), ([1], true)], (fed p.1 p.2).core.halted = false ∧
    ((fed p.1 p.2).core.batch 7).map (fun b => b.firstSeen && !b.sealed && !b.cancelled) = some (p == ([1], false)) := by decide +kernel

/-- A pull of expert 3 of layer 2, step 3, under a revision. -/
def pull (rev : Nat) : PullF := { layer := 2, expert := 3, step := 3, revision := rev, requester := 0x10, epoch := 9, slot := 0 }

def window3 (closing : Bool) : MergeWindow := { layer := 2, expert := 3, step := 3, requests := [pull 4], closing := closing }

theorem witness_pull : ∀ w ∈ [[], [window3 false], [window3 true]], (blown { windows := w }).core.halted = false ∧ (blown { windows := w }).core.bellows.activeRev = 4 ∧
    (blown { windows := w }).core.bellows.windows.any (fun x => x.layer == 2 && x.expert == 3 && x.step == 3 && !x.closing) = (w == [window3 false]) := by decide +kernel

theorem witness_pullArrives : ∀ rev ∈ [3, 4], (blown {}).Arrives at3 vcReq (.pullRequest at3 (pull rev)) := fun rev h => arrives_of (by revert rev; decide +kernel)

theorem witness_serve : goes serveReady (blown {}).core = true ∧ (blown {}).core.BellowsAtRest := ⟨by decide +kernel, endsIn_run (by decide +kernel)⟩

/-- A Lodge slot of epoch 7 with the granules it has, the pull that fills it, and a granule of 4 bytes. -/
def lodged (got : List Nat) : State :=
  blown { batches := [batch7], lodge := [{ layer := 2, slot := 0, state := 2, expert := 3, step := 3, epoch := 7, got := got }] }
    { fabric := { out := [{ tag := 7, dst := 0x10, frame := { txn := { op := opPull, dst := 0x10 }, data := [] }, actor := .block, use := .pull 7, resends := 1 }] } }

/-- The pull that fills a slot. -/
def theSlot : LodgeSlot := { layer := 2, slot := 0, state := 2, expert := 3, step := 3, epoch := 7, got := [] }

/-- A granule for this device alone, or for it at rank 16 and a device below it in the tree. -/
def granule (epoch index : Nat) (shared : Bool := false) : GranuleF :=
  { layer := 2, slot := 0, epoch := epoch, index := index, holder := 0x10, members := if shared then (List.range 15).map (fun i => (0x20 + i, 0, 9)) ++ [(1, 0, 7), (0x11, 2, 9)] else [], data := [1#8, 2#8, 3#8, 4#8] }

/-- The state after a granule of a slot that already has some. -/
def granuled (got : List Nat) (index : Nat) : Core :=
  let s := lodged got
  let l := s.core.layer 2
  let c := match (blockPut (l.lodgeBase + index * 4096) [1#8, 2#8, 3#8, 4#8]).run s.core with | .ok _ c => c | .error _ c => c
  let d := c.modLodge 2 0 (fun y => LodgeSlot.settled l { y with got := index :: got })
  let req := fun (q : OutReq) => q.dst == 0x10 && q.pullsInto { theSlot with got := got }
  { d with fabric := { d.fabric with out := if l.granules ≤ got.length + 1 then dropFirst req d.fabric.out else modFirst req (fun q => { q with resends := 0 }) d.fabric.out } }

theorem witness_granule : ((lodged []).core.bump (kBlw 0)).BellowsAtRest ∧ (granuled [] 0).BellowsAtRest ∧
    goes (blockPut (((lodged []).core.layer 2).lodgeBase + 0 * 4096) [1#8, 2#8, 3#8, 4#8]) (lodged []).core = true ∧
    ((lodged []).core.bellows.lodge.find? (fun x => x.layer == 2 && x.slot == 0 && x.epoch == 7 && decide (x.state < 3))).map (·.got) = some [] ∧
    (lodged []).core.bellows.lodge.find? (fun x => x.layer == 2 && x.slot == 0 && x.epoch == 8 && decide (x.state < 3)) = none := by
  refine ⟨endsIn_run ?_, endsIn_run ?_, ?_⟩ <;> decide +kernel

theorem witness_granuleArrives : ∀ b ∈ [true, false], (lodged []).Arrives at3 vcBulk (.granule at3 (granule 7 0 b)) := fun b h => arrives_of (by revert b; decide +kernel)

theorem witness_granuleShared : ((granule 7 0 true).members.map (fun m => m.1)).find? (lodged []).core.isSelf = some 1 ∧
    goes (sendGranule 2 0x10 1 0 (granule 7 0 true).members (granule 7 0 true).data) (lodged []).core = true := by decide +kernel

/-- Two granules of a cancelled prefetch still to come. -/
def voidedCore : Core := (lodged []).core.modBellows (fun x => { x with voided := [{ layer := 2, slot := 0, epoch := 7, holder := 0x10, left := 2 }] })

theorem witness_granuleVoided : voidedCore.bellows.voided.any (fun v => v.layer == 2 && v.slot == 0 && v.epoch == 7 && v.holder == 0x10) = true ∧
    (lodged []).core.bellows.voided = [] ∧ (lodged []).core.batch 7 = some batch7 ∧ batch7.cancelled = false ∧
    goes (((lodged []).core.granuleSlots (granule 7 0 true)).forM (fun x => landSlot (granule 7 0 true) x.1 x.2)) (lodged []).core = true := by decide +kernel

/-- A token for the guests of layer 2, or a gradient row. -/
def token (backward : Bool) (rev mb : Nat) : TokenF :=
  { backward := backward, layer := 2, step := 3, microBatch := mb, expert := 3, origin := 0x10, epoch := 9, revision := rev, returnRow := 5, weight := 0x3F800000, data := List.replicate 64 7#8 }

/-- A guest in a row. -/
def guest (row : Nat) (answered : Bool := false) : Guest :=
  { layer := 2, row := row, step := 3, microBatch := 0, expert := 3, origin := 0x10, epoch := 9, returnRow := row, arrival := row, answered := answered }

/-- The guest rows in use. -/
def guested (l : List Guest) : State := blown { guests := l, arrivalClock := 4 }

theorem witness_token : (guested (List.range 4 |>.map (guest ·))).core.guestRow 2 = none ∧ (guested [guest 0]).core.guestRow 2 = some 1 ∧ (guested [guest 0]).core.guestBatch 2 3 1 = none ∧
    (guested [guest 0]).core.gradGuest (token true 4 0) = none ∧ (guested [guest 0]).core.bellows.activeRev = 4 := by decide +kernel

def placed : Core :=
  let s := guested [guest 0]
  match (blockPut ((s.core.layer 2).guestAt 1) (List.replicate 64 7#8)).run s.core with
  | .ok _ c => (c.modBellows (fun x => { x with guests := x.guests ++ [{ guest 1 with microBatch := 1, returnRow := 5, arrival := 4 }], arrivalClock := 5 })).answerFrame 0x10 9 (rowOp false) stOk
  | .error _ c => c

theorem witness_tokenPlaced : goes (blockPut (((guested [guest 0]).core.layer 2).guestAt 1) (List.replicate 64 7#8)) (guested [guest 0]).core = true ∧ placed.BellowsAtRest ∧
    (((guested [guest 0]).core.bump (kBlw 4)).answerFrame 0x10 9 (rowOp false) stRoleStale).BellowsAtRest ∧
    (((guested [guest 0]).core.answerFrame 0x10 9 (rowOp true) stOk).bump (kBlw 0)).BellowsAtRest := by
  refine ⟨?_, endsIn_run ?_, endsIn_run ?_, endsIn_run ?_⟩ <;> decide +kernel

theorem witness_tokenArrives : ∀ f ∈ [token false 3 1, token false 4 1, token true 4 0], (guested [guest 0]).Arrives at3 vcReq (.token at3 f) :=
  fun f h => arrives_of (by revert f; decide +kernel)

/-- With every guest row in use a row waits in its receive buffer. -/
theorem witness_tokenHeld : (guested (List.range 4 |>.map (guest ·))).frameReady at3.port vcReq (.token at3 (token false 4 1)) = false := by decide +kernel

/-- A gradient row behind its guest. -/
def graded : State := guested [{ guest 0 with answered := true, epoch := 9, origin := 0x10, returnRow := 5 }]

def gradedCore : Core :=
  let b := graded.core.answerFrame 0x10 9 (rowOp true) stOk
  match (blockPut ((b.layer 2).guestAt 0 + (b.layer 2).tokenBytes) (List.replicate 64 7#8)).run b with
  | .ok _ c => c.modGuest 2 0 (fun x => { x with haveGrad := true, weight := 0x3F800000 })
  | .error _ c => c

theorem witness_gradient : graded.Arrives at3 vcReq (.token at3 (token true 4 0)) ∧ ((graded.core.answerFrame 0x10 9 (rowOp true) stOk).gradGuest (token true 4 0)).isSome = true ∧
    (graded.core.answerFrame 0x10 9 (rowOp true) stOk).guestBatch 2 3 0 = none ∧ gradedCore.BellowsAtRest := by
  refine ⟨arrives_of ?_, ?_, ?_, endsIn_run ?_⟩ <;> decide +kernel

/-- Epoch 7 with pushed rows whose answers go to 0x70000, and answers that have come; Tally 65535 counts its answers. -/
def answering (answers : Nat) : State :=
  blown { batches := [{ batch7 with record := forward + 0x70000 <<< 256 + 65535 <<< 336, firstSeen := true, pushed := 2, answers := answers, sent := [(0x10, 2 - answers)] }] }

def answer (epoch : Nat) : AnswerF := { backward := false, holder := 0x10, epoch := epoch, returnRow := 5, data := List.replicate 64 9#8 }

/-- The state after that answer, before the Tally hears of the last. -/
def answeredCore (n : Nat) : Core :=
  let s := answering n
  match (blockPut (0x70000 + 5 * 64) (List.replicate 64 9#8)).run s.core with
  | .ok _ c => ((c.hear 0x10 7).modBatch 7 (fun b => { b with sent := spPut 0 b.sent 0x10 (spGet 0 b.sent 0x10 - 1) })).modBatch 7
      (fun y => { y with answers := y.answers + 1, answerSignalled := y.answerSignalled || decide (n + 1 = 2) })
  | .error _ c => c

theorem witness_answer : ((answering 0).core.bump (kBlw 0)).BellowsAtRest ∧ (answeredCore 0).BellowsAtRest ∧ (answering 0).core.batch 8 = none ∧
    goes (blockPut (0x70000 + 5 * 64) (List.replicate 64 9#8)) (answering 0).core = true ∧ goes (do
      signalAs 0 65535 1
      bellowsPump) (answeredCore 1) = true := by
  refine ⟨endsIn_run ?_, endsIn_run ?_, ?_⟩ <;> decide +kernel

theorem witness_answerArrives : (∀ e ∈ [7, 8], (answering 0).Arrives at3 vcRsp (.answer at3 (answer e))) ∧ (answering 0).Arrives at3 vcRsp (.progress at3 0x10 7) :=
  ⟨fun e h => arrives_of (by revert e; decide +kernel), arrives_of (by decide +kernel)⟩

/-- A cancelled batch that waits for a taken item, and one with a BACKWARD whose gradient rows come back to 0x90000. -/
def cancelled : State :=
  let s := blown { batches := [{ batch7 with cancelled := true, rollArrived := true, enders := [(⟨0, 0, 1⟩, true)] }] }
  { s with core := s.core.modHearth 0 (fun x => { x with items := [{ ring := 0, epoch := 7, backward := false, weight := false, layer := 2, guests := [] }] }) }

def backing : State :=
  blown { batches := [{ batch7 with record := forward + 0x70000 <<< 256 + 65535 <<< 336, firstSeen := true, pushed := 2, answers := 2, sent := [(0x10, 2)],
                                    bwd := some { record := forward + 1 <<< 64 + 7 <<< 80 + 0x90000 <<< 448 + 9 <<< 336, recHost := false, recAddr := 0, acc := 1, origin := ⟨0, 0, 1⟩ } }] }

def backAnswer : AnswerF := { answer 7 with backward := true }

theorem witness_answerBackward : cancelled.Arrives at3 vcRsp (.answer at3 (answer 7)) ∧ (cancelled.core.bump (kBlw 0)).BellowsAtRest ∧ backing.Arrives at3 vcRsp (.answer at3 backAnswer) ∧
    (backing.core.batch 7).map (fun b => b.bwd.isSome) = some true := by
  refine ⟨arrives_of ?_, endsIn_run ?_, arrives_of ?_, ?_⟩ <;> decide +kernel

theorem witness_progress : ((answering 0).core.batch 7).isSome = true ∧ (∃ g ∈ (guested [guest 0]).core.bellows.guests, g.origin = 0x10 ∧ g.epoch = 9 ∧ g.answered = false) ∧
    ¬ ∃ g ∈ (guested [guest 0 true]).core.bellows.guests, g.origin = 0x10 ∧ g.epoch = 9 ∧ (g.answered = false ∨ (g.haveGrad = true ∧ g.answeredBwd = false)) := by decide +kernel

/-! The Crucible and Roll calls. -/

/-- Hub bytes of matrix 9: BF16, 8 × 8, two tiles, shard 0, its copy at 0x90000; matrices from 0x3000 on, shards from 0x4000 on. -/
def matrix9 : Nat := 1 <<< 20 + 2 <<< 68 + 8 <<< 128 + 8 <<< 160 + 2 <<< 192 + 4 <<< 256 + 0x90000 <<< 384

def cruHub : Mem := memPutAll (some 0#8) [] (0x3000 + 128 * 9) (leBytes 128 matrix9)

/-- A Crucible after step 4, with parts that have been announced. -/
def forging (x : Crucible) : State :=
  job {} { hub := cruHub, latched := [(rMatrixBase, 0x500000003000), (rShardBase, 0x500000004000)], crucible := { x with lastRun := some 4 } }

/-- An announce of part 3 of matrix 9 for a step, of one tile or two. -/
def announce (step tiles : Nat) : Nat := 9 + step <<< 32 + 3 <<< 64 + tiles <<< 80 + (tensor 0x5000 8 8 32 0) <<< 512

def part3 (tiles : Nat) : Announced := { matrix := 9, step := 6, part := 3, tiles := tiles, desc := leBytes 64 (tensor 0x5000 8 8 32 0) }

theorem witness_announce : ∀ l ∈ [[], [part3 1], [part3 2]], (forging { announced := l }).core.halted = false ∧ (forging { announced := l }).core.agentFree (.hearth 0) ∧ (forging { announced := l }).core.agentFree (.host slot63) ∧
    endsIn (readMatrix 9) (forging { announced := l }).core (matrixOf matrix9) (forging { announced := l }).core = true ∧ (matrixOf matrix9).sparse = false ∧ (matrixOf matrix9).tiles = 2 ∧
    (forging { announced := l }).core.crucible.announced.find? (fun x => x.matrix == 9 && x.step == 6 && x.part == 3) = l.head? := by unfold Core.agentFree; decide +kernel

/-- The descriptor of both announces, and their step. -/
theorem witness_announceDesc : ∀ step ∈ [5, 6], let n := announce step 1
    let t := tdescOf (leNat ((leBytes 128 n).drop 64))
    bits n 31 20 = 0 ∧ bits n 511 112 = 0 ∧ (forging {}).core.descOk t = true ∧ t.present = true ∧ t.ext0 = (matrixOf matrix9).cols ∧
      t.ext1 = (matrixOf matrix9).rows ∧ t.ext2 = 1 ∧ t.ext3 = 1 ∧ (step = 4 + 1 ∨ step = 4 + 2) := by decide +kernel

/-- A lent Hearth that announces. -/
theorem witness_announceLent : lentRunning.core.halted = false ∧ lentRunning.core.tongsFree 0 1 [] = true ∧ (lentRunning.core.hearth 0).lentRun.isSome = true := by decide

/-- A contribution chunk, as an owner's copy or of a round. -/
def contrib (owner : Bool) (round sender chunk : Nat) : ContribF :=
  { matrix := 9, round := round, owner := owner, sender := sender, chunk := chunk, absent := false, last := true, rows := [], vals := [(fOne, 0#32)] }

/-- Round 1 on this device with chunks taken in, and staging of so many bytes. -/
def round1 (inbox : List ContribF) (bytes : Nat) : State :=
  let s := forging { phase := .round 1, inbox := inbox }
  { s with core := { s.core with latched := (rStageBytes, bytes) :: s.core.latched } }

theorem witness_contrib : ∀ f ∈ [contrib true 0 0x10 0, contrib false 1 0x10 0, contrib false 1 0x10 1], (round1 [] 7168).Arrives at3 vcBulk (.contrib at3 f) ∧
    (round1 [] 0).core.crucible.phase ≠ .owners :=
  fun f h => ⟨arrives_of (by revert f; decide +kernel), by decide⟩

theorem witness_contribOwner : endsIn (forwardCopy (contrib true 0 0x10 0)) (round1 [contrib true 0 0x10 0] 0).core () (round1 [contrib true 0 0x10 0] 0).core = true := by decide +kernel

/-- A chunk in its turn, one that comes early with room in the share, and one without. -/
theorem witness_contribTurns : endsIn (contribTurn (contrib false 1 0x10 0)) (round1 [] 0).core true (round1 [] 0).core = true ∧
    (∀ b ∈ [7168, 0], endsIn (contribTurn (contrib false 1 0x10 1)) (round1 [] b).core false (round1 [] b).core = true) ∧
    (round1 [] 0).core.contribLength (contrib false 1 0x10 1) ≤ (round1 [] 7168).core.stageShare 1 ∧ (round1 [] 0).core.stageShare 1 = 0 ∧
    0 < (round1 [] 0).core.contribLength (contrib false 1 0x10 1) := by decide +kernel

/-- A gather granule of matrix 9 for a step, or its marker. -/
def gathered (noChange : Bool) (step : Nat := 5) : GatherF := { matrix := 9, step := step, sender := 0x10, noChange := noChange, index := 0, data := [5#8] }

/-- A step of phase `quench` whose record lists one group, at 0x7000: the matrix's, or another. -/
def listing (group : Nat) : State :=
  let s := forging { phase := .quench, record := 5 + 1 <<< 48 + 0x7000 <<< 320 }
  { s with core := { s.core with stacked := at_ 0x7000 (leBytes 16 group) } }

/-- The matrix is of two granules. -/
def larger : State :=
  let s := forging {}
  { s with core := { s.core with hub := memPutAll (some 0#8) [] (0x3000 + 128 * 9) (leBytes 128 (1 <<< 20 + 2 <<< 68 + 64 <<< 128 + 64 <<< 160 + 2 <<< 192 + 256 <<< 256 + 0x90000 <<< 384)) } }

/-- Where a granule lands: an image of two, one of the step under way or of one completed, of a step to come, of a step gone by. -/
def landings : List (State × Nat) :=
  [(larger, 5), (listing 0, 5), (forging { record := 5 + 1 <<< 48 + 0x7000 <<< 320, lastDone := some 5 }, 5), (forging {}, 5), (forging {}, 4)]

/-- The state after that granule, before it goes on. -/
def landed (p : State × Nat) (k : Nat) : Core :=
  let d := (match (blockPut 0x90000 [5#8]).run p.1.core with | .ok _ c => c | .error _ c => c).modCru (fun x => { x with landed := kvPut x.landed 9 [0] })
  let d := if k = 3 then d.modCru (fun x => { x with imaged := x.imaged ++ [(9, p.2)] }) else d
  if k = 0 then d else d.modCru (fun x => { x with finished := kvPut x.finished 9 p.2, landed := kvDel x.landed 9 })

theorem witness_gather : ∀ p ∈ landings, p.1.core.crucible.phase ≠ .gather ∧ p.1.core.bellows.windows = [] ∧ goes (blockPut 0x90000 [5#8]) p.1.core = true ∧
    goes (forwardGather (gathered false p.2)) (landed p 1) = true ∧ goes (forwardGather (gathered false p.2)) (landed p 0) = true := by decide +kernel

theorem witness_gatherCases : landings.map (fun p => ((matrixOf (p.1.core.hubNat (0x500000003000 + 128 * 9) 128)).imageBytes 0 + 4095) / 4096) = [2, 1, 1, 1, 1] ∧
    landings.map (fun p => decide (p.1.core.stepRec.step = p.2 ∧ (p.1.core.crucible.phase ≠ .idle ∨ p.1.core.crucible.lastDone = some p.2))) = [false, true, true, false, false] ∧
    landings.map (fun p => p.1.core.crucible.lastRun.all (fun l => decide (l < p.2))) = [true, true, true, true, false] := by decide +kernel

theorem witness_gatherArrives : (∀ p ∈ landings, p.1.Arrives at3 vcBulk (.gatherGranule at3 (gathered false p.2))) ∧ (forging {}).Arrives at3 vcBulk (.gatherGranule at3 (gathered true)) :=
  ⟨fun p h => arrives_of (by revert p; decide +kernel), arrives_of (by decide +kernel)⟩

theorem witness_gatherLists : (listing 0).core.crucible.phase ≠ .gather ∧ (listing 0).core.crucible.phase ≠ .idle ∧
    (match gatherGroups.run (listing 1).core with | .ok gs d => decide (d = (listing 1).core) && gs.all (fun g => g.1 != 0) | .error _ _ => false) = true ∧
    (match gatherGroups.run (listing 0).core with | .ok gs d => decide (d = (listing 0).core) && gs.any (fun g => g.1 == 0) | .error _ _ => false) = true ∧
    (matrixOf matrix9).group = 0 := by decide +kernel

/-- Context 2 over the devices 1 and 0x10 of a list, of which this is the root; the host is its participant; generation 3 has what is given. -/
def calls (me : Nat) (x : RollCtx) : State :=
  let s := job {} { hub := memPutAll (some 0#8) [] (0x1000 + 128) (leBytes 64 (2 <<< 32 + 1 <<< 34 + 1 <<< 36 + 2 <<< 96 + 0x7000 <<< 128)), latched := [(rRollBase, 0x500000001000)],
                    stacked := at_ 0x7000 [1#8, 0#8, 0x10#8, 0#8], route := { masks := [(1, 1), (0x10, 1)] }, sync := { ctxs := [(2, { x with gen := 3 })] } }
  { s with core := { s.core with mgt := { s.core.mgt with deviceId := me } } }

def rollMsg (gen sender : Nat) : RollMsg := { ctx := 2, gen := gen, sender := sender, red := 1, tenant := 0, payload := List.replicate 64 1#8 }

def from10 : List (Nat × List Byte) := [(0x10, List.replicate 64 2#8)]

theorem witness_rollMsg : ∀ x ∈ [{}, { remote := from10 }, { remoteHeld := from10 }], (((calls 1 x).core.ctxRec 2).valid = true ∧ ((calls 1 x).core.ctxRec 2).reduction = 1 ∧
    ((calls 1 x).core.ctxRec 2).scope = 2 ∧ endsIn (ctxSelf 2 ((calls 1 x).core.ctxRec 2)) (calls 1 x).core ([1, 0x10], 1) (calls 1 x).core = true ∧
    treeParent [1, 0x10] 0x10 = some 1 ∧ treeChildren [1, 0x10] 1 = [0x10]) := by decide +kernel

theorem witness_rollArrives : (∀ x ∈ [{}, { remote := from10 }, { remoteHeld := from10 }], ∀ g ∈ [3, 4, 5, 130, 131, 2], (calls 1 x).Arrives at3 vcSync (.rollArrivalMsg at3 (rollMsg g 0x10))) ∧
    (calls 0x10 {}).Arrives at3 vcSync (.rollResultMsg at3 (rollMsg 3 1)) :=
  ⟨fun x hx g hg => arrives_of (by revert g x; decide +kernel), arrives_of (by decide +kernel)⟩

/-- A message to a context of its own tenant, and of the other. -/
theorem witness_rollTenant : ∀ p ∈ [((false, 0, 2), false), ((true, 0, 127), false), ((true, 1, 128), false), ((true, 1, 127), true), ((true, 0, 255), true)],
    (({ (calls 1 {}).core with latched := [(rTenantMode, b2n p.1.1)] } : Core).rollForeign 3 { rollMsg 3 0x10 with ctx := p.1.2.2, tenant := p.1.2.1 }) = p.2 ∧
    (calls 1 {}).core.rollForeign 3 (rollMsg 3 0x10) = false := by decide +kernel

/-- Distances at the ends of each case. -/
theorem witness_distances : [3, 4, 5, 130, 131, 2].map (fun g => (g + 256 - 3) % 256) = [0, 1, 2, 127, 128, 255] := by decide

theorem witness_rollAdvances : goes (rollAdvance 2) ((calls 1 {}).core.setRollCtx 2 { gen := 3, remote := [(0x10, List.replicate 64 1#8)] }) = true := by decide +kernel

/-- The result comes down to device 0x10. -/
theorem witness_rollResult : treeParent [1, 0x10] 0x10 = some 1 ∧ endsIn (ctxSelf 2 ((calls 0x10 {}).core.ctxRec 2)) (calls 0x10 {}).core ([1, 0x10], 0x10) (calls 0x10 {}).core = true ∧
    goes ((treeChildren [1, 0x10] 0x10).forM (fun k => sendRoll 1 2 3 1 k (List.replicate 64 1#8))) ((calls 0x10 {}).core.setRollCtx 2 { gen := 3, result := some (List.replicate 64 1#8) }) = true := by
  decide +kernel

/-- A generation with its result and its participant. -/
def closing : State := calls 1 { arrived := [(.host slot63, List.replicate 64 1#8, 0x5000 + 10 <<< 64)], result := some (List.replicate 64 3#8), sentUp := true }

theorem witness_rollCloses : closing.core.halted = false ∧ closing.core.rollReady 2 = true ∧ (closing.core.rollCtx 2).result = some (List.replicate 64 3#8) ∧
    goes (rollAdvance 2) ((closing.core.setRollCtx 2 { gen := 4 }).bump (kSyn 0)) = true := by decide +kernel

theorem witness_rollDelivered : (job { yq := [.rolled 2 131071] }).core.dram.errors = [] ∧ ((job { yq := [.rolled 2 131071] }).core.hearth 0).yq = [.rolled 2 131071] := by decide

theorem witness_rollTimeout : (calls 1 { remote := from10 }).core.rollOpen 2 = true ∧ (calls 1 {}).core.rollOpen 2 = false := by decide +kernel

/-! The pages of the hub, and the pools. -/

/-- A job with both regions, fabric Tally 65535 at a value. -/
def paged (v : Nat) (c : Core := {}) : State := job { regs := someRegs } ({ c with cfg := region ++ c.cfg, route := { masks := [(0x10, 1)] } }.setTally 2 0 65535 { value := v })

theorem witness_window2 : ∀ v ∈ [0xFFFFFFFF, 0], (paged v).core.halted = false ∧ (paged v).core.keyCheck (0x500060000000 + 8 * 65535) 8 5 .write 0 false = stOk ∧
    (paged v).core.keyCheck (0x500060000000 + 8 * 65535) 8 5 .read 0 false = stOk ∧ (paged v).core.tallyOwned 0 65535 = true ∧ (paged v).core.Own 0 ∧ (paged v).core.agentFree (.hearth 0) ∧ (paged v).core.agentFree (.host slot63) ∧ (paged v).core.dram.errors = [] ∧
    ((paged v).core.agentWho (.hearth 0)).tenant = 0 ∧ ((paged v).core.agentWho (.host slot63)).tenant = 0 ∧ ((paged v).core.tally 2 0 65535).value = v := by
  unfold Core.Own Core.agentFree; decide +kernel

/-- A fetch-and-add (1) of 5 at 0x6000 with its reply at 0x6010 and a signal to Tally 65535. -/
def atomicRec (wide : Bool) : Nat := 0x6000 + 5 <<< 64 + 1 <<< 96 + b2n wide <<< 100 + 5 <<< 128 + 0x6010 <<< 256 + 65535 <<< 320 + 1 <<< 336

theorem witness_atomicRecord : ∀ wide ∈ [true, false], let r := atomicRec wide
    r < 2 ^ 337 ∧ bits r 127 101 = 0 ∧ bits r 319 256 % 16 = 0 ∧ bits r 63 0 % atomicBytes wide = 0 ∧ badGlobal (bits r 63 0) = false ∧ (paged 0).core.isLocal (bits r 63 0) = true ∧
    goes (do
      let v ← atomicLocal { (paged 0).core.agentWho (.hearth 0) with key := 5, keyed := true } 0x6000 wide 1 5 0
      atomicReply { (paged 0).core.agentWho (.hearth 0) with key := 5, keyed := true } 0x6010 65535 true v stOk) (paged 0).core = true := by decide +kernel

/-- Set 2 over two 2 KiB billets of Hearth 0's scratch window, or over one 4 KiB billet at 0x100000. -/
def scratchSet : Nat := 0x500100000000 + 1 <<< 64 + 2 <<< 160
def stackedSet : Nat := 0x100000 + 1 <<< 160

def pooled (rec : Nat) (ready : Bool) (owners : List (Nat × Nat)) : State :=
  job {} { pools := { sets := [(2, { enabled := true, ready := ready, record := rec, owners := owners })] }, cfg := region }

/-- A request of requester 40 for 2,048 bytes of set 2, its reply at 0x6010; a free of the second billet. -/
def poolAsk : Nat := 0x6010 + 2048 <<< 64 + 2 <<< 96 + 40 <<< 104
def poolGive : Nat := 0x500100000800 + 40 <<< 64

theorem witness_poolRequest : ∀ p ∈ [(false, []), (true, []), (true, [(0, 7)])], let s := pooled scratchSet p.1 p.2
    bits poolAsk 127 110 = 0 ∧ bits poolAsk 103 100 = 0 ∧ bits poolAsk 63 0 % 16 = 0 ∧ s.core.poolForeign 0 40 2 = false ∧ s.core.twoTenant = false ∧ (s.core.poolSet 2).enabled = true ∧
    (s.core.poolSet 2).ready = p.1 ∧ (p.1 = true → goes (do
      let g ← poolGrant 2 40 2048
      poolReply 0x6010 g) { s.core with free := s.core.free + 1 } = true) := by decide +kernel

theorem witness_poolFreeUnready : (((pooled scratchSet false []).core.poolSet 2).ready = false) ∧ (pooled scratchSet false []).core.billetOf (bits poolGive 63 0) = some (2, 0, 1) := by
  decide +kernel

theorem witness_poolFree : ∀ o ∈ [[(1, 40)], [(0, 40), (1, 7)], []], let s := pooled scratchSet true o
    s.core.billetOf (bits poolGive 63 0) = some (2, 0, 1) ∧ s.core.poolForeign 0 40 2 = false ∧ bits poolGive 127 70 = 0 ∧ ((pooled scratchSet true o).core.poolSet 2).ready = true ∧ (poolRecOf (s.core.poolSet 2).record).scratch = true := by decide +kernel

/-- Both kinds of set end their initialisation. -/
theorem witness_poolInit : ∀ r ∈ [scratchSet, stackedSet], let s := pooled r false []
    (s.core.poolSet 2).enabled = true ∧ (s.core.poolSet 2).ready = false ∧ (s.core.poolSet 2).waiting = [] ∧
      goes ((poolRecOf r).live.forM (initClass 2 (poolRecOf r)) : OpM Unit) { s.core with free := s.core.free + 1 } = (r == stackedSet) := by decide +kernel

/-! The fabric. -/

/-- A request of device 0x10 to this one for 8 bytes, or of a length, with a sequence number. -/
def req (addr seq : Nat) (len : Nat := 8) : Txn := { src := 0x10, dst := 1, addr := addr, key := 5, len := len, tag := 9, seq := seq, aop := 1, wide := true, opndA := 1 <<< 32 + 6, window := true }

/-- A home; atomics on; sequence 3 is expected of device 0x10 in both spaces. -/
def home (waits : List LineWrite) (f : Fabric := {}) : State :=
  paged 0 { latched := [(rReplayBase, 0x200001)], fabric := { f with lineWait := waits, seqIn := [(0x10, 3)], sigIn := [(0x10, 3)] } }

def part (op line : Nat) (t : Txn) (data : List Byte) (last : Bool) : LineWrite := { line := line, port := 3, txn := { t with op := op }, off := t.addr % 2 ^ 48, data := data, last := last }

def isOkB (x : Except Nat Place) : Bool := match x with | .ok _ => true | .error _ => false

theorem witness_home : (home []).core.halted = false ∧ (home []).core.isSelf 1 = true ∧ (home []).core.fabric.lineWait = [] ∧
    (∃ x ∈ (home [part opStore 0x180 (req 0x6000 2) [1#8] true]).core.fabric.lineWait, x.txn.src = 0x10 ∧ x.txn.op ≠ opSignalTx) ∧
    [2, 3, 4].map (fun q => (home []).core.seqCase 3 { req 0x6000 q with op := opStore }) = [.dup, .fresh, .ahead] ∧
    [Kind.read, .write, .atomic].all (fun k => isOkB ((home []).core.judge 3 (req 0x6000 3) k true)) = true ∧
    [Kind.read, .write, .atomic].all (fun k => !isOkB ((home []).core.judge 3 { req 0x6000 3 with key := 6 } k true)) = true ∧
    isOkB ((home []).core.judge 3 { req (0x500060000000 + 8 * 65535) 3 with op := opSignalTx } .write true) = true ∧ bit ((home []).core.inForce rReplayBase) 0 = true ∧
    bit ((paged 0).core.inForce rReplayBase) 0 = false ∧ (home []).core.isSelf 0x10 = false := by
  unfold home; decide +kernel

theorem witness_homeArrives : (∀ w ∈ [[], [part opStore 0x180 (req 0x6000 2) [1#8] true]], (home w).Arrives at3 vcReq (.loadRequest at3 (req 0x6000 0))) ∧
    (∀ q ∈ [2, 3, 4], (home []).Arrives at3 vcReq (.storeRequest at3 (req 0x6000 q) (leBytes 8 5)) ∧ (home []).Arrives at3 vcReq (.atomicRequest at3 (req 0x6000 q)) ∧
      (home []).Arrives at3 vcSync (.signalRequest at3 (req (0x500060000000 + 8 * 65535) q))) :=
  ⟨fun w h => arrives_of (by revert w; decide +kernel),
    fun q h => ⟨arrives_of (by revert q; decide +kernel), arrives_of (by revert q; decide +kernel), arrives_of (by revert q; decide +kernel)⟩⟩

theorem witness_homeAtomic : (req 0x6000 3).len = atomicBytes true ∧ (req 0x6000 3).addr % 8 = 0 ∧ bits (req 0x6000 3).opndA 39 32 = 1 ∧ badGlobal (req (0x500060000000 + 8 * 65535) 3).addr = false ∧
    inTallyWindow (0x500060000000 + 8 * 65535) = true := by decide +kernel

/-- A line's next request: the last part of a store, one before it, a signal, a subtract, an atomic. -/
def lineReqs : List LineWrite :=
  [part opStore 0x180 (req 0x6000 3) (leBytes 8 5) true, part opStore 0x180 (req 0x6000 3) (leBytes 8 5) false, part opSignalTx 0x180 (req (0x500060000000 + 8 * 65535) 3) [] true,
   part opSignalTx 0x180 { req (0x500060000000 + 8 * 65535) 3 with opndA := 3 <<< 32 + 6 } [] true, part opAtomic 0x180 (req 0x6000 3) [] true]

theorem witness_lineUnit : ∀ w ∈ lineReqs, (home [w]).core.nextLine 0x180 = some w ∧ (home [w]).core.dram.errors = [] ∧ w.txn.aop = 1 := by decide +kernel

def taking (w : LineWrite) : Core :=
  let s := home [w]
  { s.core with fabric := { s.core.fabric with lineWait := [], lineBusy := kvPut s.core.fabric.lineBusy 0x180 w.txn.src } }

theorem witness_lineApplies : (home []).core.place 0x6000 8 = .ok (.stacked 0x6000) ∧
    goes (writePlace (.stacked 0x6000) (leBytes 8 5)) (taking (part opStore 0x180 (req 0x6000 3) (leBytes 8 5) true)) = true ∧
    goes (atomicPart false { req 0x6000 3 with op := opAtomic }) (taking (part opAtomic 0x180 (req 0x6000 3) [] true)) = true ∧ ((home []).core.tally 2 0 65535).overSet = false ∧
    ((home []).core.tally 2 0 65535).value + 6 ≤ 0xFFFFFFFF := by
  refine ⟨rfl, ?_⟩
  decide +kernel

/-- A store with a load of its source behind it. -/
def loadBehind : State := home [part opStore 0x180 (req 0x6000 3) (leBytes 8 5) true, part opLoad 0x180 (req 0x6000 4) [] true]

theorem witness_loadBehind : loadBehind.core.nextLine 0x180 = some (part opStore 0x180 (req 0x6000 3) (leBytes 8 5) true) ∧
    (∀ w ∈ lineReqs, ∀ x ∈ (home [w]).core.fabric.lineWait, x.txn.op = opLoad → x.txn.src ≠ w.txn.src) := by decide +kernel

/-- Requests to device 0x10 that lack their response. -/
def asked (op : Nat) (use : ReqUse) (late : Bool) (actor : Actor := .hearth 0) : OutReq :=
  { tag := 9, dst := 0x10, frame := { txn := { op := op, dst := 0x10, addr := 0x6000, len := 8, tag := 9, seq := 3 } }, actor := actor, use := use, late := late }

def sent (r : OutReq) (xfers : List Transfer := []) : State := home [] { out := [r], xfers := xfers }

/-- Its response. -/
def reply (status : Nat) : Txn := { src := 0x10, dst := 1, tag := 9, seq := 3, status := status, opndA := 77 }

theorem witness_responses : ∀ late ∈ [true, false], ∀ x ∈ [(opLoad, ReqUse.piece 4 0), (opStore, .store), (opSignalTx, .signal), (opAtomic, .atomicPage 0x6010 65535 true)],
    (sent (asked x.1 x.2 late)).core.requestOf (reply 0) (if x.1 = opStore ∨ x.1 = opSignalTx then [opStore, opSignalTx] else [x.1]) = some (asked x.1 x.2 late) := by decide +kernel

theorem witness_responsesArrive : ∀ op ∈ [opLoad, opStore, opAtomic], let s := sent (asked op .store false)
    s.Arrives at3 vcRsp (.dataResponse at3 (reply 0) (leBytes 8 5)) ∧ s.Arrives at3 (s.core.doneChannel (reply 0)) (.doneResponse at3 (reply 0)) ∧ s.Arrives at3 vcRsp (.resultResponse at3 (reply 3)) :=
  fun op h => ⟨arrives_of (by revert op; decide +kernel), arrives_of (by revert op; decide +kernel), arrives_of (by revert op; decide +kernel)⟩

theorem witness_signalDone : (sent (asked opSignalTx .signal false)).core.doneChannel (reply 0) = vcSync ∧
    (sent (asked opSignalTx .signal false)).Arrives at3 vcSync (.doneResponse at3 (reply 0)) := ⟨by decide +kernel, arrives_of (by decide +kernel)⟩

/-- DONEs of a delivered contribution and row, and of a stale row. -/
def told (op status : Nat) : Txn := { src := 0x10, dst := 1, tag := 7, status := status, opndA := op }

theorem witness_told : ∀ t ∈ [told opContrib 0, told (rowOp false) 0, told opPull stRoleStale], (home []).Arrives at3 ((home []).core.doneChannel t) (.doneResponse at3 t) ∧
    (home []).core.batch t.tag = none ∧ (∀ x ∈ (home []).core.fabric.out, x.use ≠ .pull t.tag) ∧
    ((t.status = stRoleStale ∧ (t.opndA = opPull ∨ t.opndA % 256 = opToken)) ↔ t = told opPull stRoleStale) :=
  fun t h => ⟨arrives_of (by revert t; decide +kernel), by revert t; decide +kernel, (by intro x hx; cases hx), by revert t; decide +kernel⟩

theorem witness_toldRow : ((home []).core.rowDelivered 7 false).BellowsAtRest := endsIn_run (by decide +kernel)

theorem witness_responseStatus : (reply 0).status = stOk ∧ (reply 0x13).status ≤ 0x13 ∧ (reply 0x13).status ≠ stOk ∧ stRoleStale ≠ 0 ∧ (reply 3).status ≠ stIndeterminate ∧
    (reply 0).opndA ≠ opContrib ∧ (reply 0).opndA % 256 ≠ opToken ∧
    ((sent (asked opStore .store false)).core.delivered (asked opStore .store false)).fabric.out = [] ∧
    goes (do
      atomicReply (asked opAtomic (.atomicPage 0x6010 65535 true) false).replyWho 0x6010 65535 true 77 stOk
      releaseAtomics 0x10) ((sent (asked opAtomic (.atomicPage 0x6010 65535 true) false)).core.dropReq (asked opAtomic (.atomicPage 0x6010 65535 true) false)) = true := by decide +kernel

/-- The same response in a restart wave. -/
def sentHalted (late : Bool) : State :=
  let s := sent (asked opLoad (.piece 4 0) late)
  { s with core := { s.core with mgt := { s.core.mgt with jobState := .resetting } } }

theorem witness_lateHalted : ∀ late ∈ [true, false], (sentHalted late).core.halted = true ∧ (sentHalted late).core.requestOf (reply 0) [opLoad] = some (asked opLoad (.piece 4 0) late) ∧
    (sentHalted late).Arrives at3 vcRsp (.dataResponse at3 (reply 0) (leBytes 8 5)) :=
  fun late h => ⟨by revert late; decide +kernel, by revert late; decide +kernel, arrives_of (by revert late; decide +kernel)⟩

/-- A write of a copy that has no response, and a block's write that is delivered. -/
def copySilent (active : Bool) : State :=
  let s := sent (asked opStore .store false (.desc slot63))
  { s with core := { s.core with mgt := { s.core.mgt with active := active }, ports := [(0, { trained := true, rings := [(1, { enabled := true, started := [{ run3 with slot := 63, opcode := 4, hearths := [] }] })] })] } }

theorem witness_copySilent : (∀ b ∈ [true, false], (copySilent b).core.halted = false ∧ (copySilent b).core.gen1To 0x10 = false ∧
      (copySilent b).core.fabric.out.find? (fun r => r.dst == 0x10 && r.tag == 9 && !r.late) = some (asked opStore .store false (.desc slot63))) ∧
    (((copySilent true).core.raiseFor slot63 { cls := clsFabric, status := stTimeout }).ring 0 1).started.find? (fun t => t.slot == 63) =
      some { run3 with slot := 63, opcode := 4, hearths := [] } := by decide +kernel

theorem witness_silence : ∀ a ∈ [Actor.hearth 0, .block], (sent (asked opStore .store false a)).core.gen1To 0x10 = false ∧
    (sent (asked opStore .store false a)).core.fabric.out.find? (fun r => r.dst == 0x10 && r.tag == 9 && !r.late) = some (asked opStore .store false a) ∧
    ((sent (asked opStore .store false a)).core.hearth 0).running = true := by decide +kernel

/-- A fetch of slot 63 under way, or the read of a card, from a host that is there or lost. -/
def readXfer (cont : Cont) (n : Nat) : Transfer := { id := 6, actor := .desc slot63, cont := cont, host := some 0, pieces := [(0x5000, n)] }

def reading (cont : Cont) (n : Nat) (lost : Bool) : State :=
  let s := announced {} { fabric := { xfers := [readXfer cont n] } }
  { s with core := { s.core with ports := [(0, { trained := true, lost := lost, rings := [(1, { enabled := true, fetchHead := 63, sqTail := 0 })] })] } }

theorem witness_hostReads : ∀ x ∈ [(Cont.fetchDesc 0 1 63, 64, false), (.card slot63 (cards true), 512, false), (.card slot63 (cards true), 512, true)],
    (reading x.1 x.2.1 x.2.2).core.fabric.xfers.find? (fun t => t.id == 6) = some (readXfer x.1 x.2.1) ∧
      ((reading x.1 x.2.1 x.2.2).core.port 0).lost = x.2.2 := by decide +kernel

/-! Stacked memory and links. -/

theorem witness_stacked : ({} : Dram).active.Nodup ∧ ({ localSize := 96 } : Dram).active.Nodup ∧ ({} : Dram).localSize ≤ 96 ∧
    ({} : Dram).key 0xFFF = some 0xFFF ∧ (({ localSize := 96 } : Dram).key (64 * (channelBytes - 96 * 0x4000000))).isSome = true ∧ ({ localSize := 96 } : Dram).localSize ≤ 96 := by decide +kernel

/-- A channel whose next word of the patrol has an error, at its first and its last word. -/
def patrolled (w e : Nat) : State := { core := { dram := { patrol := [(5, w)], errors := [((5 * channelBytes + 16 * w) / 16, e)] } }, power := { mainOn := true } }

def lastWord : Nat := (3145728 + 63) * 128 - 1

theorem witness_patrol : ∀ p ∈ [(0, 1), (lastWord, 1), (0, 2), (7, 3)], (16 * p.1 < channelBytes ↔ p.1 ≠ lastWord) ∧
    kvGet (patrolled p.1 p.2).core.dram.errors ((5 * channelBytes + 16 * p.1) / 16) = some p.2 ∧ kvGet ({} : Core).dram.errors ((5 * channelBytes + 16 * p.1) / 16) = none ∧
    (patrolled p.1 p.2).core.dram.errors = [((5 * channelBytes + 16 * p.1) / 16, p.2)] ∧ (patrolled p.1 p.2).core.route.gen1 = [] := by decide +kernel

/-- Layer 9 at 96 °C, hot and throttled, or cool. -/
def warm (t : Nat) : State := { core := { mgt := { active := true } }, power := { mainOn := true, layerTemp := [(9, t)], hot := if 85 < t then [9] else [], throttled := if 95 ≤ t then [9] else [] } }

theorem witness_layers : ∀ t ∈ [96, 97, 20], (warm t).power.mainOn = true ∧ (spGet 0 (warm t).power.layerTemp 9 < 97 ↔ t ≠ 97) ∧ (9 ∈ (warm t).power.throttled ∨ t = 20) ∧
    (warm t).core.dram.errors = [] ∧ (warm t).core.route.gen1 = [] := by decide

/-- A port that is UP with three frames kept, two of them sent. -/
def upLink (p : Nat) (l : Link) : State := { core := { mgt := { active := true } }, links := [(p, { l with position := 7, lanes := [0, 1, 2, 3, 4] })], power := { mainOn := true } }

def small (n : Nat) : Frame := { txn := { op := opStore, dst := 0x10 }, data := List.replicate n 0#8, hops := 3 }

def kept (q : Nat) : Kept := { seq := q, creditVc := 0, credit := 0, frame := small 1 }

def sending (owed : Bool) : State := upLink 31 { replay := [kept 7, kept 8, kept 9], sent := 2, ackOwed := owed, rxSeq := 65535, credits := [(0, 5)], owed := [(1, 20000)] }

theorem witness_acks : ∀ o ∈ [true, false], ((sending o).link 31).up = true ∧ ((sending o).link 31).ackOwed = o ∧
    ((sending o).link 31).replay.findIdx? (fun e => e.seq == 8) = some 1 ∧ 1 < ((sending o).link 31).sent ∧ ((sending o).link 31).replay.findIdx? (fun e => e.seq == 9) = some 2 ∧
    ((sending o).link 31).replay.findIdx? (fun e => e.seq == 10) = none ∧ ((sending o).link 30).up = false ∧ ((sending o).link 31).owedNow = (1, 16383) := by decide +kernel

/-- A device between others: frames for device 0x10 leave on port 2, or on port 4 of generation 1. -/
def transit (mask gen : Nat) : State :=
  let s := upLink 3 { gen := gen }
  { s with core := { s.core with mgt := { s.core.mgt with deviceId := 0x8001 }, route := { masks := [(0x10, mask)], gen1 := [4] } } }

def passing (hops : Nat) : Frame := { small 9 with hops := hops }

theorem witness_reserved : (transit 4 2).core.isSelf 0x8001 = true ∧ (transit 4 2).core.halted = false ∧
    [0, 5, 7, 0x0C, 0x0F, 0x17, 0xFF].all reservedOp = true ∧ [1, 4, 8, 0x0B, 0x10, 0x16].all (fun op => !reservedOp op) = true := by decide

theorem witness_transit : ∀ p ∈ [(4, 2, some 2), (0, 2, none), (16, 2, some 4), (4, 1, some 2)], (transit p.1 p.2.1).core.isSelf (passing 1).txn.dst = false ∧
    ((transit p.1 p.2.1).link 3).gen = p.2.1 ∧ (transit p.1 p.2.1).core.outPort (passing 1).txn.src (passing 1).txn.dst = p.2.2 ∧ (2 ∉ (transit p.1 p.2.1).core.route.gen1) ∧
    ((transit p.1 p.2.1).link 3).inOrder at3 = true := by decide +kernel

/-- A frame for this device with an op of Table 14-3 or a reserved one. -/
def own (op : Nat) : Frame := { txn := { op := op, dst := 0x8001 } }

theorem witness_transitArrives : (∀ p ∈ [(4, 1, 3), (4, 2, 0), (0, 2, 3), (16, 2, 3)], (transit p.1 p.2.1).Arrives at3 (passing p.2.2).vc (.frameForward at3 (passing p.2.2))) ∧
    (transit 4 2).Arrives at3 (own 5).vc (.frameForward at3 (own 5)) :=
  ⟨fun p h => arrives_of (by revert p; decide +kernel), arrives_of (by decide +kernel)⟩

/-- A transaction out of its order, one behind another of its channel, and one at a device that a wave holds. -/
def quiet (halted : Bool) (rx : List Held) : State :=
  { core := { mgt := { active := true, deviceId := 0x8001, jobState := if halted then .quiesced else .running } }, links := [(3, { position := 7, rx := rx })] }

def aheadOf : Held := { vc := vcRsp, units := 1, cmd := .progress at3 2 3 }

theorem witness_arrivals : (quiet false []).arrivalOf (.progress at3 2 3) = some (at3, vcRsp, 0) ∧ ((quiet false []).link 3).up = true ∧ at3.seq = (((quiet false []).link 3).rxSeq + 1) % 65536 ∧
    ({ at3 with seq := 2 } : Head).seq ≠ (((quiet false []).link 3).rxSeq + 1) % 65536 ∧ (∃ h ∈ ((quiet false [aheadOf]).link 3).rx, h.vc = vcRsp) ∧ ((quiet false [aheadOf]).link 3).inOrder at3 = true ∧
    (transit 4 2).frameReady 3 vcBulk (.frameForward at3 (passing 1)) = false ∧ (quiet true []).core.halted = true := by decide +kernel

/-- A full line unit whose writes came over port 3, with a LOAD behind them; one write fewer leaves room. -/
def crowded (n : Nat) : State :=
  { core := { mgt := { active := true, deviceId := 0x8001 }, fabric := { lineWait := List.replicate n { port := 3, txn := { op := opStore }, line := 0, off := 0, data := [], last := true } ++ [{ port := 3, txn := { op := opLoad }, line := 0, off := 0, data := [], last := true }] } },
    links := [(3, { position := 7 })] }

theorem witness_lineHolds : 1024 ≤ ((crowded 1024).core.fabric.lineWait.filter (fun x => x.txn.op != opLoad)).length ∧ (crowded 1024).core.halted = false ∧
    (crowded 1024).frameReady 3 vcReq (.progress at3 2 3) = false ∧ (crowded 1023).frameReady 3 vcReq (.progress at3 2 3) = true ∧ (crowded 1024).frameReady 3 vcRsp (.progress at3 2 3) = true ∧
    (crowded 1024).frameReady 2 vcReq (.progress at3 2 3) = true := by decide +kernel

theorem witness_haltedArrival : (quiet true []).Arrives at3 vcRsp (.progress at3 2 3) := arrives_of (by decide +kernel)

/-- A port that has been charged. -/
def charged (portRetries : Nat) (laneRetries uncorr : List (Nat × Nat)) : State := upLink 3 { portRetries := portRetries, laneRetries := laneRetries, uncorrWindow := uncorr }

theorem witness_badFrames : ∀ p ∈ [(7, [(4, 7)], [(4, 1)]), (8, [(4, 8)], [(4, 1)])], ((charged p.1 p.2.1 p.2.2).link 3).up = true ∧ ((charged p.1 p.2.1 p.2.2).link 2).up = false ∧
    ((charged p.1 p.2.1 p.2.2).link 3).portRetries = p.1 ∧ (∀ a x, WireFrame.laneSet a x ∉ ((charged p.1 p.2.1 p.2.2).link 3).wire) ∧
    (spGet 0 ((charged p.1 p.2.1 p.2.2).link 3).laneRetries 4 < 8 ↔ p.1 = 7) ∧ 16 * spGet 0 ((charged p.1 p.2.1 p.2.2).link 3).uncorrWindow 4 * 10 ^ 9 = 16 * 10 ^ 9 := by
  intro p hp
  refine ⟨?_, ?_, ?_, ?_, ?_, ?_⟩
  case refine_4 => intro a x hx; cases hx
  all_goals revert p; decide +kernel

/-- A queue of two with one item taken, full; and an empty one (R363, R364). -/
theorem test_queue : let q : ItemQueue := { depth := 2, items := [{ kind := 1, valid := true }, { kind := 2, valid := true }], taken := 1 }
    q.full = true ∧ (q.take).map (fun r => (r.1.kind, r.2.full, (r.2.release 1).full)) = some (2, true, false) ∧ (({ depth := 2 } : ItemQueue).probe).1 = idleItem := by decide

/-! A frame on the wire. -/

/-- The check value of CRC-32 of IEEE 802.3: its standard's test of the digits 1 to 9. -/
theorem test_crc : crc32 [0x31#8, 0x32#8, 0x33#8, 0x34#8, 0x35#8, 0x36#8, 0x37#8, 0x38#8, 0x39#8] = 0xCBF43926 := by decide +kernel

/-- Unit i goes to active lane i mod n in rising lane number, and comes off in the same order (R373). -/
theorem test_stripe : (stripe [5, 1] [[1#8], [2#8], [3#8]]).map (fun x => x.1) = [1, 5, 1] ∧
    Machine.gathered [5, 1] (fun i => onLane i (stripe [5, 1] [[1#8], [2#8], [3#8]])) 3 = [[1#8], [2#8], [3#8]] := by decide +kernel

/-- A frame of one byte is clean; of 65 units, of kind 7 or with a bit flipped it is not. -/
theorem test_clean : let w : WireFrame := .data 7 6 1 77 (small 1)
    headerClean (headerOf w) (payloadOf w) = true ∧ (bits (headerOf w) 63 57, bits (headerOf w) 56 53, bits (headerOf w) 95 80, bits (headerOf w) 271 264) = (1, 3, 7, opStore) ∧
    headerClean (headerOf w ^^^ 2 ^ 300) (payloadOf w) = false ∧ headerClean (7 <<< 48 + crc32 (crcOver (7 <<< 48) [])) [] = false ∧
    headerClean (65 <<< 57 + crc32 (crcOver (65 <<< 57) [])) [] = false := by decide +kernel

/-- A port in training at a position, start-up waiting for it. -/
def training (p pos : Nat) (l : Link := {}) : State :=
  { core := { cfg := [(rPortEnable, 0xFFFFFFFF)], mgt := { deviceId := 0x8001 }, ports := [(0, { trained := true })], part := { pos := 1 } }, power := { stage := 7 },
    links := [(p, { l with position := pos, passed := [0, 1, 2, 3] })] }

theorem witness_training : (∀ pos ∈ [posOff, posDetect, posLock, posAlign, posVersion, posIdentity, posCredit, posUp], ((training 23 pos).link 23).position = pos) ∧ (training 23 posOff).power.stage = 7 ∧
    (training 23 posOff).power.waitFor = 0 ∧ bit ((training 23 posOff).core.reg rPortEnable) 23 = true ∧ ((training 24 posDetect { allow1 := true }).link 24).allow1 = true ∧
    (training 24 posVersion { gen := 1 }).core.selfId ≤ 4095 ∧ 4095 < ({ training 24 posVersion { gen := 1 } with core := { mgt := { deviceId := 0x9000 } } } : State).core.selfId := by decide +kernel

theorem witness_trainingLanes : minLanes 23 ≤ (((training 23 posLock).link 23).passed.filter [0, 1, 2, 3, 4].contains).length ∧
    (((training 23 posLock).link 23).passed.filter [1, 2, 3].contains).length < minLanes 23 ∧ minLanes 24 ≤ (((training 24 posVersion { gen := 2 }).link 24).passed.filter [1, 2].contains).length ∧
    minLanes 23 ≤ ((training 23 posCredit).link 23).passed.length ∧ (training 23 posIdentity).identityOk 23 0x3FFF 0 0 = true ∧
    (training 24 posIdentity).identityOk 24 2 0 25 = true ∧ (training 24 posIdentity).identityOk 24 2 0 24 = false := by decide +kernel

/-- Retraining is possible. -/
theorem witness_retrain : ((training 23 posDown).core.port 0).trained = true ∧ (training 23 posDown).core.mayWrite 0 rPortRetrain = true ∧ (training 23 posDown).core.mgt.active = false ∧
    7 ≤ (training 23 posDown).power.stage ∧ (training 23 posDown).power.stage ≠ 15 ∧ (training 23 posDown).power.waitFor ≠ 3 := by decide +kernel

/-! Faults, the restart wave, power. -/

/-- A job at a point of its life. -/
def living (m : JobState) (active : Bool := true) (c : Core := {}) : State :=
  { core := { c with mgt := { c.mgt with jobState := m, active := active, deviceId := 0x8001, waveNum := 5, logical := [0, 1] }, hearths := [(0, { running := true, wbq := [wb 0 none], storageFaults := 2 })] },
    power := { mainOn := true } }

/-- A failed store in each state that can fault, and a lesson fault of class 0. -/
theorem witness_lessonFault : ∀ f ∈ [({ cls := 0, status := stFormat } : FaultReq), { cls := 11, status := stTimeout }], f.cls ≤ 11 ∧
    (living .running).core.mgt.active = true ∧ (living .restarted).core.mgt.jobState = .restarted := by decide

/-- The same with port 3 UP. -/
def waved (j : JobState) (active : Bool := true) : State := { living j active with links := [(3, { position := 7, lanes := [0, 1, 2, 3] })] }

theorem witness_wave : ∀ p ∈ [(JobState.running, true), (.restarted, true), (.quiesced, true), (.resetting, true), (.running, false)], (waved p.1 p.2).core.mgt.jobState = p.1 ∧
    (waved p.1 p.2).core.mgt.active = p.2 ∧ (waved p.1 p.2).core.mgt.waveNum = 5 := by decide +kernel

theorem witness_waveArrives : ∀ p ∈ [(JobState.running, true), (.restarted, true), (.quiesced, true), (.resetting, true), (.running, false)], ∀ n ∈ [4, 5, 6],
    (waved p.1 p.2).Arrives at3 vcSync (.restartWave at3 n 0x20 stOk 0x21) := fun p hp n hn => arrives_of (by revert n p; decide +kernel)

/-- A device in its warm reset: with restarts left, past the limit, or torn down. -/
def resetting (count : Nat) (torn : Bool) : State :=
  let s := living .resetting true { cfg := [(rRestartLimit, 3)], stacked := at_ 0 [1#8], ports := [(0, { rings := [(1, { enabled := true, started := [run3] })] })] }
  { s with core := { s.core with mgt := { s.core.mgt with restartCount := count, torn := torn } } }

theorem witness_warmReset : ∀ p ∈ [(2, false), (3, false), (0, true)], (resetting p.1 p.2).core.mgt.active = true ∧ (resetting p.1 p.2).core.mgt.jobState = .resetting ∧
    (resetting p.1 p.2).core.mgt.faultHeld = false ∧ ((resetting p.1 p.2).core.reg rRestartLimit < (resetting p.1 p.2).core.mgt.restartCount + 1 ↔ p.1 = 3) := by decide +kernel
/-- The same with a wave, or a fault of its own, held through the reset. -/
def heldOver (wave : Option (Nat × Nat × Nat)) (down : List Nat) (fault : Bool) : State :=
  let s := resetting 2 false
  { s with core := { s.core with mgt := { s.core.mgt with waveHeld := wave, waveDown := down, faultHeld := fault } } }

theorem witness_heldOver : ∀ p ∈ [((some (9, 0x20, 1) : Option (Nat × Nat × Nat)), ([] : List Nat), false), (some (9, 0x20, 1), [9], true), (none, [], true)],
    (heldOver p.1 p.2.1 p.2.2).core.mgt.jobState = .resetting ∧ (heldOver p.1 p.2.1 p.2.2).core.mgt.overLimit = false ∧ (heldOver p.1 p.2.1 p.2.2).core.mgt.torn = false ∧
    (heldOver p.1 p.2.1 p.2.2).core.mgt.restartCount + 1 ≤ (heldOver p.1 p.2.1 p.2.2).core.reg rRestartLimit ∧ ((heldOver p.1 p.2.1 p.2.2).core.mgt.waveNum + 1) % 65536 ≤ 9 ∧
    (heldOver p.1 p.2.1 p.2.2).core.mgt.waveHeld = p.1 := by decide +kernel

/-- Readings of a device of 2,400 W at 48 V, a Hearth's and a layer's temperature. -/
def readings (avg1 avg10 hearth layer : Nat) : Readings := { avg1ms := avg1, avg10us := avg10, inputMv := 48000, beatRate := 1900, hearths := [hearth, 30], layers := [layer] }

/-- Readings on both sides of each limit of a decision. -/
def decisions : List Readings :=
  [readings 2000 2641 40 40, readings 2000 2640 40 40, readings 2401 2000 40 40, readings 2400 2000 40 40, readings 2000 2000 100 40, readings 2000 2000 99 40, readings 2000 2000 97 87,
   readings 2000 2000 40 90, readings 2352 2000 40 40, readings 2351 2000 40 40]

theorem witness_regulator : (∀ v ∈ [600, 603, 750, 898, 900], ({ core := { mgt := { logical := [0, 1] } }, power := { mainOn := true, coreNow := v, tick := 99 } } : State).power.mainOn = true) ∧
    decisions.map (fun r => (decide (11 * 2400 < 10 * r.avg10us), decide (2400 < r.avg1ms), decide (100 * r.avg1ms < 98 * 2400))) =
      [(true, false, true), (false, false, true), (false, true, false), (false, false, false), (false, false, true), (false, false, true), (false, false, true), (false, false, true),
       (false, false, false), (false, false, true)] := by decide +kernel

/-- A device at a stage of its start. -/
def staged_ (stage : Nat) (on : Bool) (trip : Bool := false) (f : Flash := {}) : State :=
  { power := { stage := stage, standbyOn := on, mainOn := on && decide (3 ≤ stage), thermTrip := trip, flash := f }, core := { ports := [(0, { perst := false })] } }

/-- Flash whose slots are unsigned. -/
def unsigned : Flash := { slotA := [], slotB := [] }

theorem witness_power : (∀ st ∈ [2, 3, 7, 8], (staged_ st true).power.standbyOn = true ∧ (staged_ st true).power.stage = st) ∧ (staged_ 8 true).power.mainOn = true ∧
    (∀ trip ∈ [true, false], (staged_ 0 false trip).power.standbyOn = false ∧ (staged_ 0 false trip).power.thermTrip = trip) ∧
    (staged_ 2 true false unsigned).power.bootSlot = none ∧ (staged_ 2 true).power.bootSlot = some false ∧ (staged_ 2 true false { preferB := true }).power.bootSlot = some true ∧
    (staged_ 2 true).core.dram.retiredChannels = [] ∧ ((staged_ 5 true).core.port 0).perst = false ∧ ((staged_ 5 true).core.port 0).trained = false ∧
    (∃ h, h < 88 ∧ h ∉ (staged_ 5 true).core.part.fused ∧ h ∉ (staged_ 5 true).core.mgt.retiredHearths ∧
      bit ((staged_ 5 true).core.reg rHearthDisable0 + (staged_ 5 true).core.reg rHearthDisable1 <<< 64) h = false) := by
  refine ⟨by decide +kernel, by decide +kernel, by decide +kernel, by decide +kernel, by decide +kernel, by decide +kernel, by decide +kernel, by decide +kernel, by decide +kernel, 0, ?_⟩
  decide +kernel

/-- A start that the input's loss stopped keeps its code; ENABLE that stayed high goes on at once. -/
theorem witness_coldStart : ∀ p ∈ [(0, false, false), (0, true, false), (15, true, false), (0, false, true)],
    let s := staged_ p.1 false p.2.2
    let t : State := { s with power := { s.power with enable := p.2.1 } }
    t.power.standbyOn = false ∧ t.power.enable = p.2.1 ∧ t.power.stage = p.1 ∧ t.power.thermTrip = p.2.2 ∧
      (p.1 = 15 → (staged_ 15 true).power.bootSlot = some false ∧ (staged_ 15 true).power.enable = false) := by decide +kernel

theorem witness_management : (staged_ 2 true).power.standbyOn = true ∧ (staged_ 0 false).power.standbyOn = false := by decide

/-! Host ports, jobs, registers. -/

/-- A port's ring 1 of 64 entries with some of its descriptors announced and one completion that carries irq, not yet read. -/
def doorbell (tail : Nat) (masked : List Nat := []) (c : Core := {}) : State :=
  { core := { c with cfg := [(rRing 0 1 2, 6), (rRing 0 1 3, 7), (rWatchMs, 1)] ++ c.cfg,
                     ports := [(0, { trained := true, perst := false, sinceBeat := 1000, masked := masked, pendingBits := masked,
                                     rings := [(1, { enabled := true, fetchHead := 60, sqTail := tail, cqTail := 3, irqHeld := [2], irqOut := true, started := [run3] })] })] },
    power := { mainOn := true, stage := 8 } }

/-- Tails at the end of what fits, and one past it. -/
theorem witness_doorbell : (∀ v ∈ [59, 60], ((doorbell 60).core.port 0).trained = true ∧ (doorbell 60).core.fetches 0 1 = true ∧
      ((60 + 64 - 60) % 64 + (v + 64 - 60) % 64 < 64) ∧ (doorbell 60).core.ringEntries 0 1 = 64) ∧ 64 ≤ (62 + 64 - 60) % 64 + (61 + 64 - 62) % 64 ∧ (doorbell 62).core.fetches 0 1 = true ∧
    (doorbell 60).core.halted = false ∧ (doorbell 60).core.fabric.xfers = [] := by decide +kernel

/-- Start-up waits for a port: with the other one in reset too, PERST# on this one holds it again. -/
def waitsForPort (other : Bool) : State :=
  { core := { ports := [(0, { perst := false, trained := true }), (1, { perst := other })] }, power := { mainOn := true, stage := 5 } }

theorem witness_perst : ∀ b ∈ [true, false], ((waitsForPort b).core.port 0).lost = false ∧ ((waitsForPort b).core.port 0).trained = true ∧ (waitsForPort b).power.stage = 5 ∧
    ((waitsForPort b).core.port 1).perst = b := by decide

theorem witness_portLost : ((doorbell 60).core.port 0).lost = false ∧ (doorbell 60).core.reg rWatchMs ≠ 0 ∧ 1000 * (doorbell 60).core.reg rWatchMs ≤ ((doorbell 60).core.port 0).sinceBeat ∧
    ((doorbell 60).core.port 1).lost = false ∧ 65 ∉ ((doorbell 60).core.port 1).masked ∧ (doorbell 60).power.mainOn = true ∧ ((doorbell 60).core.port 0).perst = false := by decide +kernel

/-- A ready device without a job, or with one. -/
def ready (active : Bool) (rings : List (Nat × Ring) := []) (latched : List (Nat × Nat) := []) : State :=
  { core := { mgt := { active := active, deviceId := 0x8001, logical := [0, 1] }, ports := [(0, { trained := true, rings := rings }), (1, { trained := true })], cfg := [(rLocalSize, 4)],
              latched := latched, hearths := [(0, { lastEnd := 4 })] },
    power := { stage := 8, mainOn := true } }

theorem witness_jobs : (ready false).canStart = true ∧ (ready true).canStart = false ∧ (ready false [(1, { enabled := true })]).canStart = false ∧
    ((ready false).core.port 0).trained = true ∧ (ready false).core.mayWrite 0 rJobCtrl = true ∧ (ready true).core.mayWrite 0 rJobCtrl true = true ∧ (ready true).core.ringsIdle = true ∧
    (ready true [(1, { started := [run3] })]).core.ringsIdle = false := by decide +kernel

/-- A register that a job start latches, and which is none of the picker's. -/
theorem witness_latched : latchedAtJob rLocalSize = true ∧ ¬ inArray rLocalSize (rPick 0) 8 4096 = true := by decide +kernel

/-- One tenant may write the device's registers; with two, port 1 may not. -/
def tenants : State := ready false [] [(rTenantMode, 1)]

/-- The same with pool set 3 enabled for tenant 1. -/
def ownedSet : State := { tenants with core := { tenants.core with pools := { sets := [(3, { enabled := true, record := 1 <<< 66 })] } } }

theorem witness_ownSets : ownedSet.core.mayWrite 1 rPoolSetEnable = true ∧ ownedSet.core.twoTenant = true ∧ ownedSet.core.halted = false ∧
    ownedSet.core.ownSets 1 9 = 8 ∧ ownedSet.core.ownSets 1 8 = 8 ∧ ownedSet.core.ownSets 0 9 = 1 := by decide +kernel

theorem witness_acting : (∀ off ∈ [rFaultClear, rSvnCommit, rPoolSetEnable, rHeartbeat 0, rHeartbeat 1, rRing 1 63 4, rDeviceId], (ready false).core.mayWrite 0 off = true) ∧
    (ready false).core.mayWrite 0 rFabTeardown true = true ∧ (ready false).core.halted = false ∧ (ready false).core.twoTenant = false ∧ ((ready false).core.port 1).lost = false ∧
    (ready false).power.stage = 8 ∧ ((ready false).core.ring 1 63).enabled = false ∧ ((ready false).core.ring 1 63).started = [] ∧
    (∀ off ∈ [rFaultClear, rSvnCommit, rDeviceId, rPoolSetEnable, rPortRetrain], tenants.core.mayWrite 1 off = (off == rPoolSetEnable)) ∧ (tenants.core.port 1).trained = true := by decide +kernel

/-- A device that waits for its id, on position 1. -/
def unnamed : State := { core := { ports := [(0, { trained := true })], part := { pos := 1 }, cfg := [(rPortEnable, 3)] }, power := { standbyOn := true, stage := 7, waitFor := 3 } }

theorem witness_deviceId : unnamed.power.standbyOn = true ∧ unnamed.power.stage = 7 ∧ unnamed.power.waitFor = 3 ∧ (unnamed.core.port 0).trained = true ∧ unnamed.core.mayWrite 0 rDeviceId = true ∧
    bit 0x8009 15 = true ∧ 0x8009 % 8 = unnamed.core.part.pos ∧ 0x8008 % 8 ≠ unnamed.core.part.pos ∧ (staged_ 8 true).power.stage ≠ 7 := by decide +kernel

/-- Registers that hold their writes: one for the next job, one of the device in two-tenant mode, and an offset that no table lists. -/
theorem witness_registers : (regSpec rLocalSize).map (·.eff) = some .job ∧ rLocalSize % 8 = 0 ∧ (ready false).core.twoTenant = false ∧ (ready false).core.mayWrite 0 rLocalSize = true ∧
    (regSpec rLocalSize).isSome = true ∧ tenants.core.mayWrite 1 rLocalSize = false ∧ (tenants.core.port 1).trained = true ∧ regSpec 0x0FFF8 = none ∧
    (ready false).actReg 0 0x0FFF8 0 = none ∧ (ready false).core.mayWrite 0 rPowerCap = true := by decide +kernel
/-- Two tenants, the second with Smithy 1, whose Hearth 4 is logical Hearth 1; a job setting of lending for both. -/
def shared : State :=
  { core := { mgt := { deviceId := 0x8001, logical := [0, 4] }, ports := [(0, { trained := true }), (1, { trained := true })], cfg := [(rTenantMode, 1), (rLendEnable0, 1)],
              latched := [(rTenantMode, 1), (rTenantSmithy, 2)] },
    power := { stage := 8, mainOn := true }, links := [(3, { position := posIdentity }), (4, { position := 7 })] }

theorem witness_judged : (∀ off ∈ [rPortEnable, rWatchMs, rRing 0 1 0, rRing 1 63 3, rPowerCap, rPowerMode, rCoreSet], off % 8 = 0 ∧ (regSpec off).isSome = true ∧
      (ready false).core.mayWrite 0 off = true) ∧
    (∀ q ∈ [(0, rLendEnable0), (1, rLendEnable0), (0, rRgnLo 127), (1, rRgnLo 128)], shared.core.mayWrite q.1 q.2 = true ∧ (regSpec q.2).isSome = true) ∧
    shared.core.twoTenant = true ∧ shared.core.physOf 0 = some 0 ∧ shared.core.physOf 1 = some 4 ∧ shared.core.hearthTenant 0 = 0 ∧ shared.core.hearthTenant 4 = 1 ∧
    ((ready false).core.ring 0 1).enabled = false ∧ ((ready false).core.ring 0 1).started = [] ∧ ((ready false [(1, { started := [run3] })]).core.ring 0 1).started ≠ [] ∧
    (ready false).power.setting rLocalSize = none ∧ (regSpec (rRing 0 1 0)).map (·.eff) = some .idle := by decide +kernel

/-- A field whose range begins and ends inside its multiples. -/
theorem witness_field : let f : RegField := { lo := 4, w := 8, min := 8, max := 21, mult := 4, reset := 8 }
    f.min ≤ f.max ∧ f.min % f.mult = 0 ∧ 0 < f.mult ∧ [7, 8, 11, 21, 22].map (fun v => f.judge (v <<< 4) >>> 4) = [8, 8, 8, 20, 20] := by decide

theorem witness_jobSide : (∃ t, exec (.runEnd 0) ending = .next t ∧ jobSide (.runEnd 0) = true) ∧ ∃ t, exec (.progress at3 0x10 7) ending = .next t ∧ arrivesOn (.progress at3 0x10 7) = some 3 :=
  ⟨⟨_, rfl, rfl⟩, ⟨_, rfl, rfl⟩⟩

end Sys2Proof.Tests
end

section
/-!
PROOFS. Descriptors that start: where a ring announces a descriptor that nothing refuses or hinders (R430, R431), its command comes to what its work leaves of
the state in which it has begun.
-/

namespace Sys2Proof.Machine

/-! Updates of the same key, port or ring one after the other. -/

theorem kvPut_kvPut {α : Type} (l : List (Nat × α)) (k : Nat) (v w : α) : kvPut (kvPut l k v) k w = kvPut l k w := by
  induction l with
  | nil => simp [kvPut]
  | cons e r ih =>
    obtain ⟨a, u⟩ := e
    by_cases hlt : k < a
    · simp [kvPut, hlt]
    · by_cases hk : k = a
      · simp [kvPut, hk]
      · simp [kvPut, hlt, hk, ih]

theorem mem_kvPut {α : Type} {l : List (Nat × α)} {k : Nat} {v : α} {p : Nat × α} (h : p ∈ kvPut l k v) : p = (k, v) ∨ p ∈ l := by
  induction l with
  | nil => simpa [kvPut] using h
  | cons e r ih =>
    obtain ⟨a, u⟩ := e
    unfold kvPut at h
    split at h
    · simpa using h
    · split at h
      · exact (List.mem_cons.mp h).imp_right (List.mem_cons_of_mem _)
      · rcases List.mem_cons.mp h with rfl | h
        · simp
        · exact (ih h).imp_right (List.mem_cons_of_mem _)

theorem mem_of_kvGet {α : Type} {l : List (Nat × α)} {k : Nat} {v : α} (h : kvGet l k = some v) : (k, v) ∈ l := by
  induction l with
  | nil => cases h
  | cons e r ih =>
    obtain ⟨a, u⟩ := e
    by_cases hk : k = a <;> simp_all [kvGet]

theorem Core.modPort_modPort (c : Core) (q : Nat) (f g : HostPort → HostPort) :
    (c.modPort q f).modPort q g = c.modPort q (fun p => g (f p)) := by
  simp only [Core.modPort, Core.setPort, Core.port, kvPut_kvPut, kvGet_kvPut_same, Option.getD_some]

theorem Core.modRing_modRing (c : Core) (q r : Nat) (f g : Ring → Ring) :
    (c.modRing q r f).modRing q r g = c.modRing q r (fun x => g (f x)) := by
  simp only [Core.modRing, Core.modPort_modPort, HostPort.ring, kvPut_kvPut, kvGet_kvPut_same, Option.getD_some]

theorem Core.modRing_congr {c : Core} {q r : Nat} {f g : Ring → Ring} (h : f (c.ring q r) = g (c.ring q r)) : c.modRing q r f = c.modRing q r g := by
  simp only [Core.ring] at h
  simp only [Core.modRing, Core.modPort, h]

/-! Next states. -/

theorem Core.Same.refl (c : Core) : Core.Same c c := ⟨fun _ => rfl, fun _ => rfl, fun _ => rfl, fun _ => rfl, rfl⟩

theorem State.becomes_of_eq {s : State} {o : Host.Outcome State Fault Refusal} {d : Core} (h : o = .next { s with core := d }) : s.Becomes o d :=
  ⟨_, h, Core.Same.refl d, rfl⟩

theorem Core.gated_of_not_halted {c : Core} (f : Core → Core) (h : c.halted = false) : c.gated f = f c := by
  simp [Core.gated, h]

/-! A descriptor that starts (R430, R431). -/

theorem Core.ring_modPort (c : Core) (q j r : Nat) {f : HostPort → HostPort} (hf : ∀ p, (f p).rings = p.rings) : (c.modPort q f).ring j r = c.ring j r := by
  simp only [Core.ring, HostPort.ring, Core.port_modPort]
  split
  · next h => rw [hf, h]
  · rfl

/-- No fetch of a ring is under way. -/
def Core.dropFetches (c : Core) (q r : Nat) : Core :=
  { c with fabric := { c.fabric with xfers := c.fabric.xfers.filter (fun t => !isFetch q r t) } }

@[simp] theorem Core.dropFetches_ports (c : Core) (q r : Nat) : (c.dropFetches q r).ports = c.ports := rfl
@[simp] theorem Core.dropFetches_ring (c : Core) (q r j k : Nat) : (c.dropFetches q r).ring j k = c.ring j k := rfl
@[simp] theorem Core.dropFetches_ringEntries (c : Core) (q r j k : Nat) : (c.dropFetches q r).ringEntries j k = c.ringEntries j k := rfl

/-- The fetch of a descriptor has come (R431): it waits at its ring's head. -/
def Core.fetchCame (c : Core) (o : Origin) (op : Nat) (d : Desc) : Core :=
  ((c.dropFetches o.port o.ring).modPort o.port (fun p => p.heard 1)).modRing o.port o.ring (fun x =>
    { x with fetchHead := (x.fetchHead + 1) % c.ringEntries o.port o.ring, fetched := x.fetched ++ [{ slot := o.slot, opcode := op, d := d }] })

/-- The entry of a descriptor that starts. -/
def startedOf (o : Origin) (op : Nat) (d : Desc) (hs : List Nat) : Started :=
  { slot := o.slot, tag := d.tag, opcode := op, irq := d.irq, barrier := d.barrier, hearths := hs }

theorem Core.begun_eq (c : Core) (o : Origin) (op : Nat) (d : Desc) (hs : List Nat) :
    c.begun o op d hs = ((c.dropFetches o.port o.ring).modPort o.port (fun p => p.heard 1)).modRing o.port o.ring (fun x =>
      { x with fetchHead := x.sqTail, started := [startedOf o op d hs] }) := rfl

/-- Every descriptor that has started, on any ring of any port, has a property. -/
def Core.AllStarted (c : Core) (P : Started → Prop) : Prop := ∀ p ∈ c.ports, ∀ y ∈ p.2.rings, ∀ t ∈ y.2.started, P t

theorem Core.AllStarted.port {c : Core} {P : Started → Prop} (h : c.AllStarted P) (q : Nat) : ∀ y ∈ (c.port q).rings, ∀ t ∈ y.2.started, P t := by
  unfold Core.port
  cases hq : kvGet c.ports q with
  | none => simp
  | some x => exact h _ (mem_of_kvGet hq)

theorem Core.AllStarted.modPort {c : Core} {P : Started → Prop} (h : c.AllStarted P) (q : Nat) (f : HostPort → HostPort)
    (hf : ∀ y ∈ (f (c.port q)).rings, ∀ t ∈ y.2.started, P t) : (c.modPort q f).AllStarted P := by
  intro p hp
  rcases mem_kvPut hp with rfl | hp
  · exact hf
  · exact h p hp

theorem Core.AllStarted.modRing {c : Core} {P : Started → Prop} (h : c.AllStarted P) (q r : Nat) (f : Ring → Ring)
    (hf : ∀ t ∈ (f (c.ring q r)).started, P t) : (c.modRing q r f).AllStarted P := by
  refine h.modPort q _ fun y hy => ?_
  rcases mem_kvPut hy with rfl | hy
  · exact hf
  · exact h.port q y hy

section
variable {c : Core} {o : Origin} {op : Nat} {d : Desc} (ha : c.Announced o)

theorem Core.fetchCame_lost : ((c.fetchCame o op d).port o.port).lost = (c.port o.port).lost := by
  simp only [Core.fetchCame, Core.modRing, Core.port_modPort, if_true]
  rfl

theorem Core.fetchCame_descRefused : (c.fetchCame o op d).descRefused o.port op d = c.descRefused o.port op d := by
  simp only [Core.descRefused, Core.fetchCame_lost]
  rfl

include ha

theorem Core.fetchCame_ring : (c.fetchCame o op d).ring o.port o.ring =
    { c.ring o.port o.ring with fetchHead := (c.ring o.port o.ring).sqTail, fetched := [{ slot := o.slot, opcode := op, d := d }] } := by
  obtain ⟨-, hhead, -, htail, hfetched, -⟩ := ha
  simp [Core.fetchCame, Core.ring_modRing, Core.ring_modPort _ _ _ _ (fun p => HostPort.heard_rings p 1), hfetched, htail, hhead]

theorem Core.fetchCame_fetchNext : (c.fetchCame o op d).fetchNext o.port o.ring = c.fetchCame o op d := by
  simp [Core.fetchNext, Core.fetchCame_ring ha]

theorem Core.fetchCame_allStarted {P : Started → Prop} (h : c.AllStarted P) : (c.fetchCame o op d).AllStarted P := by
  obtain ⟨-, -, -, -, -, hstarted⟩ := ha
  have hheard : ((c.dropFetches o.port o.ring).modPort o.port (fun p => p.heard 1)).AllStarted P :=
    Core.AllStarted.modPort (c := c.dropFetches o.port o.ring) h o.port _ (h.port o.port)
  refine hheard.modRing o.port o.ring _ ?_
  simp [Core.ring_modPort _ _ _ _ (fun p => HostPort.heard_rings p 1), hstarted]

/-- R431 lets a descriptor start that nothing hinders. -/
theorem Core.fetchCame_canStart (hu : c.Unhindered o op d) :
    (c.fetchCame o op d).canStart o.port o.ring { slot := o.slot, opcode := op, d := d } = true := by
  obtain ⟨hfree, hsignal, hstep⟩ := hu
  obtain ⟨hfetch, -, -, -, -, hstarted⟩ := id ha
  simp only [Core.fetches, Bool.and_eq_true, Bool.not_eq_true'] at hfetch
  obtain ⟨⟨⟨-, -⟩, hringLost⟩, hportLost⟩ := hfetch
  have hstep' : op = 9 → c.crucible.phase = .idle ∧ (c.fetchCame o op d).AllStarted (fun t => t.opcode ≠ 9) :=
    fun h => (hstep h).imp id (Core.fetchCame_allStarted ha)
  simp only [Core.canStart, Core.fetchCame_ring ha, hringLost, hstarted, Core.fetchCame_lost, hportLost, Core.fetchCame_descRefused, Bool.not_false,
    Bool.and_self, List.length_nil, Nat.zero_le, decide_true, List.isEmpty_nil, Bool.or_true, List.any_nil, Bool.and_true, Bool.true_and,
    Bool.and_eq_true, List.all_eq_true, Bool.or_eq_true, bne_iff_ne, ne_eq, beq_iff_eq, Bool.not_eq_eq_eq_not, Bool.not_true, List.any_eq_false,
    List.any_eq_true, Prod.exists, not_exists, not_and, Prod.forall]
  refine ⟨⟨hfree, hsignal⟩, ?_⟩
  by_cases hop : op = 9
  · obtain ⟨hphase, hnone⟩ := hstep' hop
    exact .inr ⟨hphase, fun _ _ hp _ _ hy => hnone _ hp _ hy⟩
  · exact .inl hop

/-- Its start takes it off the ring's head: the state is then the one in which it has begun. -/
theorem Core.fetchCame_begun (hs : List Nat) :
    (c.fetchCame o op d).modRing o.port o.ring (fun x => { x with fetched := x.fetched.drop 1, started := x.started ++ [startedOf o op d hs] }) =
      c.begun o op d hs := by
  obtain ⟨-, hhead, -, htail, hfetched, hstarted⟩ := ha
  rw [Core.fetchCame, Core.modRing_modRing, Core.begun_eq]
  refine Core.modRing_congr ?_
  simp [Core.ring_modPort _ _ _ _ (fun p => HostPort.heard_rings p 1), hhead, htail, hfetched, hstarted]

theorem Core.fetchCame_startHead (hr : c.descRefused o.port op d = false) :
    (c.fetchCame o op d).startHead o.port o.ring { slot := o.slot, opcode := op, d := d } =
      (c.fetchCame o op d).runStarted (c.begun o op d (c.descHearths o.port { slot := o.slot, opcode := op, d := d })) o op (descBody o op d) := by
  simp only [Core.startHead, Core.fetchCame_descRefused, hr, Bool.false_eq_true, if_false, ← Core.fetchCame_begun ha]
  rfl

/-- A descriptor that its ring announces, that is not refused and that nothing hinders does its work at once (R430, R431). -/
theorem Core.fetchedDesc_starts (hr : c.descRefused o.port op d = false) (hu : c.Unhindered o op d) :
    c.fetchedDesc o op d =
      (c.fetchCame o op d).runStarted (c.begun o op d (c.descHearths o.port { slot := o.slot, opcode := op, d := d })) o op (descBody o op d) := by
  obtain ⟨hfetch, hhead, hne, -, hfetched, -⟩ := id ha
  have hcame : c.fetchedDesc o op d = ((c.fetchCame o op d).fetchNext o.port o.ring).startRing o.port o.ring 1 := by
    simp only [Core.fetchedDesc, hfetch, hhead, hfetched, Ne.symm hne, Bool.not_true, Bool.false_or, bne_self_eq_false, Bool.or_false, beq_iff_eq,
      if_false, List.length_nil, Nat.zero_add]
    rfl
  rw [hcame, Core.fetchCame_fetchNext ha, ← Core.fetchCame_startHead ha hr]
  simp [Core.startRing, Core.fetchCame_ring ha, Core.fetchCame_canStart ha hu]

end

/-- A descriptor that starts and whose work raises no fault answers the state that its work leaves. -/
theorem State.Starts.becomes {s : State} {o : Origin} {op : Nat} {d : Desc} {hs : List Nat} {c : Core} (h : s.Starts o op d hs)
    (hrun : (descBody o op d).run (s.core.begun o op d hs) = .ok () c) :
    s.Becomes (.next { s with core := s.core.gated (fun c => c.fetchedDesc o op d) }) c := by
  obtain ⟨hhalted, ha, hr, rfl, hu⟩ := h
  refine State.becomes_of_eq ?_
  rw [Core.gated_of_not_halted _ hhalted, Core.fetchedDesc_starts ha hr hu, Core.runStarted, hrun]

end Sys2Proof.Machine
end

section
/-!
PROOFS. OP_RUN with and without lend (R141, R142, R440).
-/

namespace Sys2Proof.Machine

theorem Core.targets_of_descHearths {c : Core} {o : Origin} {op : Nat} {d : Desc} {hs : List Nat}
    (h : c.descHearths o.port { slot := o.slot, opcode := op, d := d } = hs) (hne : hs ≠ []) : c.targets (c.originTenant o) d.path = some hs := by
  unfold Core.descHearths at h
  split at h
  · unfold Core.originTenant
    cases ht : c.targets (if c.twoTenant then o.port else 0) d.path with
    | none => exact absurd (by simpa [ht] using h.symm) hne
    | some l => simpa [ht] using h
  · exact absurd h.symm hne

/-- Of the members of a run, those whose card fails its checks. -/
def refusedMembers (hs : List Nat) (ok : List Bool) : List Nat := ((hs.zip ok).filter (fun p => !p.2)).map (fun p => p.1)

section
variable {c : Core} {o : Origin} {d : Desc} {hs : List Nat} {ok : List Bool} (ht : c.targets (c.originTenant o) d.path = some hs)
  (hok : (hs.mapM (fun h => cardOk h ((c.cardPicked (c.hearth h).card).getD ([], [])))).run c = .ok ok c)
include ht hok

/-- The cards of all members pass: every member starts, in rank order. -/
theorem runOp_starts (hbad : refusedMembers hs ok = []) :
    (runOp o d).run c = .ok () ((hs.mapIdx (fun i h => (i, h))).foldl (fun c p => c.startMember o hs.length p.1 p.2) c) := by
  rw [refusedMembers] at hbad
  simp only [runOp, run_bind, run_get, ht, hok, run_update, hbad, List.isEmpty_nil, if_true]

/-- Some card fails: the members whose cards fail are counted and none starts. -/
theorem runOp_refuses (hbad : refusedMembers hs ok ≠ []) :
    (runOp o d).run c = .ok () ((((refusedMembers hs ok).foldl (fun c h => c.bump (kHth h 3)) c).endClaims o.port o.ring hs).complete o stFormat 0) := by
  rw [refusedMembers] at hbad
  simp only [runOp, run_bind, run_get, ht, hok, run_update, List.isEmpty_iff, hbad, if_false]
  rfl

end

theorem readFor_host (c : Core) (o : Origin) (keyed : Bool) (tenant key : Nat) (cont : Cont) (a n : Nat) :
    (readFor o true keyed tenant key cont a n).run c = .ok none (c.hostAsked (.desc o) o.port cont a n) := rfl

theorem readFor_fabric {c : Core} {o : Origin} {keyed : Bool} {tenant key a n : Nat} {b : List Byte} (cont : Cont)
    (h : c.Reads { actor := .desc o, tenant := tenant, key := key, keyed := keyed } [(a, n)] b) :
    (readFor o false keyed tenant key cont a n).run c = .ok (some b) c := h cont

/-- A lend record posted on its tenant's lendable ring of the die whose turn it is; the turn passes to the other die (R440). -/
def Core.lendPosted (c : Core) (p : LendPost) : Core :=
  let ring := 2 * c.originTenant p.origin + 1
  let die := spGet 0 c.tt.lendNext ring
  ({ c with tt := { c.tt with lend := kvPut c.tt.lend (die * 4 + ring) ((kvGet c.tt.lend (die * 4 + ring)).getD [] ++ [p]),
                              lendNext := kvPut c.tt.lendNext ring (1 - die) } } : Core).bump (kTtPosted die ring)

section
variable (c : Core) (o : Origin) (irq : Bool) {data : List Byte}

theorem lendArrived_refused (hb : lendBad (leNat data) = true) : (lendArrived o irq data).run c = .ok () (c.complete o stFormat 0) := by
  simp [lendArrived, hb]

theorem lendArrived_absent (hb : lendBad (leNat data) = false) (hl : ∀ h ∈ c.mgt.logical, c.hearthTenant h = c.originTenant o ∨ c.lending h = false) :
    (lendArrived o irq data).run c = .ok () (c.complete o stUnitAbsent 0) := by
  have hnone : c.mgt.logical.any (fun h => c.hearthTenant h != c.originTenant o && c.lending h) = false := by
    simpa [List.any_eq_false, Decidable.imp_iff_not_or] using hl
  simp only [lendArrived, run_bind, run_get, hb, hnone, Bool.false_eq_true, if_false, Bool.not_false, if_true, run_set]

theorem lendArrived_posts (hb : lendBad (leNat data) = false) (hl : ∃ h ∈ c.mgt.logical, c.hearthTenant h ≠ c.originTenant o ∧ c.lending h = true) :
    (lendArrived o irq data).run c = .ok () (c.lendPosted { origin := o, irq := irq, record := leNat data }) := by
  have hsome : c.mgt.logical.any (fun h => c.hearthTenant h != c.originTenant o && c.lending h) = true := by
    simpa [List.any_eq_true] using hl
  simp only [lendArrived, run_bind, run_get, hb, hsome, Bool.false_eq_true, if_false, Bool.not_true]
  rfl

variable (d : Desc)

theorem runLendOp_oneTenant (ht : c.twoTenant = false) : (runLendOp o d).run c = .ok () (c.complete o stFormat 0) := by
  simp [runLendOp, ht]

theorem runLendOp_host (ht : c.twoTenant = true) (hd : d.aHost = true) :
    (runLendOp o d).run c = .ok () (c.hostAsked (.desc o) o.port (.lend o d) d.a 64) := by
  simp [runLendOp, ht, hd, readFor_host]

theorem runLendOp_fabric (ht : c.twoTenant = true) (hd : d.aHost = false)
    (hread : c.Reads { actor := .desc o, tenant := c.originTenant o, key := d.ka, keyed := false } [(d.a, 64)] data) :
    (runLendOp o d).run c = (lendArrived o d.irq data).run c := by
  simp [runLendOp, ht, hd, readFor_fabric _ hread]

end

/-- Settles O31: a descriptor that starts does its work on the state in which it has begun; the work is `runOp`'s or `runLendOp`'s. -/
theorem runStartsItsHearths : Obligations.RunStartsItsHearths := by
  unfold Obligations.RunStartsItsHearths
  refine ⟨?_, ?_⟩
  · intro s o d hs hstart hne b ok hok bad
    obtain ⟨-, -, -, hhearths, -⟩ := id hstart
    have htargets : b.targets (b.originTenant o) d.path = some hs :=
      Core.targets_of_descHearths (c := s.core) (d := { d with lend := false }) hhearths hne
    exact ⟨fun hbad => hstart.becomes (runOp_starts (d := { d with lend := false }) htargets hok hbad),
      fun hbad => hstart.becomes (runOp_refuses (d := { d with lend := false }) htargets hok hbad)⟩
  · intro s o d data hstart b n tenant ring die post posts
    refine ⟨fun ht => hstart.becomes (runLendOp_oneTenant b o _ ht), fun ht hd => hstart.becomes (runLendOp_host b o _ ht hd), fun ht hd hread => ?_⟩
    have hrun := runLendOp_fabric b o { d with lend := true } ht hd hread
    exact ⟨fun hb => hstart.becomes (hrun.trans (lendArrived_refused b o _ hb)),
      fun hb hl => hstart.becomes (hrun.trans (lendArrived_absent b o _ hb hl)),
      fun hb hl => hstart.becomes (hrun.trans (lendArrived_posts b o _ hb hl))⟩

end Sys2Proof.Machine
end

section
/-!
PROOFS. Register writes: what a judged value is, which offsets hold a stored register, and what an access over a port comes to (R491 to R497, R502, Tables 18-2
and 18-3).
-/

namespace Sys2Proof.Machine

/-! Bits. -/

theorem bit_eq_testBit (n i : Nat) : bit n i = n.testBit i := by
  rw [bit, Nat.testBit_eq_decide_div_mod_eq, Nat.shiftRight_eq_div_pow]
  rfl

theorem bitMap_succ (base n : Nat) (f : Nat → Bool) :
    bitMap base (n + 1) f = if f (base + n) then bitMap base n f + 1 <<< n else bitMap base n f := by
  simp [bitMap, List.range_succ]

theorem bitMap_lt (base n : Nat) (f : Nat → Bool) : bitMap base n f < 2 ^ n := by
  induction n with
  | zero => simp [bitMap]
  | succ n ih =>
    rw [bitMap_succ, Nat.one_shiftLeft, Nat.pow_succ]
    split <;> omega

theorem bit_bitMap (base n : Nat) (f : Nat → Bool) {k : Nat} (hk : k < n) : bit (bitMap base n f) k = f (base + k) := by
  induction n with
  | zero => omega
  | succ n ih =>
    have hlt := bitMap_lt base n f
    simp only [bit_eq_testBit] at ih ⊢
    rw [bitMap_succ, Nat.one_shiftLeft]
    rcases Nat.lt_succ_iff_lt_or_eq.mp hk with hk | rfl
    · split
      · rw [Nat.add_comm, Nat.testBit_two_pow_add_gt hk, ih hk]
      · exact ih hk
    · split
      · next h => rw [Nat.add_comm, Nat.testBit_two_pow_add_eq, Nat.testBit_lt_two_pow hlt, h]; rfl
      · next h => rw [Nat.testBit_lt_two_pow hlt, Bool.eq_false_iff.mpr h]

/-- A write under a mask takes the new bits inside the mask and keeps the old ones outside it. -/
theorem bit_maskedWrite (old new : Nat) {mask k : Nat} (hm : mask < 2 ^ 64) (hk : k < 64) :
    bit (maskedWrite old new mask) k = if bit mask k then bit new k else bit old k := by
  have hout : (2 ^ 64 - 1 - mask).testBit k = !mask.testBit k := by
    rw [Nat.sub_sub, Nat.add_comm 1, Nat.testBit_two_pow_sub_succ hm, decide_eq_true hk, Bool.true_and]
  have hbit : (maskedWrite old new mask).testBit k = ((new.testBit k && mask.testBit k) || (old.testBit k && (2 ^ 64 - 1 - mask).testBit k)) := by
    simp only [maskedWrite, ← Nat.testBit_and, ← Nat.testBit_or]
    rfl
  simp only [bit_eq_testBit, hbit, hout]
  cases mask.testBit k <;> simp

/-- Whether a logical Hearth is there and belongs to a tenant. -/
def Core.ownsLogical (c : Core) (tenant l : Nat) : Bool := match c.physOf l with | some h => c.hearthTenant h == tenant | none => false

theorem Core.ownsLogical_iff (c : Core) (tenant l : Nat) : c.ownsLogical tenant l = true ↔ ∃ h, c.physOf l = some h ∧ c.hearthTenant h = tenant := by
  unfold Core.ownsLogical
  cases c.physOf l <;> simp

theorem Core.lendMask_eq (c : Core) (via base : Nat) : c.lendMask via base = bitMap base 64 (c.ownsLogical via) := rfl

/-- Of a register that holds both tenants' bits a port changes its own (Table 18-3). -/
theorem Core.bit_lendWrite (c : Core) (via base old new : Nat) {k : Nat} (hk : k < 64) :
    bit (maskedWrite old new (c.lendMask via base)) k = if c.ownsLogical via (base + k) then bit new k else bit old k := by
  rw [Core.lendMask_eq, bit_maskedWrite old new (bitMap_lt base 64 _) hk, bit_bitMap base 64 _ hk]

/-! Fields (R495). -/

section
variable (f : RegField) (v : Nat)

theorem RegField.judge_low (hx : (v >>> f.lo) % 2 ^ f.w < f.min) (hm : f.min % f.mult = 0) : f.judge v >>> f.lo = f.min := by
  simp [RegField.judge, hx, hm, Nat.shiftLeft_shiftRight]

theorem RegField.judge_high (hx : f.max < (v >>> f.lo) % 2 ^ f.w) (hle : f.min ≤ f.max) : f.judge v >>> f.lo = f.max - f.max % f.mult := by
  simp [RegField.judge, hx, Nat.not_lt.mpr (Nat.le_trans hle (Nat.le_of_lt hx)), Nat.shiftLeft_shiftRight]

theorem RegField.judge_inside (hlo : f.min ≤ (v >>> f.lo) % 2 ^ f.w) (hhi : (v >>> f.lo) % 2 ^ f.w ≤ f.max) :
    f.judge v >>> f.lo = (v >>> f.lo) % 2 ^ f.w - (v >>> f.lo) % 2 ^ f.w % f.mult := by
  simp [RegField.judge, Nat.not_lt.mpr hlo, Nat.not_lt.mpr hhi, Nat.shiftLeft_shiftRight]

end

theorem RegSpec.judge_eq_sum (r : RegSpec) (v : Nat) : r.judge v = (r.fields.map (fun f => f.judge v)).foldl (· + ·) 0 := by
  rw [List.foldl_map]
  rfl

/-! Stored registers. -/

theorem Core.reg_setReg (c : Core) (off z k : Nat) : (c.setReg off z).reg k = if k = off then z else c.reg k := by
  simp only [Core.reg, Core.setReg, kvGet_kvPut]
  split <;> rfl

/-! Registers that act are none of the stored ones (R491). -/

/-- The registers that act, ring enables aside. -/
def actingRegs : List Nat :=
  [rDeviceId, rJobCtrl, rFaultClear, rSvnCommit, rPoolSetEnable, rPortRetrain, rFabTeardown, rHeartbeat 0, rHeartbeat 1]

theorem regSpec_acting : ∀ off ∈ actingRegs, regSpec off = none := by decide

/-- PCI_ registers by their offset in the block. -/
theorem regSpec_pci {o : Nat} (h : o < 0x100000) : regSpec (pciB + o) = pciSpec o := by
  have hb : (pciB + o) / 0x100000 = 11 := by unfold pciB; omega
  have ho : (pciB + o) % 0x100000 = o := by unfold pciB; omega
  simp [regSpec, hb, ho]

/-- A PCI_ register by its place in a ring's block: the four settings, and nothing else. -/
theorem pciSpec_ring {o : Nat} (h1 : 0x10000 ≤ o) (h2 : o < 0x30000) (h3 : 0x1000 ≤ o % 0x10000) (h4 : o % 0x10000 < 0x2000) :
    (pciSpec o).map (·.eff) = if (o % 0x10000 - 0x1000) % 0x40 ∈ [0x00, 0x08, 0x10, 0x18] then some .idle else none := by
  have h0 : o ≠ 0 := by omega
  simp only [pciSpec, h0, h1, h2, h3, h4, if_false, decide_true, Bool.and_self, if_true]
  split <;> simp_all [reg1]

theorem regSpec_ringEnable {off : Nat} {k : Nat × Nat} (h : ringEnableOf off = some k) : regSpec off = none := by
  simp only [ringEnableOf] at h
  split at h
  · next hc =>
    simp only [Bool.and_eq_true, decide_eq_true_eq, beq_iff_eq] at hc
    obtain ⟨⟨⟨⟨⟨hb, h1⟩, h2⟩, h3⟩, h4⟩, h5⟩ := hc
    have hspec := pciSpec_ring h1 h2 h3 h4
    rw [show ((off - pciB) % 0x10000 - 0x1000) % 0x40 = 0x20 by omega] at hspec
    rw [← Nat.add_sub_cancel' hb, regSpec_pci (by omega)]
    simpa using hspec
  · cases h

theorem State.actReg_stored (s : State) (via v : Nat) {off : Nat} {r : RegSpec} (h : regSpec off = some r) : s.actReg via off v = none := by
  have hne : ∀ x ∈ actingRegs, off ≠ x := by
    rintro x hx rfl
    simp [regSpec_acting off hx] at h
  have hring : ringEnableOf off = none := by
    cases he : ringEnableOf off with
    | none => rfl
    | some k => simp [regSpec_ringEnable he] at h
  simp only [actingRegs, List.forall_mem_cons] at hne
  simp [State.actReg, hne, hring]

theorem rRing_eq (q r k : Nat) : rRing q r k = pciB + (0x10000 * (q + 1) + (0x1000 + (0x40 * r + 8 * k))) := by
  unfold rRing pciQ
  omega

/-- The ring settings (Table 18-10). -/
theorem regSpec_ring {q r k : Nat} (hq : q < 2) (hr : r < 64) (hk : k < 4) : (regSpec (rRing q r k)).map (·.eff) = some .idle := by
  rw [rRing_eq, regSpec_pci (by omega), pciSpec_ring (by omega) (by omega) (by omega) (by omega), if_pos]
  rw [show ((0x10000 * (q + 1) + (0x1000 + (0x40 * r + 8 * k))) % 0x10000 - 0x1000) % 0x40 = 8 * k by omega]
  simp only [List.mem_cons, List.not_mem_nil, or_false]
  omega

theorem ringOfSetting_ring {q r k : Nat} (hr : r < 64) (hk : k < 4) : ringOfSetting (rRing q r k) = (q, r) := by
  rw [rRing_eq]
  simp only [ringOfSetting, Nat.add_sub_cancel_left, Prod.mk.injEq]
  omega

theorem rRgnLo_of_inArray {off : Nat} (h : inArray off (rRgnLo 0) 16 256 = true) : ∃ n, n < 256 ∧ off = rRgnLo n := by
  simp only [inArray, Bool.and_eq_true, decide_eq_true_eq, beq_iff_eq] at h
  refine ⟨(off - rRgnLo 0) / 16, ?_, ?_⟩ <;> unfold rRgnLo at h ⊢ <;> omega

/-- The region registers that hold a tenant's bit (Table 18-3). -/
theorem regSpec_region {n : Nat} (hn : n < 256) : (regSpec (rRgnLo n)).map (·.eff) = some .now := by
  have hb : rRgnLo n / 0x100000 = 1 := by unfold rRgnLo hubB; omega
  have ho : rRgnLo n % 0x100000 = 0x8000 + 16 * n := by unfold rRgnLo hubB; omega
  have hin : inArray (0x8000 + 16 * n) 0x8000 16 256 = true := by simp [inArray]; omega
  have hout : inArray (0x8000 + 16 * n) 0x1000 8 256 = false := by simp [inArray]; omega
  have hne : ∀ x ∈ [0x00, 0x08, 0x10, 0x18, 0x20, 0x30, 0x38, 0x40, 0x48], 0x8000 + 16 * n ≠ x := by simp; omega
  simp only [List.forall_mem_cons] at hne
  simp [regSpec, hb, ho, hubSpec, hin, hout, hne]

/-! A stored register given a value, register by register (R496, Tables 18-2 and 18-3). -/

section
variable (s : State) (via : Nat) {off : Nat} (spec : RegSpec) (y : Nat)

theorem State.storeReg_ring {q r k : Nat} (hr : r < 64) (hk : k < 4) (hs : spec.eff = .idle) :
    s.storeReg via (rRing q r k) spec y = { s with core :=
      if (s.core.ring q r).enabled = false ∧ (s.core.ring q r).started = [] then s.core.setReg (rRing q r k) y else s.core.bump (kPci q 0) } := by
  have h1 : rRing q r k ≠ rPortEnable := by rw [rRing_eq]; unfold pciB rPortEnable farB; omega
  have h2 : rRing q r k ≠ rWatchMs := by rw [rRing_eq]; unfold rWatchMs; omega
  by_cases hfree : (s.core.ring q r).enabled = false ∧ (s.core.ring q r).started = [] <;>
    simp [State.storeReg, ringOfSetting_ring hr hk, h1, h2, hs, hfree]

/-- A register with no effect of its own but its value. -/
theorem State.storeReg_plain (h1 : off ≠ rPortEnable) (h2 : off ≠ rWatchMs) (h3 : spec.eff ≠ .idle)
    (h4 : s.core.twoTenant = false ∨ (off ≠ rLendEnable0 ∧ off ≠ rLendEnable1 ∧ ∀ n, n < 256 → off ≠ rRgnLo n)) :
    s.storeReg via off spec y = { s with core := s.core.setReg off y } := by
  rcases h4 with ht | ⟨hl0, hl1, hregion⟩
  · simp [State.storeReg, h1, h2, h3, ht]
  · have hin : inArray off (rRgnLo 0) 16 256 = false := by
      refine Bool.eq_false_iff.mpr fun hin => ?_
      obtain ⟨n, hn, rfl⟩ := rRgnLo_of_inArray hin
      exact hregion n hn rfl
    simp [State.storeReg, h1, h2, h3, hl0, hl1, hin]

theorem State.storeReg_lend (h3 : spec.eff ≠ .idle) (ht : s.core.twoTenant = true) (hl : off = rLendEnable0 ∨ off = rLendEnable1) :
    s.storeReg via off spec y =
      { s with core := s.core.setReg off (maskedWrite (s.core.reg off) y (s.core.lendMask via (if off = rLendEnable0 then 0 else 64))) } := by
  have h1 : off ≠ rPortEnable := by rcases hl with rfl | rfl <;> decide
  have h2 : off ≠ rWatchMs := by rcases hl with rfl | rfl <;> decide
  simp [State.storeReg, h1, h2, h3, ht, hl]

theorem State.storeReg_region {n : Nat} (hn : n < 256) (h3 : spec.eff ≠ .idle) (ht : s.core.twoTenant = true) :
    s.storeReg via (rRgnLo n) spec y = { s with core := if (bit y 6 = true ↔ 128 ≤ n) then s.core.setReg (rRgnLo n) y else s.core } := by
  have h1 : rRgnLo n ≠ rPortEnable := by unfold rRgnLo hubB rPortEnable farB; omega
  have h2 : rRgnLo n ≠ rWatchMs := by unfold rRgnLo hubB rWatchMs pciB; omega
  have h0 : rRgnLo n ≠ rLendEnable0 ∧ rRgnLo n ≠ rLendEnable1 := by unfold rRgnLo rLendEnable0 rLendEnable1 hubB; omega
  have hin : inArray (rRgnLo n) (rRgnLo 0) 16 256 = true := by simp [inArray, rRgnLo]; omega
  have hn' : (rRgnLo n - rRgnLo 0) / 16 = n := by unfold rRgnLo; omega
  have hmine : (bit y 6 = decide (128 ≤ n)) = (bit y 6 = true ↔ 128 ≤ n) := by rw [Bool.eq_iff_iff, decide_eq_true_iff]
  by_cases hb : (bit y 6 = true ↔ 128 ≤ n) <;> simp [State.storeReg, h1, h2, h0, h3, ht, hin, hn', hmine, hb]

end

/-! A register write (R493, R497). -/

/-- What an access of 8 or 4 bytes makes of a register's old value (R493): the whole of it, or one half. -/
def Merges (at_ size v off old m : Nat) : Prop :=
  size = 8 ∧ at_ = off ∧ m = v % 2 ^ 64 ∨ size = 4 ∧ at_ = off ∧ m = (old >>> 32) <<< 32 + v % 2 ^ 32 ∨
    size = 4 ∧ at_ = off + 4 ∧ m = old % 2 ^ 32 + (v % 2 ^ 32) <<< 32

/-- A register of the set-up file given a judged value: a power setting, or a stored register. -/
def State.putSetting (s : State) (via off : Nat) (spec : RegSpec) (y : Nat) : State :=
  if (s.power.setting off).isSome then { s with power := s.power.set off y } else s.storeReg via off spec y

theorem mergeWrite_whole (high : Bool) (old v : Nat) : mergeWrite 8 high old v = v % 2 ^ 64 := rfl
theorem mergeWrite_low (old v : Nat) : mergeWrite 4 false old v = (old >>> 32) <<< 32 + v % 2 ^ 32 := rfl
theorem mergeWrite_high (old v : Nat) : mergeWrite 4 true old v = old % 2 ^ 32 + (v % 2 ^ 32) <<< 32 := rfl

theorem Merges.eq_mergeWrite {at_ size v off old m : Nat} (ha : off % 8 = 0) (hm : Merges at_ size v off old m) :
    mergeWrite size (size == 4 && at_ % 8 == 4) old v = m := by
  rcases hm with ⟨rfl, -, hm⟩ | ⟨rfl, rfl, hm⟩ | ⟨rfl, rfl, hm⟩
  · rw [hm, mergeWrite_whole]
  · have : (4 == 4 && at_ % 8 == 4) = false := by simp [ha]
    rw [hm, this, mergeWrite_low]
  · have : (4 == 4 && (off + 4) % 8 == 4) = true := by simp [Nat.add_mod, ha]
    rw [hm, this, mergeWrite_high]

section
variable {s : State} {via off : Nat} (ht : (s.core.port via).trained = true)
include ht

theorem State.regWrite_unfit {size : Nat} (v : Nat) (h8 : ¬ (size = 8 ∧ off % 8 = 0)) (h4 : ¬ (size = 4 ∧ off % 4 = 0)) :
    s.regWrite via off size v = { s with core := s.core.bump (kPci via 2) } := by
  have hfits : ((size == 8 && off % 8 == 0) || (size == 4 && off % 4 == 0)) = false := by
    rw [Bool.eq_false_iff]
    simpa [not_or] using ⟨not_and.mp h8, not_and.mp h4⟩
  simp only [State.regWrite, ht, hfits]
  rfl

theorem State.written_of_trained (exempt : Bool) (f : State → State) :
    s.written via off exempt f = if s.core.mayWrite via off exempt then f s else { s with core := s.core.bump (kPci via 2) } := by
  simp [State.written, ht, Core.refuseWrite]

/-- An offset that no table lists as stored, and at which no register acts. -/
theorem State.regWrite_unlisted (v : Nat) (ha : off % 8 = 0) (hs : regSpec off = none) (hact : s.actReg via off (v % 2 ^ 64) = none) :
    s.regWrite via off 8 v = if readOnly off && s.core.presentAt off then s.written via off false id else s := by
  have hoff : off / 8 * 8 = off := Nat.div_mul_cancel (Nat.dvd_of_mod_eq_zero ha)
  simp only [State.regWrite, ht, ha, hoff, mergeWrite_whole, hact, hs]
  rfl

theorem State.regWrite_stored {spec : RegSpec} {at_ size v m : Nat} (ha : off % 8 = 0) (hs : regSpec off = some spec)
    (hm : Merges at_ size v off ((s.power.setting off).getD (s.core.reg off)) m) :
    s.regWrite via at_ size v = s.written via off false (fun s => s.putSetting via off spec (spec.judge m)) := by
  have hfits : ((size == 8 && at_ % 8 == 0) || (size == 4 && at_ % 4 == 0)) = true := by
    rcases hm with ⟨rfl, rfl, -⟩ | ⟨rfl, rfl, -⟩ | ⟨rfl, rfl, -⟩ <;> simp <;> omega
  have hoff : at_ / 8 * 8 = off := by
    rcases hm with ⟨-, rfl, -⟩ | ⟨-, rfl, -⟩ | ⟨-, rfl, -⟩ <;> omega
  have hmerge := hm.eq_mergeWrite ha
  simp only [State.regWrite, ht, hfits, hoff, State.actReg_stored _ _ _ hs, hs, State.written_of_trained ht, State.putSetting, Bool.not_true,
    Bool.false_eq_true, if_false]
  cases hp : s.power.setting off with
  | none =>
    rw [hp, Option.getD_none] at hmerge
    simp [hmerge]
  | some old =>
    rw [hp, Option.getD_some] at hmerge
    simp [hmerge]

end

/-! Settings that act beside being stored. -/

/-- The power settings are registers of the MGT_ block. -/
theorem Power.setting_outside (p : Power) {off : Nat} (h : hubB ≤ off) : p.setting off = none := by
  have hne : off ≠ rPowerCap ∧ off ≠ rPowerMode ∧ off ≠ rCoreSet := by
    unfold hubB at h
    unfold rPowerCap rPowerMode rCoreSet mgtB
    omega
  simp [Power.setting, hne]

theorem State.putSetting_stored {s : State} {off : Nat} (via : Nat) (spec : RegSpec) (y : Nat) (h : s.power.setting off = none) :
    s.putSetting via off spec y = s.storeReg via off spec y := by
  simp [State.putSetting, h]

@[simp] theorem State.settle_links (s : State) : s.settle.links = s.links := by
  simp only [State.settle]
  split <;> rfl

/-- A port that is not UP goes to OFF unless it is enabled (R502). -/
def Link.offUnless (l : Link) (enabled : Bool) : Link := if l.up = false ∧ enabled = false then { l with position := posOff } else l

theorem State.link_portEnable (s : State) (y p : Nat) : (s.portEnable y).link p = (s.link p).offUnless (bit y p) := by
  have hget := kvGet_mapKey (fun p (l : Link) => if !l.up && !bit y p then { l with position := posOff } else l) s.links p
  simp only [State.portEnable, State.link, State.settle_links, hget]
  cases kvGet s.links p with
  | none => cases bit y p <;> rfl
  | some l => simp [Link.offUnless]

theorem State.storeReg_portEnable (s : State) (via : Nat) (spec : RegSpec) (y : Nat) : s.storeReg via rPortEnable spec y = s.portEnable y := by
  simp [State.storeReg]

theorem State.portEnable_eq (s : State) (y : Nat) :
    s.portEnable y = ({ s with core := s.core.setReg rPortEnable y, links := (s.portEnable y).links } : State).settle := by
  rw [State.portEnable, State.settle_links]

theorem State.storeReg_watch (s : State) (via : Nat) (spec : RegSpec) (y : Nat) : s.storeReg via rWatchMs spec y =
    { s with core := ((s.core.modPort 0 (fun p => { p with sinceBeat := 0 })).modPort 1 (fun p => { p with sinceBeat := 0 })).setReg rWatchMs y } := rfl

/-! A register write over a port whose link is active. -/

/-- The register write has come in over a port (R365). -/
def State.wrote (s : State) (via : Nat) : State := { s with core := s.core.modPort via (fun p => p.heard 1) }

@[simp] theorem State.wrote_power (s : State) (via : Nat) : (s.wrote via).power = s.power := rfl
@[simp] theorem State.wrote_link (s : State) (via p : Nat) : (s.wrote via).link p = s.link p := rfl
@[simp] theorem State.wrote_twoTenant (s : State) (via : Nat) : (s.wrote via).core.twoTenant = s.core.twoTenant := rfl
@[simp] theorem State.wrote_mayWrite (s : State) (via q off : Nat) : (s.wrote via).core.mayWrite q off = s.core.mayWrite q off := rfl
@[simp] theorem State.wrote_presentAt (s : State) (via off : Nat) : (s.wrote via).core.presentAt off = s.core.presentAt off := rfl
@[simp] theorem State.wrote_ring (s : State) (via q r : Nat) : (s.wrote via).core.ring q r = s.core.ring q r :=
  Core.ring_modPort _ _ _ _ (fun p => HostPort.heard_rings p 1)

section
variable {s : State} {via : Nat} (ht : (s.core.port via).trained = true)
include ht

theorem State.wrote_trained : ((s.wrote via).core.port via).trained = true := by
  simp [State.wrote, Core.port_modPort, ht]

theorem exec_registerWrite (off size v : Nat) : exec (.registerWrite via off size v) s = .next ((s.wrote via).regWrite via off size v) := by
  have hheard : s.heard via = s.wrote via := by rw [State.heard, Core.hostIn_trained _ _ ht]; rfl
  rw [← hheard]
  rfl

theorem exec_registerWrite_stored {off at_ size v m : Nat} {spec : RegSpec} (ha : off % 8 = 0) (hs : regSpec off = some spec)
    (hw : s.core.mayWrite via off = true) (hm : Merges at_ size v off ((s.power.setting off).getD (s.core.reg off)) m) :
    exec (.registerWrite via at_ size v) s = .next ((s.wrote via).putSetting via off spec (spec.judge m)) := by
  rw [exec_registerWrite ht, State.regWrite_stored (State.wrote_trained ht) ha hs (s := s.wrote via) hm, State.written_of_trained (State.wrote_trained ht),
    State.wrote_mayWrite, if_pos hw]

end

/-! What the accesses that store nothing come to. -/

section
variable {s : State} {via off : Nat} (ht : (s.core.port via).trained = true)
include ht

theorem registerWrite_unfit {size : Nat} (v : Nat) (h8 : ¬ (size = 8 ∧ off % 8 = 0)) (h4 : ¬ (size = 4 ∧ off % 4 = 0)) :
    s.Becomes (exec (.registerWrite via off size v) s) ((s.wrote via).core.bump (kPci via 2)) :=
  State.becomes_of_eq ((exec_registerWrite ht off size v).trans (congrArg _ (State.regWrite_unfit (State.wrote_trained ht) v h8 h4)))

theorem registerWrite_foreign {spec : RegSpec} (v : Nat) (ha : off % 8 = 0) (hs : regSpec off = some spec) (hw : s.core.mayWrite via off = false) :
    s.Becomes (exec (.registerWrite via off 8 v) s) ((s.wrote via).core.bump (kPci via 2)) := by
  refine State.becomes_of_eq ?_
  rw [exec_registerWrite ht, State.regWrite_stored (State.wrote_trained ht) ha hs (.inl ⟨rfl, rfl, rfl⟩), State.written_of_trained (State.wrote_trained ht),
    State.wrote_mayWrite, hw]
  rfl

section
variable (v : Nat) (ha : off % 8 = 0) (hs : regSpec off = none) (hact : (s.wrote via).actReg via off (v % 2 ^ 64) = none)
include ha hs hact

theorem registerWrite_unlisted (hr : readOnly off = false) : s.Becomes (exec (.registerWrite via off 8 v) s) (s.wrote via).core := by
  refine State.becomes_of_eq ?_
  rw [exec_registerWrite ht, State.regWrite_unlisted (State.wrote_trained ht) v ha hs hact, hr]
  rfl

theorem registerWrite_readOnly (hr : readOnly off = true) (hp : s.core.presentAt off = true) : s.Becomes (exec (.registerWrite via off 8 v) s)
    (if s.core.mayWrite via off = true then (s.wrote via).core else (s.wrote via).core.bump (kPci via 2)) := by
  refine State.becomes_of_eq ?_
  rw [exec_registerWrite ht, State.regWrite_unlisted (State.wrote_trained ht) v ha hs hact, hr, State.wrote_presentAt, hp,
    State.written_of_trained (State.wrote_trained ht), State.wrote_mayWrite]
  cases s.core.mayWrite via off <;> rfl

end
end

/-! What a judged value comes to, register by register. -/

section
variable {s : State} {via off y : Nat} {spec : RegSpec} {o : Host.Outcome State Fault Refusal} (ho : o = .next ((s.wrote via).putSetting via off spec y))
include ho

theorem putSetting_stored {d : Core} (hp : s.power.setting off = none) (hd : (s.wrote via).storeReg via off spec y = { s with core := d }) : s.Becomes o d :=
  State.becomes_of_eq (ho.trans (congrArg _ ((State.putSetting_stored (s := s.wrote via) via spec y hp).trans hd)))

theorem putSetting_ring {q r k : Nat} (hoff : off = rRing q r k) (hq : q < 2) (hr : r < 64) (hk : k < 4) (hs : regSpec off = some spec) :
    s.Becomes o (if (s.core.ring q r).enabled = false ∧ (s.core.ring q r).started = [] then (s.wrote via).core.setReg off y
      else (s.wrote via).core.bump (kPci q 0)) := by
  subst hoff
  have hidle : spec.eff = .idle := by simpa [hs] using regSpec_ring hq hr hk
  refine putSetting_stored ho (s.power.setting_outside (by rw [rRing_eq]; unfold pciB hubB; omega)) ?_
  rw [State.storeReg_ring _ _ _ _ hr hk hidle, State.wrote_ring]
  rfl

theorem putSetting_lend (hoff : off = rLendEnable0 ∨ off = rLendEnable1) (hs : regSpec off = some spec) (htwo : s.core.twoTenant = true) :
    s.Becomes o ((s.wrote via).core.setReg off (maskedWrite (s.core.reg off) y (s.core.lendMask via (if off = rLendEnable0 then 0 else 64)))) := by
  have hjob : spec.eff = .job := by
    rcases hoff with rfl | rfl <;> exact (congrArg (·.eff) (Option.some.inj hs)).symm
  refine putSetting_stored ho (s.power.setting_outside (by rcases hoff with rfl | rfl <;> decide)) ?_
  exact State.storeReg_lend (s.wrote via) via spec y (by simp [hjob]) htwo hoff

/-- A region of the other tenant is not written (Table 18-3); that this counts no refusal is entry 60's choice. -/
theorem putSetting_region {n : Nat} (hoff : off = rRgnLo n) (hn : n < 256) (hs : regSpec off = some spec) (htwo : s.core.twoTenant = true) :
    s.Becomes o (if (bit y 6 = true ↔ 128 ≤ n) then (s.wrote via).core.setReg off y else (s.wrote via).core) := by
  subst hoff
  have hnow : spec.eff = .now := by simpa [hs] using regSpec_region hn
  refine putSetting_stored ho (s.power.setting_outside (by unfold rRgnLo; omega)) ?_
  exact State.storeReg_region (s.wrote via) via spec y hn (by simp [hnow]) htwo

end

/-- Settles O59: over an active port an access that is aligned, that names a stored register and that R497 allows comes to `State.putSetting` of the judged
value (`exec_registerWrite_stored`), which each register takes in its own way; any other access is refused or changes nothing. -/
theorem registerWritesAreJudged : Obligations.RegisterWritesAreJudged := by
  unfold Obligations.RegisterWritesAreJudged
  refine ⟨?_, ?_, ?_, ?_⟩
  · intro s via off v ht b u
    refine ⟨fun size => registerWrite_unfit ht v, fun spec => registerWrite_foreign ht v, registerWrite_unlisted ht v, registerWrite_readOnly ht v, ?_⟩
    intro spec at_ size m ha hs hw old hm i y stored
    have hi : exec i s = .next ((s.wrote via).putSetting via off spec y) := exec_registerWrite_stored ht ha hs hw hm
    refine ⟨?_, ?_, ?_, ?_, ?_, ?_, ?_, ?_, ?_⟩
    · rintro rfl
      exact hi
    · rintro rfl
      exact hi
    · rintro rfl
      exact hi
    · rintro rfl
      have hstore := (State.putSetting_stored (s := s.wrote via) via spec y rfl).trans (State.storeReg_portEnable _ via spec y)
      exact ⟨_, hi.trans (congrArg _ hstore), State.link_portEnable (s.wrote via) y, State.portEnable_eq (s.wrote via) y⟩
    · rintro rfl
      exact putSetting_stored hi rfl (State.storeReg_watch (s.wrote via) via spec y)
    · intro q r k hoff hq hr hk
      have hring := putSetting_ring hi hoff hq hr hk hs
      exact ⟨fun h => by rwa [if_pos h] at hring, fun h => by rwa [if_neg (by simpa [not_and, Decidable.imp_iff_not_or] using h)] at hring⟩
    · intro htwo hoff
      refine ⟨_, putSetting_lend hi hoff hs htwo, fun k hk => ?_⟩
      intro mine
      rw [s.core.bit_lendWrite via _ _ _ hk]
      exact ⟨fun hm => if_pos ((s.core.ownsLogical_iff via _).mpr hm), fun hm => if_neg (mt (s.core.ownsLogical_iff via _).mp hm)⟩
    · intro n htwo hoff hn
      have hregion := putSetting_region hi hoff hn hs htwo
      exact ⟨fun h => by rwa [if_pos h] at hregion, fun h => by rwa [if_neg h] at hregion⟩
    · intro hp h1 h2 h3 h4
      exact putSetting_stored hi hp (State.storeReg_plain (s.wrote via) via spec y h1 h2 h3 h4)
  · intro c off z
    refine ⟨?_, fun k hk => ?_, fun k => rfl⟩
    · rw [Core.reg_setReg, if_pos rfl]
    · rw [Core.reg_setReg, if_neg hk]
  · intro f v hle hmult hpos x y
    exact ⟨fun h => f.judge_low v h hmult, fun h => f.judge_high v h hle, f.judge_inside v⟩
  · exact fun spec v => spec.judge_eq_sum v

end Sys2Proof.Machine
end

section
/-!
PROOFS. OP_LESSON_LOAD and OP_CARD: the claim on the Hearths of the path, the read of the image or the card, and what they do with it (R23, R134 to R136, R140).
-/

namespace Sys2Proof.Machine

/-! The Hearths of a path. -/

theorem Core.targets_ne_nil (c : Core) (tenant path : Nat) : c.targets tenant path ≠ some [] := by
  intro h
  simp only [Core.targets, Option.ite_none_left_eq_some, Option.some.injEq] at h
  obtain ⟨hne, hl⟩ := h
  exact hne (by rw [hl]; rfl)

/-- A load, a card or an own run that names no Hearth has a path that names no present unit (R23). -/
theorem Core.targets_of_descHearths_nil {c : Core} {o : Origin} {op : Nat} {d : Desc} (hop : op = 1 ∨ op = 2 ∨ op = 3) (hlend : d.lend = false)
    (h : c.descHearths o.port { slot := o.slot, opcode := op, d := d } = []) : c.targets (c.originTenant o) d.path = none := by
  have hget : (c.targets (c.originTenant o) d.path).getD [] = [] := by
    simpa [Core.descHearths, Core.originTenant, hop, hlend, or_assoc] using h
  cases ht : c.targets (c.originTenant o) d.path with
  | none => rfl
  | some hs =>
    obtain rfl : hs = [] := by simpa [ht] using hget
    exact absurd ht (c.targets_ne_nil _ _)

/-- Only a run lends (R430). -/
theorem Core.lend_of_not_descRefused {c : Core} {q op : Nat} {d : Desc} (hop : op ≠ 3) (h : c.descRefused q op d = false) : d.lend = false := by
  cases hl : d.lend with
  | false => rfl
  | true => simp [Core.descRefused, hl, hop] at h

/-! A ring's claim on Hearths (R136). -/

/-- A claim changes nothing but Hearths. -/
theorem Core.claim_eq (c : Core) (o : Origin) (hs : List Nat) : c.claim o hs = { c with hearths := (c.claim o hs).hearths } := by
  unfold Core.claim
  induction hs generalizing c with
  | nil => rfl
  | cons h hs ih =>
    rw [List.foldl_cons, ih]
    rfl

@[simp] theorem Core.claim_targets (c : Core) (o : Origin) (hs : List Nat) (tenant path : Nat) : (c.claim o hs).targets tenant path = c.targets tenant path := by
  rw [Core.claim_eq]
  rfl

@[simp] theorem Core.claim_originTenant (c : Core) (o : Origin) (hs : List Nat) (p : Origin) : (c.claim o hs).originTenant p = c.originTenant p := by
  rw [Core.claim_eq]
  rfl

@[simp] theorem Core.modStarted_targets (c : Core) (o : Origin) (f : Started → Started) (tenant path : Nat) :
    (c.modStarted o f).targets tenant path = c.targets tenant path := rfl

@[simp] theorem Core.modStarted_originTenant (c : Core) (o : Origin) (f : Started → Started) (p : Origin) :
    (c.modStarted o f).originTenant p = c.originTenant p := rfl

/-- The state in which a load asks for its image: its Hearths claimed, its length noted for the progress word. -/
def Core.loadClaimed (c : Core) (o : Origin) (d : Desc) (hs : List Nat) : Core := (c.claim o hs).modStarted o (fun t => { t with total := d.l })

/-! What the two descriptors do. -/

section
variable {c : Core} {o : Origin} {d : Desc}

theorem run_absentPath : (absentPath o).run c = .ok () ((c.bump kAbsentUnit).complete o stUnitAbsent 0) := rfl

theorem lessonLoadOp_absent (ht : c.targets (c.originTenant o) d.path = none) :
    (lessonLoadOp o d).run c = .ok () ((c.bump kAbsentUnit).complete o stUnitAbsent 0) := by
  simp only [lessonLoadOp, run_bind, run_get, ht, run_absentPath]

theorem cardOp_absent (ht : c.targets (c.originTenant o) d.path = none) :
    (cardOp o d).run c = .ok () ((c.bump kAbsentUnit).complete o stUnitAbsent 0) := by
  simp only [cardOp, run_bind, run_get, ht, run_absentPath]

variable {hs : List Nat}

/-- No image goes into the reserve of a Hearth that lends (R137). -/
theorem loadOutsideReserve (hfit : hs.any c.lending = true → d.p % 2 ^ 16 + d.l ≤ 0xE000) :
    (hs.any c.lending && decide (0xE000 < d.p % 2 ^ 16 + d.l)) = false := by
  cases hl : hs.any c.lending with
  | false => rfl
  | true => simpa using hfit hl

variable (ht : c.targets (c.originTenant o) d.path = some hs)
include ht

/-- An image in hand is loaded on every Hearth of the path; the validation gives the status (R134, R135). -/
theorem lessonArrived_loads {image : List Byte} {ok : Bool} {e : Core} (hload : (loadImage hs (d.p % 2 ^ 16) image).run c = .ok ok e) :
    (lessonArrived o d image).run c =
      .ok () ((e.modStarted o (fun t => { t with done := d.l })).complete o (if ok then stOk else stFormat) 0) := by
  simp only [lessonArrived, run_bind, run_get, ht, Option.getD_some, hload, run_update]

/-- A card in hand becomes that of every Hearth of the path (R140). -/
theorem cardArrived_sets (card : List Byte) : (cardArrived o d card).run c =
    .ok () ((hs.foldl (fun c h => c.modHearth h (fun x => { x with card0 := card })) c).complete o stOk 0) := by
  simp only [cardArrived, run_update, ht, Option.getD_some]

theorem cardOp_host (hd : d.aHost = true) : (cardOp o d).run c = .ok () ((c.claim o hs).hostAsked (.desc o) o.port (.card o d) d.a 512) := by
  simp only [cardOp, run_bind, run_get, ht, run_set, hd, readFor_host, run_pure]

theorem cardOp_fabric (hd : d.aHost = false) {card : List Byte}
    (hread : (c.claim o hs).Reads { actor := .desc o, tenant := (c.claim o hs).originTenant o, key := d.ka, keyed := false } [(d.a, 512)] card) :
    (cardOp o d).run c = .ok () ((hs.foldl (fun c h => c.modHearth h (fun x => { x with card0 := card })) (c.claim o hs)).complete o stOk 0) := by
  rw [Core.claim_originTenant] at hread
  have harrived := cardArrived_sets (c := c.claim o hs) (o := o) (d := d) (by simpa using ht) card
  simp only [cardOp, run_bind, run_get, ht, run_set, hd, readFor_fabric _ hread, harrived]

variable (hfit : hs.any c.lending = true → d.p % 2 ^ 16 + d.l ≤ 0xE000)
include hfit

theorem lessonLoadOp_host (hd : d.aHost = true) :
    (lessonLoadOp o d).run c = .ok () ((c.loadClaimed o d hs).hostAsked (.desc o) o.port (.lesson o d) d.a d.l) := by
  simp only [lessonLoadOp, run_bind, run_get, ht, loadOutsideReserve hfit, Bool.false_eq_true, if_false, run_set, hd, readFor_host, run_pure, Core.loadClaimed]

theorem lessonLoadOp_fabric (hd : d.aHost = false) {image : List Byte} {ok : Bool} {e : Core}
    (hread : (c.loadClaimed o d hs).Reads { actor := .desc o, tenant := (c.loadClaimed o d hs).originTenant o, key := d.ka } [(d.a, d.l)] image)
    (hload : (loadImage hs (d.p % 2 ^ 16) image).run (c.loadClaimed o d hs) = .ok ok e) :
    (lessonLoadOp o d).run c =
      .ok () ((e.modStarted o (fun t => { t with done := d.l })).complete o (if ok then stOk else stFormat) 0) := by
  have htenant : (c.loadClaimed o d hs).originTenant o = c.originTenant o := by simp [Core.loadClaimed]
  have htargets : (c.loadClaimed o d hs).targets ((c.loadClaimed o d hs).originTenant o) d.path = some hs := by simpa [Core.loadClaimed] using ht
  have harrived := lessonArrived_loads htargets hload
  rw [htenant] at hread
  rw [Core.loadClaimed] at hread harrived
  simp only [lessonLoadOp, run_bind, run_get, ht, loadOutsideReserve hfit, Bool.false_eq_true, if_false, run_set, hd, readFor_fabric _ hread, harrived]

end

/-! Their start. -/

section
variable {s : State} {o : Origin} {op : Nat} {d : Desc} {hs : List Nat}

@[simp] theorem Core.begun_lending (c : Core) (o : Origin) (op : Nat) (d : Desc) (hs : List Nat) : (c.begun o op d hs).lending = c.lending := rfl

/-- The path of a descriptor that has begun reaches the Hearths that it names. -/
theorem State.Starts.targets_some (h : s.Starts o op d hs) (hne : hs ≠ []) :
    (s.core.begun o op d hs).targets ((s.core.begun o op d hs).originTenant o) d.path = some hs := by
  obtain ⟨-, -, -, hhearths, -⟩ := h
  exact Core.targets_of_descHearths (c := s.core) hhearths hne

/-- The path of a load or a card that names no Hearth names no present unit. -/
theorem State.Starts.targets_none (h : s.Starts o op d []) (hop : op = 1 ∨ op = 2) :
    (s.core.begun o op d []).targets ((s.core.begun o op d []).originTenant o) d.path = none := by
  obtain ⟨-, -, hr, hhearths, -⟩ := h
  exact Core.targets_of_descHearths_nil (c := s.core) (by omega) (Core.lend_of_not_descRefused (by omega) hr) hhearths

end

/-- Settles O30: a descriptor that starts does its work on the state in which it has begun, where its path reaches the Hearths that it names; the work is
`lessonLoadOp`'s or `cardOp`'s. -/
theorem lessonAndCardReachTheirHearths : Obligations.LessonAndCardReachTheirHearths := by
  unfold Obligations.LessonAndCardReachTheirHearths
  refine ⟨?_, ?_, ?_⟩
  · intro s o d hs hstart hne hfit b
    have htargets := hstart.targets_some hne
    rw [← Core.begun_lending s.core o 1 d hs] at hfit
    exact ⟨fun hd => hstart.becomes (lessonLoadOp_host htargets hfit hd),
      fun hd image ok c hread hload => hstart.becomes (lessonLoadOp_fabric htargets hfit hd hread hload)⟩
  · intro s o d hs hstart hne b
    have htargets := hstart.targets_some hne
    exact ⟨fun hd => hstart.becomes (cardOp_host htargets hd), fun hd card hread => hstart.becomes (cardOp_fabric htargets hd hread)⟩
  · intro s o d i op hi hstart
    simp only [List.mem_cons, Prod.mk.injEq, List.not_mem_nil, or_false] at hi
    rcases hi with ⟨rfl, rfl⟩ | ⟨rfl, rfl⟩
    · exact hstart.becomes (lessonLoadOp_absent (hstart.targets_none (.inl rfl)))
    · exact hstart.becomes (cardOp_absent (hstart.targets_none (.inr rfl)))

end Sys2Proof.Machine
end

section
/-!
PROOFS. An operation of a unit that issues with its unit free and its ranges clear (R124, R127), and its accesses to the Hearth's own scratch (R105, R137).
-/

namespace Sys2Proof.Machine

@[simp] theorem Core.issued_hearth (c : Core) (h : Nat) : (c.issued h).hearth h = { c.hearth h with seq := (c.hearth h).seq + 1 } :=
  Core.hearth_modHearth_same c h _

/-! How an operation ends that does not complete (R124, R128). -/

section
variable (c : Core) {h slot : Nat} {keep : Core → Core} {body : OpM Unit} {f : FaultReq} {d : Core}

theorem perform_held (hb : body.run c = .error { cls := clsHold, status := stOk } d) : c.perform h slot keep body = keep c := by
  simp [Core.perform, hb]

theorem perform_faulted (hb : body.run c = .error f d) (hhold : f.cls ≠ clsHold) (hbreach : f.cls ≠ clsBreach) :
    c.perform h slot keep body = d.lessonFault h slot f := by
  simp [Core.perform, hb, hhold, hbreach]

end

section
variable {s : State} {h : Nat} {op : SlotOp} {body : OpM Unit} {d : Core} (hs : s.Issues h op)
include hs

/-- An operation that can issue and start runs on the state in which it has issued. -/
theorem State.Issues.issue_eq : s.core.issue h op body =
    (s.core.issued h).perform h (slotOf op) (fun _ => (s.core.issued h).queueOp h ((s.core.hearth h).issued op)) body := by
  obtain ⟨-, hcan, hstarts⟩ := hs
  unfold Core.startsNow at hstarts
  simp only [Core.issue, Core.issueNow, hcan, hstarts, Bool.not_true, Bool.or_true, if_true, Bool.false_eq_true, if_false]
  rfl

theorem State.Issues.becomes_of_issue {e : Core} (he : s.core.issue h op body = e) :
    s.Becomes (.next { s with core := s.core.gated (fun c => c.issue h op body) }) e := by
  refine State.becomes_of_eq ?_
  rw [Core.gated_of_not_halted _ hs.1, he]

theorem State.Issues.becomes_done (hb : body.run (s.core.issued h) = .ok () d) :
    s.Becomes (.next { s with core := s.core.gated (fun c => c.issue h op body) }) d :=
  hs.becomes_of_issue (issue_ok s.core hs.2.1 hs.2.2 hb)

theorem State.Issues.becomes_held (hb : body.run (s.core.issued h) = .error { cls := clsHold, status := stOk } d) :
    s.Becomes (.next { s with core := s.core.gated (fun c => c.issue h op body) })
      ((s.core.issued h).queueOp h ((s.core.hearth h).issued op)) :=
  hs.becomes_of_issue (hs.issue_eq.trans (perform_held _ hb))

theorem State.Issues.becomes_faulted {f : FaultReq} (hb : body.run (s.core.issued h) = .error f d) (hhold : f.cls ≠ clsHold) (hbreach : f.cls ≠ clsBreach) :
    s.Becomes (.next { s with core := s.core.gated (fun c => c.issue h op body) }) (d.lessonFault h (slotOf op) f) :=
  hs.becomes_of_issue (hs.issue_eq.trans (perform_faulted _ hb hhold hbreach))

end

/-! A Hearth's own scratch. -/

theorem Core.Own.issued {c : Core} {h : Nat} (ho : c.Own h) : (c.issued h).Own h := by
  obtain ⟨hlent, hlending⟩ := ho
  exact ⟨by simpa using hlent, hlending⟩

theorem run_checkScratch {c : Core} {h off n : Nat} (ho : c.Own h) (hoff : off < 0x800000) (hend : off + n ≤ 0x800000) :
    (checkScratch h off n).run c = .ok () c := by
  obtain ⟨hlent, hlending⟩ := ho
  have hsize : off < scratchSize ∧ off + n ≤ scratchSize := ⟨hoff, hend⟩
  simp only [checkScratch, require, run_bind, run_get, hlent, hlending, hsize, Option.isSome_none, Bool.false_eq_true, if_false, Bool.not_false, Bool.true_or,
    decide_true, Bool.and_self, if_true, run_pure]

theorem run_readScratch_bytes {c : Core} {h : Nat} (off n : Nat) (he : c.dram.errors = []) : (readScratch h off n).run c = .ok (c.scratchBytes h off n) c :=
  run_readScratch c h off n he

theorem Core.scratchBytes_issued (c : Core) (h off n : Nat) : (c.issued h).scratchBytes h off n = c.scratchBytes h off n := by
  simp [Core.scratchBytes, Core.scratchByte, Core.issued]

/-- A list of operations that each answer a value and leave the state as it is. -/
theorem run_mapM_pure {α β : Type} {c : Core} {f : α → OpM β} {g : α → β} {l : List α} (hl : ∀ a ∈ l, (f a).run c = .ok (g a) c) :
    (l.mapM f).run c = .ok (l.map g) c := by
  induction l with
  | nil => rfl
  | cons a l ih =>
    have ha := hl a (by simp)
    have hr := ih fun b hb => hl b (by simp [hb])
    rw [List.mapM_cons, run_bind_ok _ ha, run_bind_ok _ hr]
    rfl

end Sys2Proof.Machine
end

section
/-!
PROOFS. ALOAD: where its plane comes from, and when it waits (R74 to R77, R101, R118, R124, R183).
-/

namespace Sys2Proof.Machine

theorem run_readTile {c : Core} {h : Nat} (d : TDesc) (kinner : Bool) (kp k0 n0 : Nat) {off : Nat} (ho : c.Own h) (he : c.dram.errors = [])
    (hoff : off < 0x800000) (hend : off + d.tileBytes kinner kp k0 n0 ≤ 0x800000) :
    (readTile h d kinner kp k0 n0 off).run c = .ok (d.tileCols kinner kp k0 n0 (c.scratchBytes h off (d.tileBytes kinner kp k0 n0))) c := by
  rw [readTile, run_bind_ok _ (run_checkScratch ho hoff hend), run_bind_ok _ (run_readScratch_bytes _ _ he)]
  rfl

theorem run_narrowTable {c : Core} {h : Nat} {x : Hearth} {tab : List (Nat × Nat × Nat)} (ho : c.Own h) (he : c.dram.errors = []) (hx : c.hearth h = x)
    (hend : 1024 * x.cardField 396 384 + 64 ≤ 0x800000)
    (htab : (chunks 16 (c.scratchBytes h (1024 * x.cardField 396 384) 64)).mapM (fun e => narrowEntry (leNat e)) = some tab) :
    (narrowTable h).run c = .ok tab c := by
  rw [narrowTable, run_bind_ok _ (run_get c), hx, run_bind_ok _ (run_checkScratch ho (by omega) hend), run_bind_ok _ (run_readScratch_bytes _ _ he), htab]
  rfl

/-- The plane that an ALOAD gives the Hearth, from its rounds. -/
def Hearth.aloadPlane (x : Hearth) (f : AloadF) (rounds : List (List (List (Nat × FV)))) : Plane :=
  { loaded := true, k0 := (x.reg f.k0).toNat, n0 := (x.reg f.n0).toNat,
    width := kPerBeat x.accFormat (x.pairT f.pair).1.fmt (x.pairT f.pair).2.fmt, kinner := f.kinner, narrow := f.narrow, rounds := rounds }

/-- A Hearth's shadow plane filled. -/
def Core.shadowFilled (c : Core) (h : Nat) (p : Plane) : Core := c.modHearth h (fun x => { x with shadow := some p })

/-- The columns of a narrow segment of some rows, from its staged tile: +0 beyond them, and everywhere in one of no rows (R101). -/
def TDesc.segmentCols (d : TDesc) (rows : Nat) (cols : List (List (Nat × Nat))) : List (List (Nat × FV)) :=
  if rows = 0 then List.replicate 128 (numbered (List.replicate 64 .zero))
  else cols.map (fun col => numbered (col.mapIdx (fun i v => if i < rows then d.value v else .zero)))

/-- What every ALOAD of Hearth `x` finds: its own tenant's scratch, at an offset inside it, and the tile's place. -/
structure Core.AloadRuns (c : Core) (h : Nat) (f : AloadF) (x : Hearth) (off k0 n0 : Nat) : Prop where
  own : c.Own h
  errors : c.dram.errors = []
  hearth : c.hearth h = x
  offset : x.scratchOff f.scratch f.idx 14 = off
  inside : off < 0x800000
  kPlace : (x.reg f.k0).toNat = k0
  nPlace : (x.reg f.n0).toNat = n0

section
variable {c : Core} {h : Nat} {f : AloadF} {x : Hearth} {off k0 n0 : Nat} (hl : c.AloadRuns h f x off k0 n0)
include hl

theorem Core.AloadRuns.run_checkScratch : (checkScratch h off 0).run c = .ok () c :=
  Machine.run_checkScratch hl.own hl.inside (Nat.le_of_lt hl.inside)

theorem aloadOp_probe (hskip : x.skipMode ≠ 0) (hpair : f.pair = 1) :
    (aloadOp h f).run c = if x.skipMode = 3 then .error { cls := 0, status := stFormat } c else (loadProbe h f off k0 n0).run c := by
  have hprobe : (x.skipMode != 0 && f.pair == 1) = true := by rw [bne_iff_ne.mpr hskip, beq_iff_eq.mpr hpair]; rfl
  simp only [aloadOp, run_bind, run_get, hl.hearth, hl.offset, hl.kPlace, hl.nPlace, hl.run_checkScratch, hprobe, if_true, run_ite, run_failWith, beq_iff_eq]

theorem aloadOp_full (hmain : x.skipMode ≠ 0 → f.pair ≠ 1) (hfull : x.shadow.isSome = true) :
    (aloadOp h f).run c = .error { cls := clsHold, status := stOk } c := by
  have hbranch : (x.skipMode != 0 && f.pair == 1) = false := by simpa using hmain
  simp only [aloadOp, run_bind, run_get, hl.hearth, hl.offset, hl.run_checkScratch, hbranch, hfull, Bool.false_eq_true, if_false, if_true]
  rfl

section
variable {st sm : TDesc} (hpair : x.pairT f.pair = (st, sm)) (hempty : x.shadow = none) (hallowed : pairAllowed st.fmt sm.fmt x.accFormat = true)
include hpair hempty hallowed

theorem aloadOp_tile (hrun : x.skipMode = 0) (hwide : f.narrow = false) (hdense : (f.pair == 0 && (x.pattern != 0 || x.observe) && st.compress) = false)
    {cols : List (List (Nat × Nat))} {d : Core}
    (htile : (readTile h st f.kinner (kPerBeat x.accFormat st.fmt sm.fmt) k0 n0 off).run c = .ok cols d) :
    (aloadOp h f).run c = .ok () (d.shadowFilled h (x.aloadPlane f [cols.mapIdx (fun j col => numbered (st.colVals f.kinner k0 (n0 + j) col))])) := by
  simp only [aloadOp, run_bind, run_get, hl.hearth, hl.offset, hl.kPlace, hl.nPlace, hl.run_checkScratch, hempty, hpair, hallowed, hrun, hwide, hdense, htile,
    Option.isSome_none, bne_self_eq_false, Bool.false_and, Bool.false_eq_true, if_false, if_true, run_pure, run_require, run_update]
  simp only [Core.shadowFilled, Hearth.aloadPlane, hl.kPlace, hl.nPlace, hpair, hwide]

variable (hmain : x.skipMode ≠ 0 → f.pair ≠ 1)
include hmain

theorem aloadOp_skip (hrun : x.skipMode ≠ 0) (hwide : f.narrow = false) (hdense : (f.pair == 0 && (x.pattern != 0 || x.observe) && st.compress) = false)
    {m : LaneMap} {span : List (List (Nat × Nat))} {c1 c2 : Core} (hmap : (laneMap h n0 f.kinner).run c = .ok m c1)
    (hspan : (readSpan h st f.kinner (kPerBeat x.accFormat st.fmt sm.fmt) k0 n0 off m.width).run c1 = .ok span c2) :
    (aloadOp h f).run c = .ok () (c2.shadowFilled h (x.aloadPlane f [((List.range 128).map (fun l => match m.chosen[l]? with
        | some j => st.colVals f.kinner k0 (n0 + j) (span.getD j [])
        | none => List.replicate (kPerBeat x.accFormat st.fmt sm.fmt) FV.zero)).map numbered])) := by
  have hskip : (x.skipMode != 0) = true := bne_iff_ne.mpr hrun
  have hmainPair : (f.pair == 1) = false := beq_eq_false_iff_ne.mpr (hmain hrun)
  simp only [aloadOp, run_bind, run_get, hl.hearth, hl.offset, hl.kPlace, hl.nPlace, hl.run_checkScratch, hempty, hpair, hallowed, hskip, hmainPair, hwide, hdense,
    hmap, hspan, Option.isSome_none, Bool.and_false, Bool.false_eq_true, if_false, if_true, run_pure, run_require, run_update]
  simp only [Core.shadowFilled, Hearth.aloadPlane, hl.kPlace, hl.nPlace, hpair, hwide] <;> rfl

theorem aloadOp_window (hwide : f.narrow = false) (hmasked : (f.pair == 0 && (x.pattern != 0 || x.observe) && st.compress) = true) {p : Plane} {d : Core}
    (hwindow : (loadWindow h st sm f off k0 n0).run c = .ok p d) : (aloadOp h f).run c = .ok () (d.shadowFilled h p) := by
  have hbranch : (x.skipMode != 0 && f.pair == 1) = false := by simpa using hmain
  simp only [aloadOp, run_bind, run_get, hl.hearth, hl.offset, hl.kPlace, hl.nPlace, hl.run_checkScratch, hempty, hpair, hallowed, hbranch, hwide, hmasked, hwindow,
    Option.isSome_none, Bool.false_eq_true, if_false, if_true, run_require, run_update]
  rfl

theorem aloadOp_narrow (hnarrow : f.narrow = true) (hsegments : narrowAllowed st.fmt sm.fmt x.accFormat = true) {tab : List (Nat × Nat × Nat)}
    (htable : (narrowTable h).run c = .ok tab c) {cols : Nat → List (List (Nat × Nat))}
    (htile : ∀ e ∈ tab, e.1 ≠ 0 → (readTile h st f.kinner 64 k0 n0 (off + 1024 * e.2.2)).run c = .ok (cols e.2.2) c) :
    (aloadOp h f).run c = .ok () (c.shadowFilled h (x.aloadPlane f (tab.map (fun e => st.segmentCols e.1 (cols e.2.2))))) := by
  have hbranch : (x.skipMode != 0 && f.pair == 1) = false := by simpa using hmain
  simp only [aloadOp, run_bind, run_get, hl.hearth, hl.offset, hl.kPlace, hl.nPlace, hl.run_checkScratch, hempty, hpair, hallowed, hbranch, hnarrow, hsegments,
    htable, Option.isSome_none, Bool.false_eq_true, if_false, if_true, run_pure, run_require, run_update]
  rw [run_mapM_pure (g := fun e => st.segmentCols e.1 (cols e.2.2))]
  · simp only [Core.shadowFilled, Hearth.aloadPlane, hl.kPlace, hl.nPlace, hpair, hnarrow]
  · intro e he
    by_cases hrows : e.1 = 0
    · simp only [TDesc.segmentCols, hrows, beq_self_eq_true, if_true, run_pure]
    · simp only [TDesc.segmentCols, beq_eq_false_iff_ne.mpr hrows, hrows, Bool.false_eq_true, if_false, run_bind_ok _ (htile e he hrows), run_pure]

end

end

theorem loadProbe_full {c : Core} {h : Nat} (f : AloadF) (off k0 n0 : Nat) (hfull : (c.hearth h).probeNext.isSome = true) :
    (loadProbe h f off k0 n0).run c = .error { cls := clsHold, status := stOk } c := by
  simp only [loadProbe, run_bind, run_get, hfull, if_true, run_throw]

/-- A tensor that is not compressed, or a card with no pattern that does not observe, gives a dense plane (R165). -/
theorem not_windowed {x : Hearth} {f : AloadF} {st : TDesc} (hdense : f.pair = 0 → x.pattern = 0 ∧ x.observe = false ∨ st.compress = false) :
    (f.pair == 0 && (x.pattern != 0 || x.observe) && st.compress) = false := by
  by_cases hpair : f.pair = 0
  · rcases hdense hpair with ⟨hpattern, hobserve⟩ | hcompress
    · simp [hpattern, hobserve]
    · simp [hcompress]
  · simp [hpair]

/-- Settles O22: each form of ALOAD reads its plane from the state in which it has issued; a full plane holds it in the A queue. -/
theorem aloadFillsTheShadowPlane : Obligations.AloadFillsTheShadowPlane := by
  unfold Obligations.AloadFillsTheShadowPlane
  intro s h f hready x off k0 n0 st sm kp tile plane c hoff
  obtain ⟨hissues, hown, herrors⟩ := hready
  have hhearth : c.hearth h = { x with seq := x.seq + 1 } := Core.issued_hearth s.core h
  have hruns : c.AloadRuns h f { x with seq := x.seq + 1 } off k0 n0 := ⟨hown.issued, herrors, hhearth, rfl, hoff, rfl, rfl⟩
  have htile : ∀ w a, a < 0x800000 → a + st.tileBytes f.kinner w k0 n0 ≤ 0x800000 → (readTile h st f.kinner w k0 n0 a).run c = .ok (tile w a) c := by
    intro w a ha hend
    have hread := run_readTile st f.kinner w k0 n0 hruns.own hruns.errors ha hend
    rwa [Core.scratchBytes_issued] at hread
  refine ⟨fun hskip hprobe => ?_, ?_, fun hmain hallowed => ⟨fun hfull => ?_, ?_, ?_, ?_⟩⟩
  · have hrun := aloadOp_probe hruns hskip hprobe
    refine ⟨fun hreplay => ?_, fun hreplay hfull => ?_, fun hreplay d hload => ?_⟩
    · exact hissues.becomes_faulted (hrun.trans (if_pos hreplay)) (by decide) (by decide)
    · exact hissues.becomes_held ((hrun.trans (if_neg hreplay)).trans (loadProbe_full f off k0 n0 (by rw [hhearth]; exact hfull)))
    · exact hissues.becomes_done ((hrun.trans (if_neg hreplay)).trans hload)
  · intro hskip hmain hempty hwide hdense hallowed m c1 span c2 hmap hspan cols
    have hrun := aloadOp_skip hruns rfl hempty hallowed (fun _ => hmain) hskip hwide (not_windowed hdense) hmap hspan
    rw [Hearth.aloadPlane, hwide] at hrun
    exact hissues.becomes_done hrun
  · exact hissues.becomes_held (aloadOp_full hruns hmain hfull)
  · intro hempty hrun hwide hdense hend rounds
    have hrun := aloadOp_tile hruns rfl hempty hallowed hrun hwide (not_windowed hdense) (htile kp off hoff hend)
    rw [Hearth.aloadPlane, hwide] at hrun
    exact hissues.becomes_done hrun
  · intro hempty hwide hpair hmasked hcompress p hload
    have hwindowed : (f.pair == 0 && (x.pattern != 0 || x.observe) && st.compress) = true := by simp [hpair, hcompress, hmasked]
    exact hissues.becomes_done (aloadOp_window hruns rfl hempty hallowed hmain hwide hwindowed hload)
  · intro hempty hnarrow hsegments hend tab htab hinside rounds
    have htable : (narrowTable h).run c = .ok tab c :=
      run_narrowTable hruns.own hruns.errors hhearth hend (by rw [Core.scratchBytes_issued]; exact htab)
    have hrun := aloadOp_narrow hruns rfl hempty hallowed hmain hnarrow hsegments htable (cols := fun a => tile 64 (off + 1024 * a))
      (fun e he hrows => (hinside e he hrows).elim (htile 64 _))
    rw [Hearth.aloadPlane, hnarrow] at hrun
    exact hissues.becomes_done hrun

end Sys2Proof.Machine
end

section
/-!
PROOFS. RUN_END in a state whose count of abandoned groups holds more than 32 bits, which no rule of the obligation excludes.
-/

namespace Sys2Proof.Machine

/-- An OP_RUN of one Hearth, in slot 3 of its ring. -/
def loneRun : Started := { slot := 3, tag := 77, opcode := 3, irq := false, barrier := false, hearths := [0] }

/-- Hearth 0, the run's only member, has reached END 9 with no group open; its counter of abandoned groups (R88) stands at 2^32. -/
def overCounted : State :=
  { core := { hearths := [(0, { running := true, ended := some 9, runOf := some ⟨0, 1, 3⟩ })], ports := [(0, { rings := [(1, { started := [loneRun] })] })],
              counters := [(kHth 0 2, 2 ^ 32)] } }

/-- With no group to abandon RUN_END leaves the counter alone (`Core.bumpBy` by 0), whatever it holds. -/
theorem overCounted_runEnd {t : State} (ht : exec (.runEnd 0) overCounted = .next t) : t.core.counter (kHth 0 2) = 2 ^ 32 := by
  have heval : (match exec (.runEnd 0) overCounted with | .next u => u.core.counter (kHth 0 2) | _ => 0) = 2 ^ 32 := by decide +kernel
  rwa [ht] at heval

/-- Refutes O13: the count of abandoned groups that it states is the 32-bit saturating sum (R498) of the counter and the open groups, also where no group is
open. There the model adds nothing, and the obligation admits a state whose counter already stands at 2^32. -/
theorem not_runEndCompletesTheRun : ¬ Obligations.RunEndCompletesTheRun := by
  unfold Obligations.RunEndCompletesTheRun
  rintro ⟨hends, -, -⟩
  obtain ⟨-, hlast⟩ := hends overCounted 0 9 ⟨0, 1, 3⟩ loneRun (by decide) (by decide) (by decide) (by decide) (by decide) (by decide) (by decide) (by decide)
  obtain ⟨t, ht, -, -, -, -, hcounter, -⟩ := hlast (by decide) (by decide) (by decide) (by decide) (by decide) [9] (by decide)
  rw [overCounted_runEnd ht] at hcounter
  exact absurd hcounter (by decide)

end Sys2Proof.Machine
end

section
/-!
PROOFS. The Temper's stages on a row of a pass that skips no lane (R143).
-/

namespace Sys2Proof.Machine

/-- A map with a function that does not look at the index. -/
theorem mapIdx_noIndex {α β : Type} (f : α → β) (l : List α) : l.mapIdx (fun _ a => f a) = l.map f :=
  List.ext_getElem (by simp) (by simp)

/-- A pass that skips no lane runs its stages, each lane by lane on the values that the one before it left (R143). -/
theorem stageRow_go_noSkip (k : Nat) (v : List Word32) (ops : List (Stage × List Word32)) :
    stageRow.go (fun _ => false) false k v ops = ops.scanl (fun v s => List.zipWith (stageFn s.1.op) v s.2) v := by
  induction ops generalizing k v with
  | nil => rfl
  | cons s rest ih =>
    have hlanes : (v.zip s.2).mapIdx (fun _ ab => stageFn s.1.op ab.1 ab.2) = List.zipWith (stageFn s.1.op) v s.2 :=
      (mapIdx_noIndex (Function.uncurry (stageFn s.1.op)) _).trans List.map_uncurry_zip_eq_zipWith
    simp [stageRow.go, hlanes, ih]

/-- Without a skip the rows that `stageRow` lists are the input row and its running fold through the stages. -/
theorem stageRow_noSkip {p : Pass} (hskip : p.skip = none) (inp : List Word32) (ops : List (Stage × List Word32)) :
    stageRow p inp ops = ops.scanl (fun v s => List.zipWith (stageFn s.1.op) v s.2) inp := by
  have hinput : inp.mapIdx (fun _ a => a) = inp := (mapIdx_noIndex id inp).trans (List.map_id inp)
  simp [stageRow, hskip, hinput, stageRow_go_noSkip]

/-- Settles O26: without a skip the rows of `stageRow` are the scan of the stages over the input row, whose last element is their fold. -/
theorem chainStagesActInOrder : Obligations.ChainStagesActInOrder := by
  unfold Obligations.ChainStagesActInOrder
  intro p inp ops hskip
  rw [stageRow_noSkip hskip, List.getLastD_eq_getLast?, List.getLast?_scanl]
  exact ⟨List.length_scanl, List.head?_scanl, rfl⟩

end Sys2Proof.Machine
end

section
/-!
PROOFS. HASH_SCATTER: its operands, and its rows at a table of this device and at one of another (R175 to R177, R239, R240, R242).
-/

namespace Sys2Proof.Machine

/-! What a Hearth at work for its own tenant may do (R137). -/

theorem run_refuseLent {c : Core} {h : Nat} (hlent : (c.hearth h).lentRun = none) : (refuseLent h).run c = .ok () c := by
  simp only [refuseLent, run_bind, run_get, hlent, Option.isNone_none, run_requireLent, if_true]

theorem Core.who_issued {c : Core} {h : Nat} (d : TDesc) (hown : c.Own h) : (c.issued h).who h d = c.who h d := by
  obtain ⟨hlent, -⟩ := hown
  simp only [Core.who, Core.runTenant, Core.issued_hearth, hlent]
  rfl

/-- A key check looks at the tenant and the key of an access, not at the slot that makes it (R404). -/
theorem checkKey_slot (w : Who) (slot a n : Nat) (kind : Kind) : checkKey { w with slot := slot } a n kind = checkKey w a n kind := rfl

/-- The operands of a scatter by index whose ranges lie in the Hearth's own scratch. -/
theorem run_scatterOperands {c : Core} {h : Nat} {f : TindexF} {x : Hearth} {entryBytes : Nat} {fmts : List Fmt} (hown : c.Own h) (he : c.dram.errors = [])
    (hx : c.hearth h = x) {d : TDesc} {count cols n : Nat} (hd : x.desc f.desc = d) (hcount : (x.reg f.count).toNat = count) (hcols : 32 * (f.cols32 + 1) = cols)
    (hn : count * stagedRowBytes d.fmt true cols = n) (hfmt : d.fmt ∈ fmts)
    (hindex : 1024 * f.index < 0x800000) (hindexEnd : 1024 * f.index + entryBytes * count ≤ 0x800000)
    (hrows : 1024 * f.scratch < 0x800000) (hrowsEnd : 1024 * f.scratch + n ≤ 0x800000) :
    (scatterOperands h f entryBytes fmts).run c = .ok (d, (x.reg f.col0).toNat,
      unpackCodes (8 * entryBytes) count 0 (c.scratchBytes h (1024 * f.index) (entryBytes * count)),
      rowsAsF32 d.fmt count cols (c.scratchBytes h (1024 * f.scratch) n)) c := by
  simp only [scatterOperands, run_bind, run_get, hx, hd, hcount, hcols, hn, run_require, List.contains_iff_mem.mpr hfmt, if_true,
    run_checkScratch hown hindex hindexEnd, run_checkScratch hown hrows hrowsEnd, run_readScratch_bytes _ _ he, run_pure]

/-- Rows out of range noted with no strict card: the counter and the notice of R175, or nothing where there is none. -/
theorem Core.noteRange_eq_rangeNoted (c : Core) (h bad : Nat) : c.noteRange h bad = c.rangeNoted h bad := by
  simp only [Core.noteRange, Core.rangeNoted, beq_iff_eq]

/-- One row of a hash scatter at a table of this device: nothing where it is out of range; otherwise the keys of all its pieces are checked, and it is added
(R175, R240, R403). -/
def hashAddInRange (w : Who) (win t nrows col0 : Nat) (er : Nat × List Word32) : OpM Unit :=
  if nrows ≤ bits er.1 31 0 then pure ()
  else do
    (linePieces col0 er.2).forM (fun p => checkKey w (hashSpot win p % 2 ^ 48) (8 + 4 * p.2.2.length) .write)
    hashAddRow t er.1 col0 er.2

/-- The entries of a hash scatter whose row the table does not have (R175). -/
def rowsBeyond (nrows : Nat) (entries : List Nat) : Nat := (entries.filter (fun e => decide (nrows ≤ bits e 31 0))).length

/-- What every hash scatter finds that nothing refuses before its table is looked at. -/
structure Core.HashScatters (c : Core) (h : Nat) (f : TindexF) (d : TDesc) (t col0 : Nat) (entries : List Nat) (rows : List (List Word32)) : Prop where
  lent : (c.hearth h).lentRun = none
  operands : (scatterOperands h f 8 [.fp32, .bf16]).run c = .ok (d, col0, entries, rows) c
  global : badGlobal d.base = false
  reserved : ∀ e ∈ entries, bits e 63 48 = 0
  columns : col0 + 32 * (f.cols32 + 1) ≤ 32768
  table : hashTable d.base = some t

section
variable {c : Core} {h : Nat} {f : TindexF} {d : TDesc} {t col0 : Nat} {entries : List Nat} {rows : List (List Word32)}
  (hs : c.HashScatters h f d t col0 entries rows)
include hs

theorem Core.HashScatters.entriesOk :
    (entries.all (fun e => bits e 63 48 == 0) && decide (col0 + 32 * (f.cols32 + 1) ≤ 32768)) = true := by
  simpa using ⟨hs.reserved, hs.columns⟩

/-- A table of another device is not looked at here: every row is sent there (R240; entry 25). -/
theorem hashOp_remote (hlocal : c.isLocal d.base = false) : (hashOp h f).run c =
    ((entries.zip rows).forM (fun er => hashSend { c.who h d with slot := 1 } d.base d.key (c.hearth h).strict er.1 col0 er.2)).run c := by
  simp only [hashOp, run_bind, run_refuseLent hs.lent, hs.operands, run_get, checkGlobal, run_require, hs.global, hs.entriesOk, hs.table, hlocal,
    Bool.not_false, if_true, Bool.false_eq_true, if_false]

/-- A table of this device judges all rows first: one out of range ends the operation under a strict card, and is noted and dropped otherwise (R175, R177). -/
theorem hashOp_local {nrows width : Nat} (hlocal : c.isLocal d.base = true) (hset : c.hashSetting t = some (nrows, width))
    (hwidth : col0 + 32 * (f.cols32 + 1) ≤ width) : (hashOp h f).run c =
    if (c.hearth h).strict = true ∧ rowsBeyond nrows entries ≠ 0 then .error { cls := 0, status := stIndexRange } (c.bump (kHth h 8))
    else ((entries.zip rows).forM (hashAddInRange (c.who h d) (d.base - d.base % 0x1000000) t nrows col0)).run (c.rangeNoted h (rowsBeyond nrows entries)) := by
  simp only [hashOp, run_bind, run_refuseLent hs.lent, hs.operands, run_get, checkGlobal, run_require, hs.global, hs.entriesOk, hs.table, hlocal, hset, hwidth,
    Bool.not_false, decide_true, if_true, run_ite, run_set, run_failWith, run_update, Core.noteRange_eq_rangeNoted, checkKey_slot, Bool.and_eq_true, bne_iff_ne]
  rfl

end

/-! TSCATTER at a table's window (R176, R240). -/

theorem perform_congr {c : Core} {h slot : Nat} {keep : Core → Core} {body other : OpM Unit} (hrun : body.run c = other.run c) :
    c.perform h slot keep body = c.perform h slot keep other := by
  simp only [Core.perform, hrun]

theorem tscatterOp_hashTbl {c : Core} {h k off : Nat} {f : TindexF} (hplace : c.place (((c.hearth h).desc f.desc).base % 2 ^ 48) 1 = .ok (.hashTbl k off)) :
    (tscatterOp h f).run c = (hashOp h f).run c := by
  simp only [tscatterOp, run_bind, run_get, hplace]

theorem exec_tscatter_hashTbl {s : State} {h k off : Nat} {f : TindexF} (hissues : s.Issues h (.tscatter f))
    (hplace : s.core.place (((s.core.hearth h).desc f.desc).base % 2 ^ 48) 1 = .ok (.hashTbl k off)) :
    exec (.tscatter h f) s = exec (.hashScatter h f) s := by
  have hthere : (s.core.issued h).place ((((s.core.issued h).hearth h).desc f.desc).base % 2 ^ 48) 1 = .ok (.hashTbl k off) := by
    rw [Core.issued_hearth]
    exact hplace
  have ⟨hhalted, _⟩ := hissues
  have hissue : s.core.issue h (.tscatter f) (tscatterOp h f) = s.core.issue h (.tscatter f) (hashOp h f) := by
    rw [hissues.issue_eq, hissues.issue_eq, perform_congr (tscatterOp_hashTbl hthere)]
  simp only [exec, execTscatter, execHashScatter, Core.gated_of_not_halted _ hhalted, hissue]

end Sys2Proof.Machine
end

section
/-!
PROOFS. MERGE_RECORD: an agent of the page at work, and the two ends of the merge (R239, R244).
-/

namespace Sys2Proof.Machine

section
variable {c : Core} {a : Agent} (hfree : c.agentFree a)
include hfree

theorem run_lentOff : (lentOff (c.agentWho a)).run c = .ok () c := by
  cases a with
  | hearth h =>
    obtain ⟨-, hlent⟩ := hfree
    exact run_refuseLent hlent
  | host o => rfl

theorem runAgent_ok {op : OpM Unit} {d : Core} (hop : op.run c = .ok () d) : c.runAgent a 1 op = d := by
  cases a with
  | hearth h =>
    obtain ⟨htongs, -⟩ := hfree
    exact tongsDo_ok c htongs hop
  | host o => simp only [Core.runAgent, Core.runDesc, hop]

end

/-- The width that a table has in force; none where it is not enabled. -/
def Core.hashWidth (c : Core) (t : Nat) : Nat := match c.hashSetting t with | some (_, w) => w | none => 0

/-- The bytes that the merged rows need, their header included (Table 8-4). -/
def Core.mergeNeed (c : Core) (rows : List (Nat × Nat)) : Nat :=
  64 + (rows.map (fun r => roundUp (16 + 4 * c.hashWidth r.1) 64)).foldl (· + ·) 0

/-- The bytes of one merged row: its own header and its lines, in whole units of 64 (Table 8-4). -/
def mergeRowBytes (width : Nat → Nat) (live : List (Nat × Nat)) (r : Nat × Nat) : OpM (List Byte) := do
  let ls ← (List.range (width r.1 / 128)).mapM (mergeLine live r.1 r.2)
  let b := leBytes 16 (r.1 + place r.2 32 32 + place (width r.1) 32 64) ++ bytesOfWords ls.flatten
  pure (b ++ List.replicate (roundUp b.length 64 - b.length) 0#8)

/-- A merge counted; the tables' settings now written are then in force. -/
def Core.mergeEnded (c : Core) : Core :=
  (List.range 256).foldl (fun c t => { c with latched := kvPut c.latched (rHashTbl t) (c.reg (rHashTbl t)) }) (c.bump kHashMerge)

/-- The rows of a merge written where they fit, with the accumulator and the spill table emptied; their header alone where they do not (R244, Table 8-4). -/
def writeMerged (c : Core) (record : Nat) (live : List (Nat × Nat)) : OpM Unit :=
  let header := sparseHeader (bits record 159 128)
  if bits record 95 64 < c.mergeNeed (mergeRows live) then blockPut (bits record 63 0) (header 0 (c.mergeNeed (mergeRows live)) stQuota)
  else do
    let bodies ← (mergeRows live).mapM (mergeRowBytes c.hashWidth live)
    blockPut (bits record 63 0) (header (mergeRows live).length (c.mergeNeed (mergeRows live)) stOk ++ bodies.flatten)
    live.forM (fun p => blockPut (c.spillTagAt p.2) (List.replicate 16 0#8))
    update (fun c => { c with hash := {}, hub := c.clearedLines })

/-- A merge that nothing refuses, once the resident lines `lines` lie in the spill table, whose live entries are `live` (R242, R244). -/
structure Core.Merges (c : Core) (tenant record : Nat) (lines : List HashLine) (c1 : Core) (live : List (Nat × Nat)) (c2 : Core) : Prop where
  reservedHigh : bits record 511 160 = 0
  reservedLow : bits record 127 112 = 0
  owned : c.tallyOwned tenant (bits record 111 96) = true
  spills : (c.hash.lines.mapM (fun l => do
    let i ← writeSpill l
    pure { l with spill := some i })).run c = .ok lines c1
  finds : liveSpill.run { c1 with hash := { c1.hash with lines := lines } } = .ok live c2

section
variable {c c1 c2 : Core} {tenant record : Nat} {lines : List HashLine} {live : List (Nat × Nat)} (hm : c.Merges tenant record lines c1 live c2)
include hm

theorem Core.Merges.reserved : (bits record 511 160 == 0 && bits record 127 112 == 0) = true := by
  simp [hm.reservedHigh, hm.reservedLow]

/-- Past the spill a merge is `writeMerged`, its count and the signal of its Tally: the model ends each of its two branches with the last two, which
`bind_assoc` moves behind the choice. -/
theorem mergeOp_ends {c3 c4 : Core} (hwrite : (writeMerged c record live).run c2 = .ok () c3)
    (hsignal : (signalFabric (bits record 111 96) 1).run c3.mergeEnded = .ok () c4) : (mergeOp tenant record).run c = .ok () c4 := by
  have hrest : ((writeMerged c record live >>= fun _ => update Core.mergeEnded >>= fun _ => signalFabric (bits record 111 96) 1) : OpM Unit).run c2 = .ok () c4 := by
    rw [run_bind_ok _ hwrite, run_bind_ok _ (run_update c3 _), hsignal]
  have hrequire : (require (bits record 511 160 == 0 && bits record 127 112 == 0) stFormat).run c = .ok () c := by
    rw [run_require, if_pos hm.reserved]
  rw [mergeOp, run_bind_ok _ hrequire, run_bind_ok _ (run_get c), if_pos hm.owned]
  refine (run_bind_ok _ hm.spills).trans ((run_bind_ok _ (run_update c1 _)).trans ((run_bind_ok _ hm.finds).trans ?_))
  rw [← hrest, writeMerged]
  by_cases hfits : bits record 95 64 < c.mergeNeed (mergeRows live)
  · rw [if_pos hfits]
    exact congrArg (EStateM.run · c2) (if_pos hfits)
  · rw [if_neg hfits]
    simp only [bind_assoc]
    exact congrArg (EStateM.run · c2) (if_neg hfits)

end

theorem writeMerged_short {c c2 c3 : Core} {record : Nat} {live : List (Nat × Nat)} (hneed : bits record 95 64 < c.mergeNeed (mergeRows live))
    (hheader : (blockPut (bits record 63 0) (sparseHeader (bits record 159 128) 0 (c.mergeNeed (mergeRows live)) stQuota)).run c2 = .ok () c3) :
    (writeMerged c record live).run c2 = .ok () c3 := by
  rw [writeMerged, if_pos hneed, hheader]

theorem writeMerged_fits {c c2 c3 c4 c5 : Core} {record : Nat} {live : List (Nat × Nat)} (hneed : c.mergeNeed (mergeRows live) ≤ bits record 95 64)
    {bodies : List (List Byte)} (hbodies : ((mergeRows live).mapM (mergeRowBytes c.hashWidth live)).run c2 = .ok bodies c3)
    (hrows : (blockPut (bits record 63 0) (sparseHeader (bits record 159 128) (mergeRows live).length (c.mergeNeed (mergeRows live)) stOk ++ bodies.flatten)).run c3
      = .ok () c4)
    (htags : (live.forM (fun p => blockPut (c.spillTagAt p.2) (List.replicate 16 0#8))).run c4 = .ok () c5) :
    (writeMerged c record live).run c2 = .ok () { c5 with hash := {}, hub := c5.clearedLines } := by
  rw [writeMerged, if_neg (Nat.not_lt.mpr hneed), run_bind_ok _ hbodies, run_bind_ok _ hrows, run_bind_ok _ htags, run_update]

theorem mergeRecord_becomes {s : State} {a : Agent} {record : Nat} {d : Core} (hhalted : s.core.halted = false) (hfree : s.core.agentFree a)
    (hmerge : (mergeOp (s.core.agentWho a).tenant record).run s.core = .ok () d) : s.Becomes (exec (.mergeRecord a record) s) d := by
  refine State.becomes_of_eq ?_
  have hagent : s.core.runAgent a 1 (lentOff (s.core.agentWho a) >>= fun _ => mergeOp (s.core.agentWho a).tenant record) = d :=
    runAgent_ok hfree ((run_bind_ok _ (run_lentOff hfree)).trans hmerge)
  simp only [exec, execMergeRecord, Core.gated_of_not_halted _ hhalted, hagent]

/-- Settles O21: an operation that issues adds its rows here or sends them, as the run of `hashOp` says; a merge ends as `writeMerged` leaves it. -/
theorem hashRowsAreAddedAndMerged : Obligations.HashRowsAreAddedAndMerged := by
  unfold Obligations.HashRowsAreAddedAndMerged
  refine ⟨?_, ?_⟩
  · intro s h f t hready x d count col0 cols n c hfmt hindex hindexEnd hscratch hscratchEnd hglobal htable hcolumns entries rows win hreserved
    obtain ⟨hissues, hown, herrors⟩ := hready
    have ⟨hlent, _⟩ := hown.issued
    have hoperands := run_scatterOperands hown.issued herrors (Core.issued_hearth s.core h) (d := d) rfl rfl (cols := cols) rfl (n := n) rfl
      (fmts := [.fp32, .bf16]) (by simpa using hfmt) hindex hindexEnd hscratch hscratchEnd
    rw [Core.scratchBytes_issued, Core.scratchBytes_issued] at hoperands
    have hruns : c.HashScatters h f d t col0 entries rows := ⟨hlent, hoperands, hglobal, hreserved, hcolumns, htable⟩
    have hwho : c.who h d = s.core.who h d := Core.who_issued d hown
    have hstrict : (c.hearth h).strict = x.strict := by rw [Core.issued_hearth]; rfl
    refine ⟨fun nrows width hlocal hset hwidth => ?_, fun hremote c1 hsends => ?_, fun k off => exec_tscatter_hashTbl hissues⟩
    · have hrun := hashOp_local hruns hlocal hset hwidth
      rw [hwho, hstrict] at hrun
      refine ⟨fun hjudged c1 hadds => ?_, fun hbad hcard => ?_⟩
      · have hgoes : ¬ (x.strict = true ∧ rowsBeyond nrows entries ≠ 0) := fun ⟨hcard, hbad⟩ =>
          hjudged.elim hbad fun hlax => Bool.false_ne_true (hlax.symm.trans hcard)
        exact hissues.becomes_done ((hrun.trans (if_neg hgoes)).trans hadds)
      · exact hissues.becomes_faulted (hrun.trans (if_pos ⟨hcard, hbad⟩)) (by decide) (by decide)
    · have hrun := hashOp_remote hruns hremote
      rw [hwho, hstrict] at hrun
      exact hissues.becomes_done (hrun.trans hsends)
  · intro s a record hhalted hfree base step hhigh hlow howned lines c1 hspills live c2 hfinds rows width need ended
    have hmerges : s.core.Merges (s.core.agentWho a).tenant record lines c1 live c2 := ⟨hhigh, hlow, howned, hspills, hfinds⟩
    refine ⟨fun hshort c3 c4 hheader hsignal => ?_, fun hfits bodies c3 c4 c5 c6 hbodies hrows htags hsignal => ?_⟩
    · exact mergeRecord_becomes hhalted hfree (mergeOp_ends hmerges (writeMerged_short hshort hheader) hsignal)
    · exact mergeRecord_becomes hhalted hfree (mergeOp_ends hmerges (writeMerged_fits hfits hbodies hrows htags) hsignal)

end Sys2Proof.Machine
end

section
/-!
PROOFS. The frame of a Smithy: frame records and close records stored by its Hearths, and contributions handed to the banks (R175 to R177, R229 to R237).
-/

namespace Sys2Proof.Machine

/-! Smithies. -/

@[simp] theorem Core.smithy_modSmithy_same (c : Core) (m : Nat) (f : Smithy → Smithy) : (c.modSmithy m f).smithy m = f (c.smithy m) := by
  simp [Core.smithy_modSmithy]

theorem Core.modSmithy_congr {c : Core} {m : Nat} {f g : Smithy → Smithy} (h : f (c.smithy m) = g (c.smithy m)) : c.modSmithy m f = c.modSmithy m g := by
  simp only [Core.modSmithy, h]

theorem Core.modSmithy_modSmithy (c : Core) (m : Nat) (f g : Smithy → Smithy) : (c.modSmithy m f).modSmithy m g = c.modSmithy m (fun x => g (f x)) := by
  simp only [Core.modSmithy, Core.setSmithy, Core.smithy, kvPut_kvPut, kvGet_kvPut_same, Option.getD_some]

/-! One store by a Hearth's Tongs that stands alone (R124, R137). -/

section
variable {s : State} {h : Nat} {op : OpM Unit} {d : Core} (hhalted : s.core.halted = false) (hfree : s.core.tongsFree h 1 [] = true)
  (hlent : (s.core.hearth h).lentRun = none)
include hhalted hfree hlent

theorem tongsStore_becomes (hop : op.run s.core = .ok () d) :
    s.Becomes (.next { s with core := s.core.gated (fun c => c.tongsDo h 1 [] (refuseLent h >>= fun _ => op)) }) d := by
  refine State.becomes_of_eq ?_
  rw [Core.gated_of_not_halted _ hhalted, tongsDo_ok _ hfree ((run_bind_ok _ (run_refuseLent hlent)).trans hop)]

theorem tongsStore_faulted {st : Nat} (hop : op.run s.core = .error { cls := 0, status := st } d) :
    s.Becomes (.next { s with core := s.core.gated (fun c => c.tongsDo h 1 [] (refuseLent h >>= fun _ => op)) })
      (d.lessonFault h 1 { cls := 0, status := st }) := by
  refine State.becomes_of_eq ?_
  rw [Core.gated_of_not_halted _ hhalted, Core.tongsDo, if_pos hfree,
    perform_faulted _ ((run_bind_ok _ (run_refuseLent hlent)).trans hop) (by decide : (0 : Nat) ≠ clsHold) (by decide : (0 : Nat) ≠ clsBreach)]

end

/-! Frame records (R231). -/

section
variable {c : Core} {h record : Nat}

theorem frameStore_refused (hbad : (frameRecOf record).ok = false) : (frameStore h record).run c = .error { cls := 0, status := stFormat } c := by
  simp only [frameStore, run_bind, run_require, hbad, Bool.false_eq_true, if_false]

variable (hok : (frameRecOf record).ok = true) (herrors : c.dram.errors = [])
include hok herrors

theorem run_frameStore : (frameStore h record).run c = .ok () (c.modSmithy (h / 4) (fun y =>
    if y.frame.isSome then { y with held := y.held ++ [(h, record)] } else { y with frame := some { record := record } })) := by
  have hfresh : ∀ f, (c.modSmithy (h / 4) f).freshSpan (.scatter (h / 4)) 0 0x200000 = c.modSmithy (h / 4) f := fun _ => freshSpan_none _ _ _ _ herrors
  simp only [frameStore, run_bind, run_require, hok, if_true, run_update, hfresh, ite_self]

theorem frameStore_opens (hnone : (c.smithy (h / 4)).frame = none) :
    (frameStore h record).run c = .ok () (c.modSmithy (h / 4) (fun y => { y with frame := some { record := record } })) :=
  (run_frameStore hok herrors).trans (congrArg _ (Core.modSmithy_congr (by simp [hnone])))

theorem frameStore_waits (hopen : (c.smithy (h / 4)).frame.isSome = true) :
    (frameStore h record).run c = .ok () (c.modSmithy (h / 4) (fun y => { y with held := y.held ++ [(h, record)] })) :=
  (run_frameStore hok herrors).trans (congrArg _ (Core.modSmithy_congr (by simp [hopen])))

end

/-! Close records (R236). -/

theorem Smithy.openFrame_of_closes_lt {x : Smithy} {f : CFrame} (hframe : x.frame = some f) (hopen : f.closes < (frameRecOf f.record).parts) :
    x.openFrame = some f := by
  simp [Smithy.openFrame, hframe, hopen]

theorem Smithy.openFrame_of_all_closed {x : Smithy} (hclosed : ∀ f, x.frame = some f → (frameRecOf f.record).parts ≤ f.closes) : x.openFrame = none := by
  cases hframe : x.frame with
  | none => simp [Smithy.openFrame, hframe]
  | some f => simp [Smithy.openFrame, hframe, hclosed f hframe]

section
variable {c : Core} {h : Nat}

theorem closeStore_counts {f : CFrame} (hopen : (c.smithy (h / 4)).openFrame = some f) :
    (closeStore h).run c = .ok () (c.modSmithy (h / 4) (fun y => { y with frame := some { f with closes := f.closes + 1 } })) := by
  simp only [closeStore, run_bind, run_get, hopen, run_set]

theorem closeStore_refused (hnone : (c.smithy (h / 4)).openFrame = none) : (closeStore h).run c = .error { cls := 0, status := stFormat } c := by
  simp only [closeStore, run_bind, run_get, hnone, run_failWith]

end

/-! Operations that go through in every state that holds no error of the symbol code, and bring none in. -/

/-- From a state with no error of the symbol code, an operation answers a state with none. -/
def Unerring (op : OpM Unit) : Prop := ∀ c : Core, c.dram.errors = [] → ∃ d, op.run c = .ok () d ∧ d.dram.errors = []

theorem Unerring.done : Unerring (pure ()) := fun c he => ⟨c, rfl, he⟩

theorem Unerring.update {f : Core → Core} (hf : ∀ c, (f c).dram = c.dram) : Unerring (Machine.update f) := fun c he => ⟨f c, rfl, by rw [hf, he]⟩

theorem Unerring.bind {x y : OpM Unit} (hx : Unerring x) (hy : Unerring y) : Unerring (x >>= fun _ => y) := by
  intro c he
  obtain ⟨d, hrun, hd⟩ := hx c he
  rw [run_bind_ok _ hrun]
  exact hy d hd

theorem Unerring.withState {f : Core → OpM Unit} (hf : ∀ c, Unerring (f c)) : Unerring (get >>= f) := by
  intro c he
  rw [run_bind_ok _ (run_get c)]
  exact hf c c he

theorem Unerring.ite {p : Prop} [Decidable p] {x y : OpM Unit} (hx : Unerring x) (hy : Unerring y) : Unerring (if p then x else y) := by
  split
  · exact hx
  · exact hy

theorem Unerring.forM {α : Type} {f : α → OpM Unit} (hf : ∀ a, Unerring (f a)) (l : List α) : Unerring (l.forM f) := by
  induction l with
  | nil => exact .done
  | cons a l ih => exact (hf a).bind ih

/-! A bank's oldest chunk (R234, R235, R237). -/

/-- The products of a chunk, each with its cell. -/
def Chunk.products (k : Chunk) : List (Nat × Word32) := k.vals.mapIdx (fun i v => (k.cell + i, v))

/-- Products put into a frame's cells one after the other, with the number of second contributions so far. -/
def CFrame.putCells (ordered : Bool) (f : CFrame × Nat) (l : List (Nat × Word32)) : CFrame × Nat :=
  l.foldl (fun acc p => ((acc.1.putCell ordered p.1 p.2).1, acc.2 + b2n (acc.1.putCell ordered p.1 p.2).2)) f

/-- A frame with a chunk's products in its cells, and how many of them were second contributions, told by cell (R235; entry 63). -/
def CFrame.addChunk (f : CFrame) (k : Chunk) : CFrame × Nat := CFrame.putCells (frameRecOf f.record).ordered (f, 0) k.products

/-- The state after bank `b` of Smithy `m` has completed chunk `k` into frame `f` and `rest` waits (R237). -/
def Core.chunkAdded (c : Core) (m b : Nat) (k : Chunk) (rest : List Chunk) (f : CFrame) : Core :=
  (c.modSmithy m (fun x => { x with banks := if rest.isEmpty then kvDel x.banks b else kvPut x.banks b rest, frame := some (f.addChunk k).1 })).bumpBy
    (kSmy m 0) (f.addChunk k).2

section
variable {c : Core} {m b : Nat}

theorem run_bankStep {k : Chunk} {rest : List Chunk} {f : CFrame} (herrors : c.dram.errors = []) (hbank : kvGet (c.smithy m).banks b = some (k :: rest))
    (hframe : (c.smithy m).frame = some f) : (bankStep m b).run c = .ok () (c.chunkAdded m b k rest f) := by
  simp only [bankStep, run_bind, run_get, hbank, hframe, Option.getD_some, run_senseWord _ _ _ herrors, senseCells, run_ite, run_senseSpan _ _ _ _ herrors,
    run_pure, ite_self, run_update]
  rfl

/-- A bank with no chunk, or with no frame to add it to, has nothing to do. -/
theorem run_bankStep_idle (hidle : (kvGet (c.smithy m).banks b).getD [] = [] ∨ (c.smithy m).frame = none) : (bankStep m b).run c = .ok () c := by
  simp only [bankStep, run_bind, run_get]
  split
  · next hbank hframe => simp [hbank, hframe] at hidle
  · rfl

end

theorem bankStep_unerring (m b : Nat) : Unerring (bankStep m b) := by
  intro c he
  cases hbank : kvGet (c.smithy m).banks b with
  | none => exact ⟨c, run_bankStep_idle (.inl (by simp [hbank])), he⟩
  | some queue =>
    cases queue with
    | nil => exact ⟨c, run_bankStep_idle (.inl (by simp [hbank])), he⟩
    | cons k rest =>
      cases hframe : (c.smithy m).frame with
      | none => exact ⟨c, run_bankStep_idle (.inr hframe), he⟩
      | some f => exact ⟨_, run_bankStep he hbank hframe, he⟩

theorem bankPush_unerring (m : Nat) (ordered : Bool) (k : Chunk) : Unerring (bankPush m ordered k) :=
  .withState fun _ => .bind (.ite .done (.bind (.update fun _ => rfl) (bankStep_unerring m _))) (.update fun _ => rfl)

theorem contribute_unerring (m : Nat) (r : FrameRec) (col0 entry : Nat) (row : List Word32) : Unerring (contribute m r col0 entry row) :=
  .bind (.update fun _ => rfl) (.forM (bankPush_unerring m r.ordered) _)

/-! COMBINE_SCATTER (R175 to R177, R232, R233). -/

/-- One row of a combine scatter: nothing where it is outside the frame. -/
def contributeInside (m : Nat) (r : FrameRec) (col0 : Nat) (er : Nat × List Word32) : OpM Unit :=
  if r.outside er.1 then pure () else contribute m r col0 er.1 er.2

theorem contributeInside_unerring (m : Nat) (r : FrameRec) (col0 : Nat) (er : Nat × List Word32) : Unerring (contributeInside m r col0 er) :=
  .ite .done (contribute_unerring m r col0 er.1 er.2)

/-- The entries of a combine scatter whose row is outside the frame (R233). -/
def FrameRec.outsiders (r : FrameRec) (entries : List Nat) : Nat := (entries.filter r.outside).length

/-- Rows outside frame `fr` of Smithy `m` noted with no strict card: Hearth `h` counts them and the frame keeps the first notice (R175, R233). -/
def Core.outsideNoted (c : Core) (m h : Nat) (fr : CFrame) (bad : Nat) : Core :=
  if bad = 0 then c
  else (c.bumpBy (kHth h 8) bad).modSmithy m (fun y =>
    { y with frame := some (if fr.pendingStatus = 0 then { fr with pendingStatus := stIndexRange } else fr) })

theorem Core.outsideNoted_dram (c : Core) (m h : Nat) (fr : CFrame) (bad : Nat) : (c.outsideNoted m h fr bad).dram = c.dram := by
  unfold Core.outsideNoted
  split <;> rfl

/-- What every combine scatter finds that nothing refuses before its rows are judged. -/
structure Core.CombineScatters (c : Core) (h : Nat) (f : TindexF) (fr : CFrame) (d : TDesc) (col0 : Nat) (entries : List Nat) (rows : List (List Word32)) :
    Prop where
  lent : (c.hearth h).lentRun = none
  operands : (scatterOperands h f 16 [.fp32, .bf16, .fp16]).run c = .ok (d, col0, entries, rows) c
  frame : (c.smithy (h / 4)).frame = some fr
  opened : fr.closes < (frameRecOf fr.record).parts
  aligned : col0 % 16 = 0
  columnsFrom : (frameRecOf fr.record).col0 ≤ col0
  columnsTo : col0 + 32 * (f.cols32 + 1) ≤ (frameRecOf fr.record).col0 + (frameRecOf fr.record).cols

section
variable {c : Core} {h : Nat} {f : TindexF} {fr : CFrame} {d : TDesc} {col0 : Nat} {entries : List Nat} {rows : List (List Word32)}
  (hc : c.CombineScatters h f fr d col0 entries rows)
include hc

theorem Core.CombineScatters.columns : (col0 % 16 == 0 && decide ((frameRecOf fr.record).col0 ≤ col0) &&
    decide (col0 + 32 * (f.cols32 + 1) ≤ (frameRecOf fr.record).col0 + (frameRecOf fr.record).cols)) = true := by
  simp [hc.aligned, hc.columnsFrom, hc.columnsTo]

/-- The model's notice of rows outside the open frame. -/
theorem Core.CombineScatters.noted (bad : Nat) :
    (if bad == 0 then c.bumpBy (kHth h 8) bad
      else (c.bumpBy (kHth h 8) bad).modSmithy (h / 4) (fun x =>
        { x with frame := x.frame.map (fun f => if f.pendingStatus == 0 then { f with pendingStatus := stIndexRange } else f) })) =
      c.outsideNoted (h / 4) h fr bad := by
  have hframe : ((c.bumpBy (kHth h 8) bad).smithy (h / 4)).frame = some fr := hc.frame
  by_cases hbad : bad = 0
  · simp [Core.outsideNoted, hbad]
  · rw [Core.outsideNoted, if_neg hbad, if_neg (by simpa using hbad)]
    exact Core.modSmithy_congr (by simp [hframe])

/-- All rows are judged first: one outside the frame ends the operation under a strict card, and is noted and dropped otherwise (R175, R177, R233). -/
theorem run_combineOp : (combineOp h f).run c =
    if (c.hearth h).strict = true ∧ (frameRecOf fr.record).outsiders entries ≠ 0 then .error { cls := 0, status := stIndexRange } (c.bump (kHth h 8))
    else ((entries.zip rows).forM (contributeInside (h / 4) (frameRecOf fr.record) col0)).run
      (c.outsideNoted (h / 4) h fr ((frameRecOf fr.record).outsiders entries)) := by
  have hopen := Smithy.openFrame_of_closes_lt hc.frame hc.opened
  simp only [combineOp, run_bind, run_refuseLent hc.lent, hc.operands, run_get, hopen, run_require, hc.columns, if_true, run_ite, run_set, run_failWith,
    hc.noted, Bool.and_eq_true, bne_iff_ne]
  rfl

end

/-! TSCATTER at a scatter buffer of this device (R176, R229). -/

section
variable {c : Core} {h m off : Nat} {f : TindexF} (hlocal : c.isLocal ((c.hearth h).desc f.desc).base = true)
  (hplace : c.place (((c.hearth h).desc f.desc).base % 2 ^ 48) 1 = .ok (.combine m off))
include hlocal hplace

theorem tscatterOp_ownBuffer (hm : m = h / 4) (hoff : off < 0x200000) : (tscatterOp h f).run c = (combineOp h f).run c := by
  simp only [tscatterOp, run_bind, run_get, hplace, hlocal, hm, hoff, beq_self_eq_true, decide_true, Bool.and_self, Bool.not_true, Bool.false_eq_true,
    if_false, if_true]

theorem tscatterOp_elsewhere (hlent : (c.hearth h).lentRun = none) (helse : m ≠ h / 4 ∨ 0x200000 ≤ off) :
    (tscatterOp h f).run c = .error { cls := 0, status := stFormat, addr := ((c.hearth h).desc f.desc).base } c := by
  have hnot : (m == h / 4 && decide (off < 0x200000)) = false := by
    rcases helse with hm | hoff
    · simp [hm]
    · simp [Nat.not_lt.mpr hoff]
  simp only [tscatterOp, run_bind, run_get, hplace, hlocal, hnot, run_refuseLent hlent, run_failWith, Bool.not_true, Bool.false_eq_true, if_false]

end

/-- A Hearth that issues keeps its descriptors. -/
theorem Core.issued_desc (c : Core) (h i : Nat) : ((c.issued h).hearth h).desc i = (c.hearth h).desc i := by
  rw [Core.issued_hearth]
  rfl

theorem exec_tscatter_ownBuffer {s : State} {h off : Nat} {f : TindexF} (hissues : s.Issues h (.tscatter f)) (hoff : off < 0x200000)
    (hplace : s.core.place (((s.core.hearth h).desc f.desc).base % 2 ^ 48) 1 = .ok (.combine (h / 4) off))
    (hlocal : s.core.isLocal ((s.core.hearth h).desc f.desc).base = true) : exec (.tscatter h f) s = exec (.combineScatter h f) s := by
  have hdesc : ((s.core.issued h).hearth h).desc f.desc = (s.core.hearth h).desc f.desc := Core.issued_desc s.core h f.desc
  have hrun : (tscatterOp h f).run (s.core.issued h) = (combineOp h f).run (s.core.issued h) :=
    tscatterOp_ownBuffer (by rw [hdesc]; exact hlocal) (by rw [hdesc]; exact hplace) rfl hoff
  have ⟨hhalted, _⟩ := hissues
  have hissue : s.core.issue h (.tscatter f) (tscatterOp h f) = s.core.issue h (.tscatter f) (combineOp h f) := by
    rw [hissues.issue_eq, hissues.issue_eq, perform_congr hrun]
  simp only [exec, execTscatter, execCombineScatter, Core.gated_of_not_halted _ hhalted, hissue]

/-- Settles O19: a frame record opens its frame or waits, a close record is counted by an open frame; a combine scatter judges all rows as the run of
`combineOp` says, and its contributions never fail, since no error of the symbol code is about. -/
theorem framesTakeContributions : Obligations.FramesTakeContributions := by
  unfold Obligations.FramesTakeContributions
  refine ⟨?_, ?_, ?_⟩
  · intro s h record hhalted hfree hlent herrors
    exact ⟨fun hok hnone => tongsStore_becomes hhalted hfree hlent (frameStore_opens hok herrors hnone),
      fun hok hopen => tongsStore_becomes hhalted hfree hlent (frameStore_waits hok herrors hopen),
      fun hbad => tongsStore_faulted hhalted hfree hlent (frameStore_refused hbad)⟩
  · intro s h record hhalted hfree hlent
    exact ⟨fun f hframe hopen => tongsStore_becomes hhalted hfree hlent (closeStore_counts (Smithy.openFrame_of_closes_lt hframe hopen)),
      fun hclosed => tongsStore_faulted hhalted hfree hlent (closeStore_refused (Smithy.openFrame_of_all_closed hclosed))⟩
  · intro s h f fr hready x d count col0 cols n r c hfmt hindex hindexEnd hscratch hscratchEnd hframe hopen haligned hfrom hto entries rows bad noted
    obtain ⟨hissues, hown, herrors⟩ := hready
    have ⟨hlent, _⟩ := hown.issued
    have hoperands := run_scatterOperands hown.issued herrors (Core.issued_hearth s.core h) (d := d) rfl rfl (cols := cols) rfl (n := n) rfl
      (fmts := [.fp32, .bf16, .fp16]) (by simpa using hfmt) hindex hindexEnd hscratch hscratchEnd
    rw [Core.scratchBytes_issued, Core.scratchBytes_issued] at hoperands
    have hrun := run_combineOp (c := c) ⟨hlent, hoperands, hframe, hopen, haligned, hfrom, hto⟩
    have hstrict : (c.hearth h).strict = x.strict := by rw [Core.issued_hearth]; rfl
    rw [hstrict] at hrun
    refine ⟨fun hjudged => ?_, fun hbad hcard => ?_, fun off hoff hplace hlocal => exec_tscatter_ownBuffer hissues hoff hplace hlocal,
      fun m off helse hplace hlocal => ?_⟩
    · have hgoes : ¬ (x.strict = true ∧ bad ≠ 0) := fun ⟨hcard, hbad⟩ => hjudged.elim hbad fun hlax => Bool.false_ne_true (hlax.symm.trans hcard)
      obtain ⟨c1, hrows, -⟩ := Unerring.forM (contributeInside_unerring (h / 4) r col0) (entries.zip rows) noted
        ((congrArg Dram.errors (Core.outsideNoted_dram c (h / 4) h fr bad)).trans herrors)
      exact ⟨c1, hrows, hissues.becomes_done ((hrun.trans (if_neg hgoes)).trans hrows)⟩
    · exact hissues.becomes_faulted (hrun.trans (if_pos ⟨hcard, hbad⟩)) (by decide) (by decide)
    · have hdesc : (c.hearth h).desc f.desc = d := Core.issued_desc s.core h f.desc
      have hfails := tscatterOp_elsewhere (c := c) (f := f) (by rw [hdesc]; exact hlocal) (by rw [hdesc]; exact hplace) hlent helse
      rw [hdesc] at hfails
      exact hissues.becomes_faulted hfails (by decide : (0 : Nat) ≠ clsHold) (by decide : (0 : Nat) ≠ clsBreach)

end Sys2Proof.Machine
end

section
/-!
PROOFS. SCATTER_CHUNK: the cells, the marks and the count that a chunk's products leave (R234, R235, R237).
-/

namespace Sys2Proof.Machine

/-- What a cell of a frame holds once a product has been put into it: the product itself in ordered mode where nothing was written before, the sum otherwise
(R234, R235). -/
def CFrame.cellWith (f : CFrame) (ordered : Bool) (cell : Nat) (v : Word32) : Word32 :=
  if ordered = true ∧ cell ∉ f.written then v else fadd (spGet 0#32 f.cells cell) v

/-- Two frames of the same record that have received the same close records and tokens. -/
def CFrame.SameBut (f g : CFrame) : Prop := g.record = f.record ∧ g.closes = f.closes ∧ g.touched = f.touched

/-! One product. -/

section
variable (f : CFrame) (ordered : Bool) (cell : Nat) (v : Word32)

theorem CFrame.putCell_cell (a : Nat) :
    spGet 0#32 (f.putCell ordered cell v).1.cells a = if a = cell then f.cellWith ordered cell v else spGet 0#32 f.cells a := by
  cases ordered with
  | false => simp [CFrame.putCell, CFrame.cellWith, spGet_spPut]
  | true => by_cases hw : cell ∈ f.written <;> simp [CFrame.putCell, CFrame.cellWith, hw, spGet_spPut]

theorem CFrame.putCell_second : (f.putCell ordered cell v).2 = (ordered && f.written.contains cell) := by
  cases ordered with
  | false => rfl
  | true => by_cases hw : cell ∈ f.written <;> simp [CFrame.putCell, hw]

theorem CFrame.mem_putCell_written {a : Nat} (ha : a ≠ cell) : a ∈ (f.putCell ordered cell v).1.written ↔ a ∈ f.written := by
  cases ordered with
  | false => rfl
  | true => by_cases hw : cell ∈ f.written <;> simp [CFrame.putCell, hw, ha]

theorem CFrame.putCell_sameBut : f.SameBut (f.putCell ordered cell v).1 := by
  unfold CFrame.putCell
  split
  · exact ⟨rfl, rfl, rfl⟩
  · split <;> exact ⟨rfl, rfl, rfl⟩

theorem CFrame.putCell_cellWith {a : Nat} (ha : a ≠ cell) (w : Word32) : (f.putCell ordered cell v).1.cellWith ordered a w = f.cellWith ordered a w := by
  simp only [CFrame.cellWith, CFrame.mem_putCell_written f ordered cell v ha, CFrame.putCell_cell, ha, if_false]

end

/-! Products of different cells, one after the other: none meets what another has left. -/

theorem CFrame.putCells_cons (ordered : Bool) (f : CFrame) (n : Nat) (p : Nat × Word32) (l : List (Nat × Word32)) :
    CFrame.putCells ordered (f, n) (p :: l) =
      CFrame.putCells ordered ((f.putCell ordered p.1 p.2).1, n + b2n (f.putCell ordered p.1 p.2).2) l := rfl

section
variable (ordered : Bool) (l : List (Nat × Word32)) (f : CFrame) (n : Nat)

theorem CFrame.putCells_sameBut : f.SameBut (CFrame.putCells ordered (f, n) l).1 := by
  induction l generalizing f n with
  | nil => exact ⟨rfl, rfl, rfl⟩
  | cons p l ih =>
    obtain ⟨hrecord, hcloses, htouched⟩ := f.putCell_sameBut ordered p.1 p.2
    obtain ⟨hrecords, hclosesAll, htouchedAll⟩ := ih (f.putCell ordered p.1 p.2).1 (n + b2n (f.putCell ordered p.1 p.2).2)
    exact ⟨hrecords.trans hrecord, hclosesAll.trans hcloses, htouchedAll.trans htouched⟩

theorem CFrame.putCells_cell_other {a : Nat} (ha : a ∉ l.map Prod.fst) :
    spGet 0#32 (CFrame.putCells ordered (f, n) l).1.cells a = spGet 0#32 f.cells a := by
  induction l generalizing f n with
  | nil => rfl
  | cons p l ih =>
    obtain ⟨hp, hl⟩ : a ≠ p.1 ∧ a ∉ l.map Prod.fst := by simpa using ha
    exact (ih _ _ hl).trans ((f.putCell_cell ordered p.1 p.2 a).trans (if_neg hp))

variable (hl : (l.map Prod.fst).Nodup)
include hl

theorem CFrame.putCells_cell {p : Nat × Word32} (hp : p ∈ l) :
    spGet 0#32 (CFrame.putCells ordered (f, n) l).1.cells p.1 = f.cellWith ordered p.1 p.2 := by
  induction l generalizing f n with
  | nil => cases hp
  | cons q l ih =>
    obtain ⟨hq, hrest⟩ := List.nodup_cons.mp hl
    rcases List.mem_cons.mp hp with rfl | hp
    · exact (CFrame.putCells_cell_other ordered l _ _ hq).trans ((f.putCell_cell ordered p.1 p.2 p.1).trans (if_pos rfl))
    · have hne : p.1 ≠ q.1 := fun he => hq (he ▸ List.mem_map_of_mem hp)
      exact (ih _ _ hrest hp).trans (f.putCell_cellWith ordered q.1 q.2 hne p.2)

theorem CFrame.putCells_count :
    (CFrame.putCells ordered (f, n) l).2 = n + ((l.map Prod.fst).filter (fun a => ordered && f.written.contains a)).length := by
  induction l generalizing f n with
  | nil => rfl
  | cons q l ih =>
    obtain ⟨hq, hrest⟩ := List.nodup_cons.mp hl
    have hsame : (l.map Prod.fst).filter (fun a => ordered && (f.putCell ordered q.1 q.2).1.written.contains a) =
        (l.map Prod.fst).filter (fun a => ordered && f.written.contains a) := by
      refine List.filter_congr fun a ha => ?_
      have hne : a ≠ q.1 := fun he => hq (he ▸ ha)
      simp only [List.contains_eq_mem, CFrame.mem_putCell_written f ordered q.1 q.2 hne]
    rw [CFrame.putCells_cons, ih _ _ hrest, hsame, CFrame.putCell_second, List.map_cons, List.filter_cons]
    cases ordered && f.written.contains q.1
    · simp [b2n]
    · simp only [b2n, if_true, List.length_cons]
      omega

end

/-! A chunk. -/

theorem Chunk.products_cells (k : Chunk) : k.products.map Prod.fst = (List.range k.vals.length).map (fun i => k.cell + i) :=
  List.ext_getElem (by simp [Chunk.products]) (by simp [Chunk.products])

theorem Chunk.products_nodup (k : Chunk) : (k.products.map Prod.fst).Nodup := by
  rw [k.products_cells]
  exact List.Pairwise.map _ (fun i j (hij : i ≠ j) (hcell : k.cell + i = k.cell + j) => hij (Nat.add_left_cancel hcell)) List.nodup_range

section
variable (f : CFrame) (k : Chunk)

theorem CFrame.addChunk_sameBut : f.SameBut (f.addChunk k).1 := CFrame.putCells_sameBut _ _ _ _

theorem CFrame.addChunk_cell {i : Nat} {v : Word32} (hv : k.vals[i]? = some v) :
    spGet 0#32 (f.addChunk k).1.cells (k.cell + i) = f.cellWith (frameRecOf f.record).ordered (k.cell + i) v := by
  have hmem : (k.cell + i, v) ∈ k.products := by
    obtain ⟨hi, hv⟩ := List.getElem?_eq_some_iff.mp hv
    exact List.mem_mapIdx.mpr ⟨i, hi, by rw [hv]⟩
  exact CFrame.putCells_cell _ _ _ _ k.products_nodup hmem

theorem CFrame.addChunk_cell_other {a : Nat} (ha : a < k.cell ∨ k.cell + k.vals.length ≤ a) :
    spGet 0#32 (f.addChunk k).1.cells a = spGet 0#32 f.cells a := by
  refine CFrame.putCells_cell_other _ _ _ _ ?_
  rw [k.products_cells]
  simp only [List.mem_map, List.mem_range, not_exists, not_and]
  omega

theorem CFrame.addChunk_count :
    (f.addChunk k).2 = ((List.range k.vals.length).filter (fun i => (frameRecOf f.record).ordered && f.written.contains (k.cell + i))).length := by
  have hcount := CFrame.putCells_count (frameRecOf f.record).ordered k.products f 0 k.products_nodup
  rw [k.products_cells, List.filter_map, List.length_map, Nat.zero_add] at hcount
  exact hcount

end

/-! The Smithy after a chunk. -/

@[simp] theorem Core.bumpBy_smithy (c : Core) (k n m : Nat) : (c.bumpBy k n).smithy m = c.smithy m := rfl

section
variable (c : Core) (m b : Nat) (k : Chunk) (rest : List Chunk) (f : CFrame)

theorem Core.chunkAdded_frame : ((c.chunkAdded m b k rest f).smithy m).frame = some (f.addChunk k).1 := by
  simp [Core.chunkAdded]

theorem Core.chunkAdded_bank : (kvGet ((c.chunkAdded m b k rest f).smithy m).banks b).getD [] = rest := by
  cases rest <;> simp [Core.chunkAdded, kvGet_kvDel_same, kvGet_kvPut_same]

theorem Core.chunkAdded_bank_other {a : Nat} (ha : a ≠ b) :
    kvGet ((c.chunkAdded m b k rest f).smithy m).banks a = kvGet (c.smithy m).banks a := by
  cases rest <;> simp [Core.chunkAdded, kvGet_kvDel_ne _ ha, kvGet_kvPut_ne _ _ ha]

theorem Core.chunkAdded_smithy_other {j : Nat} (hj : j ≠ m) : (c.chunkAdded m b k rest f).smithy j = c.smithy j := by
  simp [Core.chunkAdded, Core.smithy_modSmithy, hj]

theorem Core.chunkAdded_counter (a : Nat) : (c.chunkAdded m b k rest f).counter a =
    if a = kSmy m 0 ∧ (f.addChunk k).2 ≠ 0 then satAdd 32 (c.counter (kSmy m 0)) (f.addChunk k).2 else c.counter a :=
  Core.counter_bumpBy _ _ _ _

end

theorem scatterChunk_adds {s : State} {m b : Nat} {k : Chunk} {rest : List Chunk} {f : CFrame} (hhalted : s.core.halted = false)
    (herrors : s.core.dram.errors = []) (hbank : kvGet (s.core.smithy m).banks b = some (k :: rest)) (hframe : (s.core.smithy m).frame = some f) :
    exec (.scatterChunk m b) s = .next { s with core := s.core.chunkAdded m b k rest f } := by
  have hrun : s.core.runDrain (bankStep m b) = s.core.chunkAdded m b k rest f := by
    rw [Core.runDrain, Core.runBlock, run_bankStep herrors hbank hframe]
  simp only [exec, execScatterChunk, Core.gated_of_not_halted _ hhalted, hrun]

end Sys2Proof.Machine
end

section
/-!
PROOFS. FRAME_DRAIN: the rows written, the step's statistics, the next held record and done_tally (R231, R234 to R236, R317).
-/

namespace Sys2Proof.Machine

/-! The step's statistics (R64, R289). -/

/-- The step's statistics touch nothing but the picker and the Quench's count. -/
theorem Core.feedStats_eq (c : Core) (d : TDesc) (step : Nat) (g : Gauge) :
    c.feedStats d step g = { c with picker := (c.feedStats d step g).picker, crucible := (c.feedStats d step g).crucible } := by
  unfold Core.feedStats Core.countNonFinite Core.pickSummary
  split <;> split <;> rfl

@[simp] theorem Core.feedStats_dram (c : Core) (d : TDesc) (step : Nat) (g : Gauge) : (c.feedStats d step g).dram = c.dram := by
  rw [Core.feedStats_eq]

@[simp] theorem Core.feedStats_smithy (c : Core) (d : TDesc) (step : Nat) (g : Gauge) (m : Nat) : (c.feedStats d step g).smithy m = c.smithy m := by
  rw [Core.feedStats_eq]
  rfl

@[simp] theorem Core.feedStats_waits (c : Core) (d : TDesc) (step : Nat) (g : Gauge) (a : Actor) : (c.feedStats d step g).waits a = c.waits a := by
  rw [Core.feedStats_eq]
  rfl

/-! A signal that its Tally has room for (R311). -/

theorem Tally.signal_one {t : Tally} (hover : t.overSet = false) (hroom : t.value < 0xFFFFFFFF) : t.signal 1 = { t with value := t.value + 1 } := by
  have hfits : ¬ max32 < t.value + 1 := by simp only [max32]; omega
  simp only [Tally.signal, hover, hfits, Bool.false_eq_true, if_false]

theorem run_signalTally_one {c : Core} {scope unit i : Nat} {t : Tally} (ht : c.tally scope unit i = t) (hover : t.overSet = false)
    (hroom : t.value < 0xFFFFFFFF) : (signalTally scope unit i 1).run c = .ok () (c.setTally scope unit i { t with value := t.value + 1 }) := by
  simp only [signalTally, run_bind, run_get, ht, run_set, Tally.signal_one hover hroom, hover, Bool.and_false, Bool.false_eq_true, if_false, run_pure]

/-! The frame's end (R231, R236). -/

/-- A Smithy whose frame has ended: the next held record opens its own. -/
def Smithy.nextFrame (x : Smithy) : Smithy :=
  match x.held with
  | [] => { x with frame := none }
  | (_, k) :: l => { x with frame := some { record := k }, held := l }

@[simp] theorem Smithy.nextFrame_tallies (x : Smithy) : x.nextFrame.tallies = x.tallies := by
  unfold Smithy.nextFrame
  split <;> rfl

/-- A Smithy whose frame has written its rows and waits for their delivery (R317). -/
def Smithy.drainMarked (x : Smithy) : Smithy := { x with frame := x.frame.map (fun f => { f with draining := true }) }

/-- The frame that ends has no part in what follows. -/
@[simp] theorem Smithy.nextFrame_drainMarked (x : Smithy) : x.drainMarked.nextFrame = x.nextFrame := by
  cases hheld : x.held <;> simp [Smithy.nextFrame, Smithy.drainMarked, hheld]

theorem run_frameEnd {c : Core} {m : Nat} {r : FrameRec} {t : Tally} (herrors : c.dram.errors = []) (ht : c.tally 1 m r.doneTally = t)
    (hover : t.overSet = false) (hroom : t.value < 0xFFFFFFFF) :
    (frameEnd m r).run c = .ok () ((c.modSmithy m Smithy.nextFrame).setTally 1 m r.doneTally { t with value := t.value + 1 }) := by
  have hfresh : (c.modSmithy m Smithy.nextFrame).freshSpan (.scatter m) 0 0x200000 = c.modSmithy m Smithy.nextFrame := freshSpan_none _ _ _ _ herrors
  have hkept : (c.modSmithy m Smithy.nextFrame).tally 1 m r.doneTally = t := by
    rw [← ht]
    simp only [Core.tally, Core.smithy_modSmithy_same, Smithy.nextFrame_tallies]
  refine (run_bind_ok _ (run_update c (fun c => c.modSmithy m Smithy.nextFrame))).trans ?_
  rw [run_bind_ok _ (run_update _ _), hfresh, run_signalTally_one hkept hover hroom]

@[simp] theorem Core.modSmithy_waits (c : Core) (m : Nat) (f : Smithy → Smithy) (a : Actor) : (c.modSmithy m f).waits a = c.waits a := rfl
@[simp] theorem Core.bump_waits (c : Core) (k : Nat) (a : Actor) : (c.bump k).waits a = c.waits a := rfl

/-- A drain counted; its frame ends where none of its writes is under way elsewhere (R317). -/
def endDrain (m : Nat) (r : FrameRec) : OpM Unit := do
  update (fun c => (c.bump (kSmy m 2)).modSmithy m Smithy.drainMarked)
  let c ← get
  if c.waits (.smithy m) then pure () else frameEnd m r

theorem run_endDrain {c : Core} {m : Nat} {r : FrameRec} {t : Tally} (herrors : c.dram.errors = []) (hdone : c.waits (.smithy m) = false)
    (ht : c.tally 1 m r.doneTally = t) (hover : t.overSet = false) (hroom : t.value < 0xFFFFFFFF) :
    (endDrain m r).run c =
      .ok () (((c.bump (kSmy m 2)).modSmithy m Smithy.nextFrame).setTally 1 m r.doneTally { t with value := t.value + 1 }) := by
  have hkept : ((c.bump (kSmy m 2)).modSmithy m Smithy.drainMarked).tally 1 m r.doneTally = t := by
    rw [← ht]
    simp only [Core.tally, Core.smithy_modSmithy_same, Smithy.drainMarked, Core.bump, Core.bumpBy_smithy]
  have hend := run_frameEnd (c := (c.bump (kSmy m 2)).modSmithy m Smithy.drainMarked) herrors hkept hover hroom
  simp only [Core.modSmithy_modSmithy, Smithy.nextFrame_drainMarked] at hend
  simp only [endDrain, run_bind, run_update, run_get, Core.modSmithy_waits, Core.bump_waits, hdone, Bool.false_eq_true, if_false, hend]

/-! The drain (R234, R235, R317). -/

/-- Row `t` of a frame's closed values, with their rows and columns of the output. -/
def CFrame.rowVals (f : CFrame) (r : FrameRec) (t : Nat) : List (Nat × Nat × Word32) :=
  (List.range r.cols).map (fun j => (r.token0 + t, r.col0 + j, f.value r t j))

/-- That row in the output's format. -/
def CFrame.rowOuts (f : CFrame) (r : FrameRec) (t : Nat) : List (Nat × Nat × OutElem) := convList r.desc r.desc.fmt 0 r.seed r.step (f.rowVals r t)

/-- That row written. -/
def CFrame.putRow (f : CFrame) (r : FrameRec) (w : Who) (t : Nat) : OpM Unit :=
  putAny w vcReq ((r.outBase + (r.token0 + t) * r.outStride + r.col0 * (r.desc.fmt.elemBits / 8)) % 2 ^ 64)
    (packCodes r.desc.fmt.elemBits ((f.rowOuts r t).map (fun e => e.2.2.code)))

/-- The statistics of all rows. -/
def CFrame.drainGauge (f : CFrame) (r : FrameRec) : Gauge :=
  gaugeOf false ((List.range r.tokens).map (f.rowVals r)).flatten ((List.range r.tokens).map (f.rowOuts r)).flatten

/-- Who writes them. -/
def Core.drainWho (c : Core) (m : Nat) (r : FrameRec) : Who := { actor := .smithy m, tenant := c.smithyTenant m, key := r.key }

/-- A row of at least one column tells its row of the output. -/
theorem CFrame.rowVals_row (f : CFrame) {r : FrameRec} (hcols : 0 < r.cols) (t : Nat) : ((f.rowVals r t).map (·.1)).headD 0 = r.token0 + t := by
  obtain ⟨n, hn⟩ := Nat.exists_eq_add_of_lt hcols
  simp [CFrame.rowVals, hn, List.range_succ_eq_map]

/-- Items that each come with what is made of them, one after the other. -/
theorem forM_zip_map {α β γ : Type} (l : List γ) (a : γ → α) (b : α → β) (g : α × β → OpM Unit) :
    ((l.map a).zip ((l.map a).map b)).forM g = l.forM (fun t => g (a t, b (a t))) := by
  simp only [List.map_map, List.zip_map', List.forM_eq_forM, List.forM_map, Function.comp]

/-- A row and its elements in the output's format, written to the place that the row itself names. -/
def FrameRec.putPair (r : FrameRec) (w : Who) (ro : List (Nat × Nat × Word32) × List (Nat × Nat × OutElem)) : OpM Unit :=
  putAny w vcReq ((r.outBase + (ro.1.map (·.1)).headD 0 * r.outStride + r.col0 * (r.desc.fmt.elemBits / 8)) % 2 ^ 64)
    (packCodes r.desc.fmt.elemBits (ro.2.map (fun e => e.2.2.code)))

theorem CFrame.forM_putPair (f : CFrame) {r : FrameRec} (hcols : 0 < r.cols) (w : Who) (l : List Nat) :
    ((l.map (f.rowVals r)).zip ((l.map (f.rowVals r)).map (convList r.desc r.desc.fmt 0 r.seed r.step))).forM (r.putPair w) = l.forM (f.putRow r w) := by
  have hrow : ∀ t, r.putPair w (f.rowVals r t, f.rowOuts r t) = f.putRow r w t := fun t => by
    rw [FrameRec.putPair, f.rowVals_row hcols, CFrame.putRow]
  exact (forM_zip_map l _ _ _).trans (congrArg l.forM (funext hrow))

/-- A drain that writes no gauge record, whose rows are written at once and whose Tally has room. -/
theorem run_frameDrain {c c1 : Core} {m : Nat} {f : CFrame} {r : FrameRec} {t : Tally} (herrors : c.dram.errors = []) (hframe : (c.smithy m).frame = some f)
    (hr : frameRecOf f.record = r) (hcols : 0 < r.cols) (hgauge : r.gauge = 0) (ht : c.tally 1 m r.doneTally = t) (hover : t.overSet = false)
    (hroom : t.value < 0xFFFFFFFF) (hrows : ((List.range r.tokens).forM (f.putRow r (c.drainWho m r))).run c = .ok () c1)
    (hdone : c1.waits (.smithy m) = false) (hkept : c1.smithy m = c.smithy m) (herrors1 : c1.dram.errors = []) :
    (frameDrain m).run c = .ok () ((((c1.feedStats r.desc r.step (f.drainGauge r)).bump (kSmy m 2)).modSmithy m Smithy.nextFrame).setTally 1 m r.doneTally
      { t with value := t.value + 1 }) := by
  have hpairs := congrArg (EStateM.run · c) (f.forM_putPair hcols (c.drainWho m r) (List.range r.tokens))
  have hcounted : f.drainGauge r = gaugeOf false ((List.range r.tokens).map (f.rowVals r)).flatten
      (((List.range r.tokens).map (f.rowVals r)).map (convList r.desc r.desc.fmt 0 r.seed r.step)).flatten := by
    rw [List.map_map]
    rfl
  have htally : (c1.feedStats r.desc r.step (f.drainGauge r)).tally 1 m r.doneTally = t := by
    rw [← ht]
    simp only [Core.tally, Core.feedStats_smithy, hkept]
  have hend := run_endDrain (c := c1.feedStats r.desc r.step (f.drainGauge r)) (by rw [Core.feedStats_dram, herrors1])
    (by rw [Core.feedStats_waits, hdone]) htally hover hroom
  subst hr
  rw [frameDrain, run_bind_ok _ (run_get c), hframe]
  refine (run_bind_ok _ (run_senseSpan c _ _ _ herrors)).trans ((run_bind_ok _ (hpairs.trans hrows)).trans ((run_bind_ok _ (run_update c1 _)).trans ?_))
  rw [← hend, hcounted, if_neg (by simp [hgauge])]
  rfl

theorem frameDrain_becomes {s : State} {m : Nat} {d : Core} (hhalted : s.core.halted = false) (hready : s.core.drainReady m = true)
    (hdrain : (frameDrain m).run s.core = .ok () d) : s.Becomes (exec (.frameDrain m) s) d := by
  have hrun : s.core.runDrain (frameDrain m) = d := by rw [Core.runDrain, Core.runBlock, hdrain]
  refine State.becomes_of_eq ?_
  simp only [exec, execFrameDrain, Core.gated_of_not_halted _ hhalted, hready, if_true, hrun]

/-- Settles O20: a bank's oldest chunk puts its products into cells that differ, so each finds its cell as the frame had it; a drain whose writes are done ends
as the run of `frameDrain` says. -/
theorem framesAddAndDrain : Obligations.FramesAddAndDrain := by
  unfold Obligations.FramesAddAndDrain
  refine ⟨?_, ?_⟩
  · intro s m b k rest fr hhalted herrors hbank hframe ordered
    obtain ⟨hrecord, hcloses, htouched⟩ := fr.addChunk_sameBut k
    refine ⟨_, _, scatterChunk_adds hhalted herrors hbank hframe, Core.chunkAdded_frame _ _ _ _ _ _, fun i v hv => fr.addChunk_cell k hv,
      fun a ha => fr.addChunk_cell_other k ha, hrecord, hcloses, htouched, Core.chunkAdded_bank _ _ _ _ _ _,
      fun a ha => Core.chunkAdded_bank_other _ _ _ _ _ _ ha, fun j hj => Core.chunkAdded_smithy_other _ _ _ _ _ _ hj, fun a ha => ?_, fun n hn => ?_, rfl⟩
    · exact (Core.chunkAdded_counter _ _ _ _ _ _ a).trans (if_neg fun ⟨hsame, _⟩ => ha hsame)
    · rw [hn, ← fr.addChunk_count k]
      simp only [Core.chunkAdded_counter, true_and, ne_eq, ite_not]
  · intro s m f hhalted herrors hready hframe r d w vals outs put g y hcols hgauge hover hroom c1 hrows hdone hkept herrors1
    exact frameDrain_becomes hhalted hready (run_frameDrain herrors hframe rfl hcols hgauge rfl hover hroom hrows hdone hkept herrors1)

end Sys2Proof.Machine
end

section
/-!
PROOFS. What the Crucible's operations share: how their failures become its faults (Table 16-3, R447, R507), and how a transaction that its block takes at once
comes to what the block does (R374, R391).
-/

namespace Sys2Proof.Machine

section
variable {α : Type} {c : Core}

theorem run_tryCatch (op : OpM α) (handle : FaultReq → OpM α) :
    (tryCatch op handle : OpM α).run c = match op.run c with | .ok a d => .ok a d | .error f d => (handle f).run d := by
  simp only [tryCatch, tryCatchThe, MonadExceptOf.tryCatch, EStateM.tryCatch, EStateM.run]
  cases op c <;> rfl

/-- A failure under a shard: one that has no class of its own is an OPTIMISER fault of the shard, the phase and the step. -/
def FaultReq.underShard (f : FaultReq) (shard phase step : Nat) : FaultReq :=
  if f.cls == 0 || f.cls == clsAlways then
    { cls := clsOptimiser, status := f.status, unit := shard % 2 ^ 16, detail := phase, addr := shard, step := step } else f

/-- The fault of a matrix's shard whose operand breaks a format, in a phase of a step. -/
def MatrixEnt.formatFault (m : MatrixEnt) (phase step : Nat) : FaultReq :=
  { cls := clsOptimiser, status := stFormat, unit := m.shard % 2 ^ 16, detail := phase, addr := m.shard, step := step }

theorem run_cruFault (shard phase step : Nat) (op : OpM α) :
    (cruFault shard phase step op).run c = match op.run c with | .ok a d => .ok a d | .error f d => .error (f.underShard shard phase step) d := by
  rw [cruFault, run_tryCatch]
  cases op.run c <;> rfl

theorem run_cruFault_ok {shard phase step : Nat} {op : OpM α} {a : α} {d : Core} (hop : op.run c = .ok a d) :
    (cruFault shard phase step op).run c = .ok a d := by
  rw [run_cruFault, hop]

theorem run_cruFault_congr {shard phase step : Nat} {op other : OpM α} {d : Core} (hop : op.run c = other.run d) :
    (cruFault shard phase step op).run c = (cruFault shard phase step other).run d := by
  rw [run_cruFault, run_cruFault, hop]

theorem run_require_of {b : Bool} {st : Nat} (hb : b = true) : (require b st).run c = .ok () c := by
  rw [run_require, if_pos hb]

theorem run_blame (l : List Origin) (op : OpM α) :
    (blame l op).run c = match op.run c with | .ok a d => .ok a d | .error f d => .error { f with who := if f.who.isEmpty then l else f.who } d := by
  rw [blame, run_tryCatch]
  cases op.run c <;> rfl

end

section
variable {c d : Core} {op : OpM Unit}

theorem Core.runCrucible_ok (hop : op.run c = .ok () d) : c.runCrucible op = d := by
  rw [Core.runCrucible, Core.runBlock, run_blame, hop]

/-- An OPTIMISER fault that names no descriptor is raised for the one that gave the step in hand (R447, R507). -/
theorem Core.runCrucible_faulted {f : FaultReq} (hop : op.run c = .error f d) (hcls : f.cls = clsOptimiser) (hwho : f.who = []) :
    c.runCrucible op = d.raise { f with who := c.crucible.origin.toList } := by
  have hfilled : (({ f with who := c.crucible.origin.toList } : FaultReq).filled clsOptimiser 0 0) = { f with who := c.crucible.origin.toList } := by
    simp [FaultReq.filled, hcls, clsOptimiser, clsAlways, clsHold, clsKey]
  rw [Core.runCrucible, Core.runBlock, run_blame, hop]
  simp only [hwho, List.isEmpty_nil, if_true, hfilled]

end

/-! Arrivals (R374, R387, R391). -/

section
variable (s : State) (w : Head) (vc n : Nat)

@[simp] theorem State.accept_mgt : (s.accept w vc n).core.mgt = s.core.mgt := by
  simp only [State.accept_core, State.retryCounted]
  split <;> rfl

@[simp] theorem State.accept_crucible : (s.accept w vc n).core.crucible = s.core.crucible := by
  simp only [State.accept_core, State.retryCounted]
  split <;> rfl

@[simp] theorem State.accept_bellows : (s.accept w vc n).core.bellows = s.core.bellows := by
  simp only [State.accept_core, State.retryCounted]
  split <;> rfl

@[simp] theorem State.accept_halted : (s.accept w vc n).core.halted = s.core.halted := by
  rw [Core.halted, Core.halted, State.accept_mgt]

end

/-- A transaction for the job side that its block takes at once comes to what the block does with it, while no restart wave holds the device. -/
theorem State.Arrives.becomes {s : State} {w : Head} {vc n : Nat} {i : Instr} {d : Core} (harrives : s.Arrives w vc i) (hhalted : s.core.halted = false)
    (hjob : ∀ t : State, t.takeFrame i = { t with core := t.core.gated (fun c => c.takeFrame i) }) (htakes : (s.accept w vc n).core.takeFrame i = d) :
    (s.accept w vc n).Becomes (.next (s.arrive w vc n i)) d := by
  obtain ⟨horder, hempty, hready, herrors⟩ := harrives
  have hhalted' : (s.accept w vc n).core.halted = false := (State.accept_halted s w vc n).trans hhalted
  refine State.becomes_of_eq ?_
  rw [State.arrive_taken s w vc n i horder (by rw [hempty, hready]; rfl) herrors, hjob, Core.gated_of_not_halted _ hhalted', htakes]

end Sys2Proof.Machine
end

section
/-!
PROOFS. ANNOUNCE: a part added, a part with too many tiles, and a lent Hearth's announce (R137, R279, R308).
-/

namespace Sys2Proof.Machine

/-- The part that an announce names, with the tiles that it adds (R279). -/
def announcedPart (w : Who) (b : List Byte) : Announced :=
  let n := leNat (b.take 64)
  { matrix := bits n 19 0, step := bits n 63 32, part := bits n 79 64, tiles := bits n 111 80, desc := b.drop 64, tenant := w.tenant }

/-- Whether a part is the same one of the same matrix, for the same step and tenant. -/
def Announced.samePart (a x : Announced) : Bool := x.matrix == a.matrix && x.step == a.step && x.part == a.part && x.tenant == a.tenant

/-- The tiles that the announces of a part have come to with this one. -/
def Core.tilesWith (c : Core) (a : Machine.Announced) : Nat := (match c.crucible.announced.find? a.samePart with | some x => x.tiles | none => 0) + a.tiles

/-- The parts with this announce among them. -/
def Core.partsWith (c : Core) (a : Machine.Announced) : List Machine.Announced :=
  match c.crucible.announced.find? a.samePart with
  | some _ => modFirst a.samePart (fun x => { x with tiles := c.tilesWith a }) c.crucible.announced
  | none => c.crucible.announced ++ [a]

/-- An announce added to its part (R279). -/
def Core.addPart (c : Core) (a : Machine.Announced) : Core := c.modCru (fun x => { x with announced := c.partsWith a })

section
variable {c : Core} {a : Machine.Announced}

theorem Core.tilesWith_new (hnew : c.crucible.announced.find? a.samePart = none) : c.tilesWith a = a.tiles := by
  simp [Core.tilesWith, hnew]

theorem Core.addPart_new (hnew : c.crucible.announced.find? a.samePart = none) :
    c.addPart a = c.modCru (fun x => { x with announced := x.announced ++ [a] }) := by
  simp only [Core.addPart, Core.partsWith, hnew, Core.modCru]

variable {old : Machine.Announced} (hold : c.crucible.announced.find? a.samePart = some old)
include hold

theorem Core.tilesWith_old : c.tilesWith a = old.tiles + a.tiles := by
  simp [Core.tilesWith, hold]

theorem Core.addPart_old :
    c.addPart a = c.modCru (fun x => { x with announced := modFirst a.samePart (fun y => { y with tiles := old.tiles + a.tiles }) x.announced }) := by
  simp only [Core.addPart, Core.partsWith, Core.tilesWith, hold, Core.modCru]

end

/-- An announce that only its tiles can refuse: of a dense matrix, with a descriptor of the matrix's shape, for one of the two steps to come (R279; entry
70). -/
structure Core.AnnounceInOrder (c : Core) (w : Who) (b : List Byte) (m : MatrixEnt) : Prop where
  lent : ∀ h, w.actor = .hearth h → (c.hearth h).lentRun = none
  matrix : (readMatrix (announcedPart w b).matrix).run c = .ok m c
  reservedLow : bits (leNat (b.take 64)) 31 20 = 0
  reservedHigh : bits (leNat (b.take 64)) 511 112 = 0
  dense : m.sparse = false
  descOk : c.descOk (tdescOf (leNat (b.drop 64))) = true
  present : (tdescOf (leNat (b.drop 64))).present = true
  cols : (tdescOf (leNat (b.drop 64))).ext0 = m.cols
  rows : (tdescOf (leNat (b.drop 64))).ext1 = m.rows
  flat2 : (tdescOf (leNat (b.drop 64))).ext2 = 1
  flat3 : (tdescOf (leNat (b.drop 64))).ext3 = 1
  toCome : ∀ last, c.crucible.lastRun = some last → (announcedPart w b).step = last + 1 ∨ (announcedPart w b).step = last + 2

/-- The last step of an announce: its tiles are added where the matrix has as many. -/
def addTiles (c : Core) (m : MatrixEnt) (a : Announced) : OpM Unit := do
  require (decide (c.tilesWith a ≤ m.tiles)) stFormat
  set (c.addPart a)

theorem run_cruFault_addTiles (c : Core) (m : MatrixEnt) (a : Announced) :
    (cruFault m.shard 1 a.step (addTiles c m a)).run c =
      if c.tilesWith a ≤ m.tiles then .ok () (c.addPart a) else .error (m.formatFault 1 a.step) c := by
  rw [run_cruFault, addTiles, run_bind, run_require]
  by_cases hfits : c.tilesWith a ≤ m.tiles <;> simp [hfits, FaultReq.underShard, MatrixEnt.formatFault]

theorem Core.AnnounceInOrder.run_announceOp {c : Core} {w : Who} {b : List Byte} {m : MatrixEnt} (ha : c.AnnounceInOrder w b m) :
    (announceOp w b).run c = if c.tilesWith (announcedPart w b) ≤ m.tiles then .ok () (c.addPart (announcedPart w b))
      else .error (m.formatFault 1 (announcedPart w b).step) c := by
  rw [← run_cruFault_addTiles]
  simp only [announceOp]
  split
  case' h_1 h hactor => rw [run_bind_ok _ (run_refuseLent (ha.lent h hactor))]
  all_goals
    refine (run_bind_ok _ (run_get c)).trans ((run_bind_ok _ (run_cruFault_ok ha.matrix)).trans (run_cruFault_congr ?_))
    refine (run_bind_ok _ (run_require_of ?_)).trans ((run_bind_ok _ (run_require_of ?_)).trans ((run_bind_ok _ (run_require_of ?_)).trans
      ((run_bind_ok _ (run_require_of ?_)).trans rfl)))
    · simp [ha.reservedLow, ha.reservedHigh, ha.dense]
    · simp [ha.descOk, ha.present]
    · simp [ha.cols, ha.rows, ha.flat2, ha.flat3]
    · split
      · next last hlast => simpa [announcedPart] using ha.toCome last hlast
      · rfl

theorem announce_becomes {s : State} {g : Agent} {record : Nat} {d : Core} (hhalted : s.core.halted = false)
    (hrun : s.core.runAgent g 1 (announceOp (s.core.agentWho g) (leBytes 128 record)) = d) : s.Becomes (exec (.announce g record) s) d := by
  refine State.becomes_of_eq ?_
  simp only [exec, execAnnounce, Core.gated_of_not_halted _ hhalted, hrun]

/-! How an agent's store ends that fails (R128, R137, R400). -/

section
variable {c d : Core} {h : Nat} {op : OpM Unit} {f : FaultReq}

theorem runAgent_hearth_faulted (hfree : c.tongsFree h 1 [] = true) (hop : op.run c = .error f d) (hcls : f.cls = clsOptimiser) :
    c.runAgent (.hearth h) 1 op = d.lessonFault h 1 f := by
  rw [Core.runAgent, Core.tongsDo, if_pos hfree, perform_faulted c hop (by rw [hcls]; decide) (by rw [hcls]; decide)]

theorem runAgent_host_faulted {o : Origin} (hop : op.run c = .error f d) (hcls : f.cls = clsOptimiser) : c.runAgent (.host o) 1 op = d.raiseFor o f := by
  have hfilled : f.filled clsLesson 0 0 = f := by simp [FaultReq.filled, hcls, clsOptimiser, clsAlways, clsHold, clsKey]
  simp [Core.runAgent, Core.runDesc, hop, hfilled, hcls, clsOptimiser, clsKey]

theorem runAgent_hearth_breach (hfree : c.tongsFree h 1 [] = true) {st : Nat} (hop : op.run c = .error { cls := clsBreach, status := st } d) :
    c.runAgent (.hearth h) 1 op = d.endLent h st := by
  rw [Core.runAgent, Core.tongsDo, if_pos hfree]
  simp [Core.perform, hop, clsBreach, clsHold]

theorem run_announceOp_lent {b : List Byte} (hlent : (c.hearth h).lentRun.isSome = true) :
    (announceOp (c.agentWho (.hearth h)) b).run c = .error { cls := clsBreach, status := stFormat } c := by
  have hrefused : (refuseLent h).run c = .error { cls := clsBreach, status := stFormat } c := by
    rw [refuseLent, run_bind_ok _ (run_get c), run_requireLent, Option.isNone_eq_false_iff.mpr hlent]
    rfl
  simp only [announceOp, Core.agentWho, run_bind, hrefused]

end

/-- An agent of the page at work for its own tenant has no lent item. -/
theorem Core.agentFree.lentRun_of_actor {c : Core} {g : Agent} (hfree : c.agentFree g) (h : Nat) (hactor : (c.agentWho g).actor = .hearth h) :
    (c.hearth h).lentRun = none := by
  cases g with
  | hearth j =>
    obtain ⟨-, hlent⟩ := hfree
    cases hactor
    exact hlent
  | host o => cases hactor

end Sys2Proof.Machine
end

section
/-!
PROOFS. CONTRIB: an owner's copy, a chunk that is taken in and one that waits (R283, R285, R286, R332; entries 71, 121, 123).
-/

namespace Sys2Proof.Machine

theorem run_ownersCheck_not_owners {c : Core} (hphase : c.crucible.phase ≠ .owners) : ownersCheck.run c = .ok () c := by
  have hother : (c.crucible.phase != .owners) = true := by simpa using hphase
  simp only [ownersCheck, run_bind, run_get, hother, if_true, run_pure]

/-- A chunk kept among those that have come. -/
def Core.keepContrib (c : Core) (f : ContribF) : Core := c.modCru (fun x => { x with inbox := x.inbox ++ [f] })

/-- A chunk that waits on its sender's share, which is counted. -/
def Core.holdContrib (c : Core) (f : ContribF) : Core := (c.modCru (fun x => { x with stageHeld := x.stageHeld ++ [f] })).bump (kCru 4)

/-- The chunks of a sender that have come before their turn. -/
def Core.stagedOf (c : Core) (sender : Nat) : OpM (List ContribF) :=
  (c.crucible.inbox.filter (fun x => !x.owner && x.sender == sender)).filterM (fun x => do
    let t ← contribTurn x
    pure !t)

/-- A sender's share of the staging has room for one more chunk (R285; entries 121, 123). -/
def Core.ShareHolds (c : Core) (f : ContribF) (staged : List ContribF) : Prop :=
  c.contribLength f + (staged.map c.contribLength).foldl (· + ·) 0 ≤ c.stageShare f.round

section
variable {c : Core} {f : ContribF}

/-- An owner's copy is kept and goes on down its tree; outside the owners' step nothing waits for it (R286, R332). -/
theorem takeContrib_owner {e : Core} (howner : f.owner = true) (hforward : (forwardCopy f).run (c.keepContrib f) = .ok () e)
    (hphase : e.crucible.phase ≠ .owners) : (takeContrib f).run c = .ok () e := by
  rw [takeContrib, if_pos howner]
  exact (run_bind_ok _ (run_update c _)).trans ((run_bind_ok _ hforward).trans (run_ownersCheck_not_owners hphase))

variable {turn : Bool} {staged : List ContribF} (hturn : (contribTurn f).run c = .ok turn c) (hstaged : (c.stagedOf f.sender).run c = .ok staged c)
include hturn hstaged

theorem run_stageContrib_admitted (hadmit : turn = true ∨ c.ShareHolds f staged) :
    (stageContrib f).run c = .ok true ((c.keepContrib f).answerFrame f.sender f.round opContrib stOk) := by
  refine (run_bind_ok _ (run_get c)).trans ((run_bind_ok _ hturn).trans ((run_bind_ok _ hstaged).trans ?_))
  rw [if_pos (by simpa [Core.ShareHolds] using hadmit)]
  rfl

theorem run_stageContrib_refused (hearly : turn = false) (hfull : ¬ c.ShareHolds f staged) : (stageContrib f).run c = .ok false c := by
  refine (run_bind_ok _ (run_get c)).trans ((run_bind_ok _ hturn).trans ((run_bind_ok _ hstaged).trans ?_))
  rw [if_neg (by simpa [hearly, Core.ShareHolds] using hfull)]
  rfl

variable (howner : f.owner = false)
include howner

/-- A chunk that is taken in tells its sender and lets in what waits behind it. -/
theorem takeContrib_admitted {d e : Core} (hadmit : turn = true ∨ c.ShareHolds f staged) :
    let kept := (c.keepContrib f).answerFrame f.sender f.round opContrib stOk
    (admitHeld kept.crucible.stageHeld.length).run kept = .ok () d → roundCheck.run d = .ok () e → (takeContrib f).run c = .ok () e := by
  intro kept hadmits hround
  rw [takeContrib, if_neg (by simp [howner])]
  refine (run_bind_ok _ (run_stageContrib_admitted hturn hstaged hadmit)).trans ?_
  exact (run_bind_ok _ (run_get kept)).trans ((run_bind_ok _ hadmits).trans hround)

theorem takeContrib_held {e : Core} (hearly : turn = false) (hfull : ¬ c.ShareHolds f staged) (hround : roundCheck.run (c.holdContrib f) = .ok () e) :
    (takeContrib f).run c = .ok () e := by
  rw [takeContrib, if_neg (by simp [howner])]
  exact (run_bind_ok _ (run_stageContrib_refused hturn hstaged hearly hfull)).trans ((run_bind_ok _ (run_update c _)).trans hround)

end

theorem contrib_becomes {s : State} {w : Head} {f : ContribF} {e : Core} (hhalted : s.core.halted = false) (harrives : s.Arrives w vcBulk (.contrib w f))
    (htakes : (takeContrib f).run (s.accept w vcBulk (s.core.contribLength f)).core = .ok () e) :
    (s.accept w vcBulk (s.core.contribLength f)).Becomes (exec (.contrib w f) s) e :=
  harrives.becomes hhalted (fun _ => rfl) (Core.runCrucible_ok htakes)

end Sys2Proof.Machine
end

section
/-!
PROOFS. GATHER_GRANULE: a marker, a granule that lands, and the last one of an image (R305, R306; entry 70).
-/

namespace Sys2Proof.Machine

/-! What follows an image's granule in a state where nothing waits for it. -/

theorem run_gatherCheck_not_gather {c : Core} (hphase : c.crucible.phase ≠ .gather) : gatherCheck.run c = .ok () c := by
  have hother : (c.crucible.phase != .gather) = true := by simpa using hphase
  simp only [gatherCheck, run_bind, run_get, hother, if_true, run_pure]

theorem run_serveReady_none_closing {c : Core} (hopen : ∀ x ∈ c.bellows.windows, x.closing = false) : serveReady.run c = .ok () c := by
  have hnone : c.bellows.windows.filter (·.closing) = [] := List.filter_eq_nil_iff.mpr fun x hx => by simp [hopen x hx]
  rw [serveReady, run_bind_ok _ (run_get c), hnone]
  rfl

/-- A matrix's image is here for a step. -/
def Core.imageEnded (c : Core) (f : GatherF) : Core :=
  c.modCru (fun x => { x with finished := kvPut x.finished f.matrix f.step, landed := kvDel x.landed f.matrix })

/-- A granule of an image has landed, with those that landed before. -/
def Core.granuleLanded (c : Core) (f : GatherF) (before : List Nat) : Core :=
  c.modCru (fun x => { x with landed := kvPut x.landed f.matrix (f.index :: before) })

/-- An image of a step to come is kept for its record. -/
def Core.keepImage (c : Core) (f : GatherF) : Core := c.modCru (fun x => { x with imaged := x.imaged ++ [(f.matrix, f.step)] })

/-- A step above every one that has been refused or run (entry 70). -/
def Core.stepToCome (c : Core) (step : Nat) : Prop := ∀ last, c.crucible.lastRun = some last → last < step

theorem Core.all_lastRun_iff (c : Core) (step : Nat) : c.crucible.lastRun.all (fun last => decide (last < step)) = true ↔ c.stepToCome step := by
  simp [Core.stepToCome, Option.all_eq_true]

/-- A step has begun: its record is here. -/
def Core.HasBegun (c : Core) (step : Nat) : Prop := c.stepRec.step = step ∧ (c.crucible.phase ≠ .idle ∨ c.crucible.lastDone = some step)

theorem Core.stepBegun_iff (c : Core) (step : Nat) : c.stepBegun step = true ↔ c.HasBegun step := by
  simp [Core.stepBegun, Core.HasBegun]

section
variable {d : Core} {gs : List (Nat × Nat × Nat)} {group : Nat} (hgroups : gatherGroups.run d = .ok gs d)
include hgroups

theorem run_groupListed (hlisted : ∃ x ∈ gs, x.1 = group) : (groupListed group).run d = .ok () d := by
  rw [groupListed, run_bind_ok _ hgroups, run_require, if_pos (by simpa using hlisted)]

theorem run_groupListed_not (hlisted : ¬ ∃ x ∈ gs, x.1 = group) : (groupListed group).run d = .error { cls := 0, status := stFormat } d := by
  rw [groupListed, run_bind_ok _ hgroups, run_require, if_neg (by simpa using hlisted)]

end

/-- The last granule of an image, once it has landed: the record of a step that has begun must list the matrix's group, an image of a step to come is
kept, and either way the matrix is finished. -/
def endImage (c : Core) (group : Nat) (f : GatherF) : OpM Unit := do
  if c.stepBegun f.step then groupListed group
  else if c.crucible.lastRun.all (fun last => decide (last < f.step)) then update (fun d => d.keepImage f)
  else pure ()
  update (fun d => d.imageEnded f)

section
variable {c d : Core} {group : Nat} {f : GatherF}

theorem run_endImage_listed (hbegun : c.HasBegun f.step) (hlisted : (groupListed group).run d = .ok () d) :
    (endImage c group f).run d = .ok () (d.imageEnded f) := by
  rw [endImage, if_pos ((Core.stepBegun_iff c _).mpr hbegun), run_bind_ok _ hlisted, run_update]

theorem run_endImage_unlisted {e : FaultReq} (hbegun : c.HasBegun f.step) (hlisted : (groupListed group).run d = .error e d) :
    (endImage c group f).run d = .error e d := by
  rw [endImage, if_pos ((Core.stepBegun_iff c _).mpr hbegun), run_bind, hlisted]

theorem run_endImage_ahead (hbegun : ¬ c.HasBegun f.step) (hahead : c.stepToCome f.step) : (endImage c group f).run d = .ok () ((d.keepImage f).imageEnded f) := by
  rw [endImage, if_neg (mt (Core.stepBegun_iff c _).mp hbegun), if_pos ((Core.all_lastRun_iff c _).mpr hahead)]
  rfl

theorem run_endImage_behind (hbegun : ¬ c.HasBegun f.step) (hahead : ¬ c.stepToCome f.step) : (endImage c group f).run d = .ok () (d.imageEnded f) := by
  rw [endImage, if_neg (mt (Core.stepBegun_iff c _).mp hbegun), if_neg (mt (Core.all_lastRun_iff c _).mp hahead)]
  rfl

end

/-- The granules of an image. -/
def Core.imageGranules (c : Core) (m : MatrixEnt) : Nat := ceilDiv (m.imageBytes (c.rule m.rule).op) 4096

section
variable {c : Core} {f : GatherF} {m : MatrixEnt} (hmatrix : (readMatrix f.matrix).run c = .ok m c)
include hmatrix

/-- A marker finishes its matrix for the step (R305). -/
theorem run_landGather_noChange (hmarker : f.noChange = true) :
    (landGather f).run c = .ok () (c.modCru (fun x => { x with finished := kvPut x.finished f.matrix f.step })) := by
  refine (run_bind_ok _ (run_get c)).trans ((run_bind_ok _ (run_cruFault_ok hmatrix)).trans (run_cruFault_ok ?_))
  simp only [hmarker, if_true, run_update]

section
variable {c1 : Core} {old : List Nat} (hbytes : f.noChange = false)
  (hput : (blockPut (m.copyBase + 4096 * f.index) (f.data.take 4096)).run c = .ok () c1)
  (hold : (kvGet c.crucible.landed f.matrix).getD [] = old) (hnew : f.index ∉ old)
include hbytes hput hold hnew

/-- A granule that is new lands in the copy; the last one of its image ends it. -/
theorem run_landGather_new : (landGather f).run c =
    (cruFault m.shard 8 f.step (if c.imageGranules m ≤ old.length + 1 then endImage c m.group f else pure ())).run (c1.granuleLanded f old) := by
  refine (run_bind_ok _ (run_get c)).trans ((run_bind_ok _ (run_cruFault_ok hmatrix)).trans (run_cruFault_congr ?_))
  have hgot : (if old.contains f.index = true then old else f.index :: old) = f.index :: old := if_neg (by simpa using hnew)
  simp only [hbytes, Bool.false_eq_true, if_false, run_bind_ok _ hput, hold, hgot]
  exact (run_bind_ok _ (run_update c1 _)).trans rfl

theorem run_landGather_notLast (hpart : ¬ c.imageGranules m ≤ old.length + 1) : (landGather f).run c = .ok () (c1.granuleLanded f old) := by
  rw [run_landGather_new hmatrix hbytes hput hold hnew, if_neg hpart]
  exact run_cruFault_ok (run_pure _ _)

variable (hwhole : c.imageGranules m ≤ old.length + 1)
include hwhole

theorem run_landGather_last {g : Core} (hend : (endImage c m.group f).run (c1.granuleLanded f old) = .ok () g) : (landGather f).run c = .ok () g := by
  rw [run_landGather_new hmatrix hbytes hput hold hnew, if_pos hwhole, run_cruFault_ok hend]

/-- The last granule of an image whose group the step's record does not list is a fault of phase 8 (R306). -/
theorem run_landGather_unlisted (hend : (endImage c m.group f).run (c1.granuleLanded f old) = .error { cls := 0, status := stFormat } (c1.granuleLanded f old)) :
    (landGather f).run c = .error (m.formatFault 8 f.step) (c1.granuleLanded f old) := by
  rw [run_landGather_new hmatrix hbytes hput hold hnew, if_pos hwhole, run_cruFault, hend]
  rfl

end

end

theorem run_forwardGather_noChange {c : Core} {f : GatherF} (hmarker : f.noChange = true) : (forwardGather f).run c = .ok () c := by
  rw [forwardGather, run_bind_ok _ (run_get c), if_pos hmarker, run_pure]

/-! What it comes to. -/

section
variable {s : State} {w : Head} {f : GatherF} (hhalted : s.core.halted = false) (harrives : s.Arrives w vcBulk (.gatherGranule w f))
include hhalted harrives

/-- A granule that has landed and gone on is all that happens, where no gather waits for it and no merge window has ended. -/
theorem gatherGranule_becomes {g e : Core} (hland : (landGather f).run (s.accept w vcBulk f.data.length).core = .ok () g)
    (hforward : (forwardGather f).run g = .ok () e) (hphase : e.crucible.phase ≠ .gather) (hopen : ∀ x ∈ e.bellows.windows, x.closing = false) :
    (s.accept w vcBulk f.data.length).Becomes (exec (.gatherGranule w f) s) e := by
  refine harrives.becomes hhalted (fun _ => rfl) (Core.runCrucible_ok ?_)
  rw [run_bind_ok _ hland, run_bind_ok _ hforward, run_bind_ok _ (run_gatherCheck_not_gather hphase), run_serveReady_none_closing hopen]

theorem gatherGranule_faulted {m : MatrixEnt} {d : Core}
    (hland : (landGather f).run (s.accept w vcBulk f.data.length).core = .error (m.formatFault 8 f.step) d) :
    (s.accept w vcBulk f.data.length).Becomes (exec (.gatherGranule w f) s)
      (d.raise { m.formatFault 8 f.step with who := s.core.crucible.origin.toList }) := by
  rw [← State.accept_crucible s w vcBulk f.data.length]
  refine harrives.becomes hhalted (fun _ => rfl) (Core.runCrucible_faulted ?_ rfl rfl)
  rw [run_bind, hland]

end

/-! What the Crucible knows of a step. -/

section
variable {c d : Core} (hcrucible : c.crucible = d.crucible) (step : Nat)
include hcrucible

theorem Core.hasBegun_congr : c.HasBegun step ↔ d.HasBegun step := by
  rw [Core.HasBegun, Core.HasBegun, Core.stepRec, Core.stepRec, hcrucible]

theorem Core.stepToCome_congr : c.stepToCome step ↔ d.stepToCome step := by
  rw [Core.stepToCome, Core.stepToCome, hcrucible]

end

/-- Settles O40: an announce is judged by its tiles alone once the rest is in order, a chunk is staged as the run of `stageContrib` says, and the last granule of
an image ends it as its step stands. -/
theorem crucibleInputsAreKept : Obligations.CrucibleInputsAreKept := by
  unfold Obligations.CrucibleInputsAreKept
  refine ⟨?_, ?_, ?_, ?_⟩
  · intro s g record m hhalted hfree b n id step part tiles t hmatrix hlow hhigh hdense hdesc hpresent hcols hrows hflat2 hflat3 hstep same broken
    have hannounces : s.core.AnnounceInOrder (s.core.agentWho g) b m :=
      ⟨hfree.lentRun_of_actor, hmatrix, hlow, hhigh, hdense, hdesc, hpresent, hcols, hrows, hflat2, hflat3, hstep⟩
    have hrun := hannounces.run_announceOp
    refine ⟨fun hnone hfits => ?_, fun old hold hfits => ?_, fun old hold htoo => ?_⟩
    · have hnew : s.core.crucible.announced.find? (announcedPart (s.core.agentWho g) b).samePart = none := hnone
      rw [Core.tilesWith_new hnew, Core.addPart_new hnew] at hrun
      exact announce_becomes hhalted (runAgent_ok hfree (hrun.trans (if_pos hfits)))
    all_goals
      have hsame : s.core.crucible.announced.find? (announcedPart (s.core.agentWho g) b).samePart = some old := hold
      rw [Core.tilesWith_old hsame, Core.addPart_old hsame] at hrun
    · exact announce_becomes hhalted (runAgent_ok hfree (hrun.trans (if_pos hfits)))
    · have hfault : (announceOp (s.core.agentWho g) b).run s.core = .error broken s.core := hrun.trans (if_neg (Nat.not_le.mpr htoo))
      refine ⟨fun h hg => ?_, fun o hg => ?_⟩
      · subst hg
        obtain ⟨htongs, -⟩ := hfree
        exact announce_becomes hhalted (runAgent_hearth_faulted htongs hfault rfl)
      · subst hg
        exact announce_becomes hhalted (runAgent_host_faulted hfault rfl)
  · intro s h record hhalted hfree hlent
    exact announce_becomes hhalted (runAgent_hearth_breach hfree (run_announceOp_lent hlent))
  · intro s w f hhalted hphase harrives a keep
    have hcrucible : a.core.crucible = s.core.crucible := State.accept_crucible _ _ _ _
    have hphase' : a.core.crucible.phase ≠ .owners := by rwa [hcrucible]
    refine ⟨?_, ?_⟩
    · intro e howner hforward hkept
      exact contrib_becomes hhalted harrives (takeContrib_owner howner hforward (by rw [hkept]; exact hphase'))
    · intro turn staged howner hturn hstaged room
      have hstaged' : (a.core.stagedOf f.sender).run a.core = .ok staged a.core := by
        rw [Core.stagedOf, hcrucible]
        exact hstaged
      refine ⟨?_, ?_⟩
      · intro hadmit c d e hadmits hround
        exact contrib_becomes hhalted harrives (takeContrib_admitted hturn hstaged' howner hadmit hadmits hround)
      · intro hearly hfull c e hround
        exact contrib_becomes hhalted harrives (takeContrib_held hturn hstaged' howner hearly hfull hround)
  · intro s w f m hhalted hphase hopen harrives a hmatrix
    have hcrucible : a.core.crucible = s.core.crucible := State.accept_crucible _ _ _ _
    have hphase' : a.core.crucible.phase ≠ .gather := by rwa [hcrucible]
    have hopen' : ∀ x ∈ a.core.bellows.windows, x.closing = false := by rwa [State.accept_bellows]
    refine ⟨?_, ?_⟩
    · intro hmarker
      exact gatherGranule_becomes hhalted harrives (run_landGather_noChange hmatrix hmarker) (run_forwardGather_noChange hmarker) hphase' hopen'
    · intro c hbytes hput old hnew hkept hbellows d whole listed ended begun ahead goesOn
      have hold : (kvGet a.core.crucible.landed f.matrix).getD [] = old := by rw [hcrucible]
      have hbegun : a.core.HasBegun f.step ↔ begun := Core.hasBegun_congr hcrucible f.step
      have hahead : a.core.stepToCome f.step ↔ ahead := Core.stepToCome_congr hcrucible f.step
      have hgoes : ∀ g : Core, g.crucible.phase = c.crucible.phase → g.bellows = c.bellows → (landGather f).run a.core = .ok () g → goesOn g := by
        intro g hgphase hgbellows hland e hforward hecrucible hebellows
        refine gatherGranule_becomes hhalted harrives hland hforward ?_ ?_
        · rw [hecrucible, hgphase, hkept]
          exact hphase
        · rw [hebellows, hgbellows, hbellows]
          exact hopen
      refine ⟨fun hpart => ?_, fun hwhole hb => ?_, fun hwhole hb => ?_, fun hwhole hb ha => ?_, fun hwhole hb ha => ?_⟩
      · exact hgoes d rfl rfl (run_landGather_notLast hmatrix hbytes hput hold hnew hpart)
      · rintro ⟨gs, hgroups, hlisted⟩
        exact hgoes _ rfl rfl (run_landGather_last hmatrix hbytes hput hold hnew hwhole
          (run_endImage_listed (hbegun.mpr hb) (run_groupListed hgroups (hlisted.mpr trivial))))
      · rintro ⟨gs, hgroups, hlisted⟩
        have hland : (landGather f).run a.core = .error (m.formatFault 8 f.step) d := run_landGather_unlisted hmatrix hbytes hput hold hnew hwhole
          (run_endImage_unlisted (hbegun.mpr hb) (run_groupListed_not hgroups hlisted.mp))
        exact gatherGranule_faulted hhalted harrives hland
      · exact hgoes _ rfl rfl (run_landGather_last hmatrix hbytes hput hold hnew hwhole (run_endImage_ahead (mt hbegun.mp hb) (hahead.mpr ha)))
      · exact hgoes _ rfl rfl (run_landGather_last hmatrix hbytes hput hold hnew hwhole (run_endImage_behind (mt hbegun.mp hb) (mt hahead.mp ha)))

end Sys2Proof.Machine
end

section
/-!
PROOFS. The Y slot (R124): how an operation that finds its queue empty runs, and what it leaves of the Hearth.
-/

namespace Sys2Proof.Machine

theorem Core.modHearth_modHearth (c : Core) (h : Nat) (f g : Hearth → Hearth) : (c.modHearth h f).modHearth h g = c.modHearth h (fun x => g (f x)) := by
  simp only [Core.modHearth, Core.setHearth, Core.hearth, kvPut_kvPut, kvGet_kvPut_same, Option.getD_some]

theorem Core.modHearth_congr {c : Core} {h : Nat} {f g : Hearth → Hearth} (hx : f (c.hearth h) = g (c.hearth h)) : c.modHearth h f = c.modHearth h g := by
  simp only [Core.modHearth, hx]

theorem Core.Same.trans {c d e : Core} (hcd : Core.Same c d) (hde : Core.Same d e) : Core.Same c e := by
  obtain ⟨hhearth, hsmithy, hport, hcounter, hd⟩ := hcd
  obtain ⟨khearth, ksmithy, kport, kcounter, he⟩ := hde
  refine ⟨fun h => (khearth h).trans (hhearth h), fun i => (ksmithy i).trans (hsmithy i), fun q => (kport q).trans (hport q),
    fun k => (kcounter k).trans (hcounter k), ?_⟩
  rw [hd] at he
  exact he

theorem State.Becomes.of_same {s : State} {o : Host.Outcome State Fault Refusal} {c d : Core} (h : s.Becomes o d) (hcd : Core.Same c d) : s.Becomes o c := by
  obtain ⟨t, ho, hsame, ht⟩ := h
  exact ⟨t, ho, hcd.trans hsame, ht⟩

/-! A Hearth's Y queue. -/

/-- A Hearth's Y queue given. -/
def Core.setYq (c : Core) (h : Nat) (l : List YOp) : Core := c.modHearth h (fun x => { x with yq := l })

section
variable (c : Core) (h : Nat) (l m : List YOp)

@[simp] theorem Core.setYq_hearth : (c.setYq h l).hearth h = { c.hearth h with yq := l } := Core.hearth_modHearth_same c h _

theorem Core.setYq_hearth_other {j : Nat} (hj : j ≠ h) : (c.setYq h l).hearth j = c.hearth j := (Core.hearth_modHearth c h j _).trans (if_neg hj)

@[simp] theorem Core.setYq_setYq : (c.setYq h l).setYq h m = c.setYq h m := Core.modHearth_modHearth c h _ _

@[simp] theorem Core.setYq_yDone (y : YOp) : (c.setYq h (y :: l)).yDone h = c.setYq h l := Core.modHearth_modHearth c h _ _

@[simp] theorem Core.setYq_yHold (x y : YOp) : (c.setYq h (y :: l)).yHold h x = c.setYq h (x :: l) := Core.modHearth_modHearth c h _ _

@[simp] theorem Core.setYq_dram : (c.setYq h l).dram = c.dram := rfl

variable {c h l}

/-- A queue given as it is changes nothing that is read. -/
theorem Core.same_setYq (hq : (c.hearth h).yq = l) : Core.Same c (c.setYq h l) := by
  refine ⟨fun j => ?_, fun _ => rfl, fun _ => rfl, fun _ => rfl, rfl⟩
  by_cases hj : j = h
  · subst hj
    rw [Core.setYq_hearth, ← hq]
  · exact Core.setYq_hearth_other c h l hj

theorem Core.Own.setYq (ho : c.Own h) : (c.setYq h l).Own h := by
  obtain ⟨hlent, hlending⟩ := ho
  exact ⟨by rw [Core.setYq_hearth]; exact hlent, hlending⟩

end

/-! The queue moves on (R124). -/

/-- A queue of one operation that completes, or stays as one that waits, has moved on as far as it can. -/
theorem run_yPump {c d : Core} {h : Nat} {y : YOp} (n : Nat) (hq : (c.hearth h).yq = [y]) (hrun : (yHead h).run c = .ok () d)
    (hleft : (d.hearth h).yq.length ≤ 1) : (yPump h (n + 2)).run c = .ok () d := by
  simp only [yPump, run_bind, run_get, hq, List.length_singleton, hrun, run_ite, run_pure]
  by_cases hnone : (d.hearth h).yq.length = 0
  · simp [hnone]
  · have hone : (d.hearth h).yq.length = 1 := by omega
    simp [hone]

theorem run_yPump_faulted {c d : Core} {h : Nat} {y : YOp} {f : FaultReq} (n : Nat) (hq : (c.hearth h).yq = [y]) (hrun : (yHead h).run c = .error f d) :
    (yPump h (n + 1)).run c = .error f d := by
  simp [yPump, hq, hrun]

theorem State.Syncs.yq_empty {s : State} {h : Nat} {op : SlotOp} (hs : s.Syncs h op) : (s.core.hearth h).yq = [] := by
  obtain ⟨-, -, hempty⟩ := hs
  exact hempty

section
variable {s : State} {h : Nat} {op : SlotOp} {y : YOp} {d : Core} (hs : s.Syncs h op) (hy : s.core.yOpOf s.core h op = some y) (hwait : y.isWait = false)
include hs hy hwait

/-- An operation of the Y slot that finds its queue empty goes to its head and runs at once. -/
theorem State.Syncs.issueY_eq : s.core.gated (fun c => c.issueY h op) = (s.core.perform h 4 (fun c => c) (do
    update (fun c => c.setYq h [y])
    yPump h 5)) := by
  obtain ⟨hhalted, hcan, hempty⟩ := hs
  have hqueued : s.core.modHearth h (fun x => { x with yq := x.yq ++ [y] }) = s.core.setYq h [y] := Core.modHearth_congr (by simp [hempty])
  have hissue : (yIssue h y).run s.core = (do
      update (fun c => c.setYq h [y])
      yPump h 5 : OpM Unit).run s.core := by
    rw [run_bind_ok _ (run_update _ _), ← hqueued]
    cases y with
    | wait => cases hwait
    | _ => rfl
  rw [Core.gated_of_not_halted _ hhalted]
  simp only [Core.issueY, hcan, hy, Bool.not_true, Bool.false_eq_true, if_false]
  exact perform_congr hissue

theorem State.Syncs.issues (hrun : (yHead h).run (s.core.setYq h [y]) = .ok () d) (hleft : (d.hearth h).yq.length ≤ 1) :
    s.core.gated (fun c => c.issueY h op) = d := by
  rw [hs.issueY_eq hy hwait]
  refine perform_ok _ ?_
  rw [run_bind_ok _ (run_update _ _)]
  exact run_yPump 3 (by rw [Core.setYq_hearth]) hrun hleft

theorem State.Syncs.issues_faulted {f : FaultReq} (hrun : (yHead h).run (s.core.setYq h [y]) = .error f d) (hhold : f.cls ≠ clsHold) (hbreach : f.cls ≠ clsBreach) :
    s.core.gated (fun c => c.issueY h op) = d.lessonFault h 4 f := by
  rw [hs.issueY_eq hy hwait]
  refine perform_faulted _ ?_ hhold hbreach
  rw [run_bind_ok _ (run_update _ _)]
  exact run_yPump_faulted 4 (by rw [Core.setYq_hearth]) hrun

/-- An operation that completes leaves what it did of the state, and its queue as empty as it was. -/
theorem State.Syncs.becomes_done {e : Core} (hrun : (yHead h).run (s.core.setYq h [y]) = .ok () (e.setYq h [])) (hempty : (e.hearth h).yq = []) :
    s.Becomes (.next { s with core := s.core.gated (fun c => c.issueY h op) }) e :=
  (State.becomes_of_eq (by rw [hs.issues hy hwait hrun (by simp)])).of_same (Core.same_setYq hempty)

/-- An operation that waits stays at the queue's head. -/
theorem State.Syncs.becomes_waiting {e : Core} {x : YOp} (hrun : (yHead h).run (s.core.setYq h [y]) = .ok () (e.setYq h [x])) :
    s.Becomes (.next { s with core := s.core.gated (fun c => c.issueY h op) }) (e.setYq h [x]) :=
  State.becomes_of_eq (by rw [hs.issues hy hwait hrun (by simp)])

end

end Sys2Proof.Machine
end

section
/-!
PROOFS. SIGNAL and SUB (R120, R309 to R315): the Tallies that an operation may name, its two ends at a Tally of this device, and a signal to another.
-/

namespace Sys2Proof.Machine

/-! Tallies (R311, R313). -/

section
variable {t : Tally} {n : Nat}

theorem Tally.signal_over (hover : t.overSet = true) : t.signal n = t := by simp [Tally.signal, hover]

theorem Tally.signal_fits (hover : t.overSet = false) (hfits : t.value + n ≤ 0xFFFFFFFF) : t.signal n = { t with value := t.value + n } := by
  have hroom : ¬ max32 < t.value + n := Nat.not_lt.mpr hfits
  simp [Tally.signal, hover, hroom]

theorem Tally.signal_sticks (hover : t.overSet = false) (hfull : 0xFFFFFFFF < t.value + n) : t.signal n = { t with value := 0xFFFFFFFF, overSet := true } := by
  rw [Tally.signal, if_neg (by simp [hover]), if_pos (show max32 < t.value + n from hfull)]
  rfl

theorem Tally.sub_over (hover : t.overSet = true) : t.sub n = t := by simp [Tally.sub, hover]

theorem Tally.sub_fits (hover : t.overSet = false) (hfits : n ≤ t.value) : t.sub n = { t with value := t.value - n } := by
  simp [Tally.sub, hover, Nat.not_lt.mpr hfits]

theorem Tally.sub_under (hover : t.overSet = false) (hless : t.value < n) : t.sub n = { t with value := 0, underSet := true } := by
  simp [Tally.sub, hover, hless]

end

theorem Core.tally_setTally (c : Core) (scope unit i : Nat) (t : Tally) : (c.setTally scope unit i t).tally scope unit i = t := by
  unfold Core.tally Core.setTally
  split <;> simp [spGet_spPut]

section
variable {c : Core} {scope unit i n : Nat}

/-- A signal that leaves OVER as it was sets its Tally and nothing else (R311). -/
theorem run_signalTally {t : Tally} (ht : (c.tally scope unit i).signal n = t) (hover : t.overSet = (c.tally scope unit i).overSet) :
    (signalTally scope unit i n).run c = .ok () (c.setTally scope unit i t) := by
  simp [signalTally, ht, hover]

/-- A signal that reaches OVER is a SYNC fault (R311, Table 16-3). -/
theorem run_signalTally_sticks (hover : (c.tally scope unit i).overSet = false) (hfull : 0xFFFFFFFF < (c.tally scope unit i).value + n) :
    (signalTally scope unit i n).run c = .error { cls := clsSync, status := stTallyOver, unit := i, detail := scope }
      (c.setTally scope unit i { c.tally scope unit i with value := 0xFFFFFFFF, overSet := true }) := by
  simp [signalTally, Tally.signal_sticks hover hfull, hover]

theorem Core.subTally_under (hover : (c.tally scope unit i).overSet = false) (hless : (c.tally scope unit i).value < n) :
    c.subTally scope unit i n = (c.setTally scope unit i { c.tally scope unit i with value := 0, underSet := true }).bump (underCounter scope unit) := by
  simp [Core.subTally, Tally.sub_under hover hless, hover, hless]

/-- A subtract that its Tally holds, or one at a Tally that is OVER, sets the Tally and counts nothing (R311, R313). -/
theorem Core.subTally_holds {t : Tally} (ht : (c.tally scope unit i).sub n = t) (hholds : (c.tally scope unit i).overSet = true ∨ n ≤ (c.tally scope unit i).value) :
    c.subTally scope unit i n = c.setTally scope unit i t := by
  have hnone : (!(c.tally scope unit i).overSet && decide ((c.tally scope unit i).value < n)) = false := by
    rcases hholds with h | h <;> simp [h]
  simp [Core.subTally, ht, hnone]

end

/-! A Hearth's own Tallies, its Smithy's and the fabric's, and its Y queue. -/

section
variable (c : Core) (h : Nat) (l : List YOp) (scope i : Nat)

theorem Core.setYq_tally (unit : Nat) : (c.setYq h l).tally scope unit i = c.tally scope unit i := by
  unfold Core.tally
  split
  · by_cases hj : unit = h
    · rw [hj, Core.setYq_hearth]
    · rw [Core.setYq_hearth_other c h l hj]
  · rfl
  · rfl

theorem Core.setYq_setTally (t : Tally) : (c.setYq h l).setTally scope (scopeUnit h scope) i t = (c.setTally scope (scopeUnit h scope) i t).setYq h l := by
  unfold Core.setTally scopeUnit
  split
  · simp only [Core.setYq, Core.modHearth_modHearth]
  · rfl
  · rfl

theorem Core.setYq_subTally (n : Nat) : (c.setYq h l).subTally scope (scopeUnit h scope) i n = (c.subTally scope (scopeUnit h scope) i n).setYq h l := by
  unfold Core.subTally
  simp only [Core.setYq_tally, Core.setYq_setTally]
  split <;> rfl

variable {scope i} in
/-- A Tally given a state changes no Hearth but for its Tallies. -/
theorem Core.setTally_hearth (unit : Nat) (t : Tally) : ∃ ts, (c.setTally scope unit i t).hearth h = { c.hearth h with tallies := ts } := by
  unfold Core.setTally
  split
  · rw [Core.hearth_modHearth]
    split
    · next hj => exact ⟨_, by rw [hj]⟩
    · exact ⟨_, rfl⟩
  · exact ⟨_, rfl⟩
  · exact ⟨_, rfl⟩

variable {c h} in
theorem Core.setTally_yq (unit : Nat) (t : Tally) : ((c.setTally scope unit i t).hearth h).yq = (c.hearth h).yq := by
  obtain ⟨ts, hx⟩ := c.setTally_hearth h (scope := scope) (i := i) unit t
  rw [hx]

@[simp] theorem Core.setTally_dram (unit : Nat) (t : Tally) : (c.setTally scope unit i t).dram = c.dram := by
  unfold Core.setTally
  split <;> rfl

@[simp] theorem Core.setTally_route (unit : Nat) (t : Tally) : (c.setTally scope unit i t).route = c.route := by
  unfold Core.setTally
  split <;> rfl

theorem Core.subTally_yq (unit n : Nat) : ((c.subTally scope unit i n).hearth h).yq = (c.hearth h).yq := by
  simp only [Core.subTally]
  split <;> exact Core.setTally_yq ..

variable {c h scope i} in
theorem Core.TallyAllowed.setYq (ha : c.TallyAllowed h scope i) : (c.setYq h l).TallyAllowed h scope i := by
  unfold Core.TallyAllowed at ha ⊢
  rw [Core.setYq_hearth]
  exact ha

variable {c h i} in
/-- A lent item uses its eight Tallies; the Hearth's own run leaves them alone while it lends (R137). -/
theorem run_checkLocalTally (ha : if (c.hearth h).lentRun.isSome then 56 ≤ i else c.lending h = false ∨ i < 56) :
    (checkLocalTally h i).run c = .ok () c := by
  rw [checkLocalTally, run_bind_ok _ (run_get c)]
  by_cases hlent : (c.hearth h).lentRun.isSome = true
  · rw [if_pos hlent] at ha ⊢
    simp [ha]
  · rw [if_neg hlent] at ha ⊢
    rcases ha with hown | hlow
    · simp [hown]
    · simp [hlow]

variable {c h scope i} in
/-- R137 and R314 let an operation through at a Tally that it may name. -/
theorem Core.TallyAllowed.run_checkTally (ha : c.TallyAllowed h scope i) (op : Nat) : (checkTally h scope i op).run c = .ok () c := by
  match scope, ha with
  | 0, ha => exact run_checkLocalTally ha
  | 1, ha => exact run_refuseLent ha
  | _ + 2, ha =>
    obtain ⟨hlent, howned⟩ := ha
    have htenant : c.runTenant h = c.hearthTenant h := by simp [Core.runTenant, hlent]
    refine (run_bind_ok _ (run_refuseLent hlent)).trans ((run_bind_ok _ (run_get c)).trans ?_)
    rw [htenant, howned]
    rfl

end

end Sys2Proof.Machine
end

section
/-!
PROOFS. A fault of an operation of a Lesson leaves every Tally and the log's last record as they are: what stands behind the fault's own record is vectors, the
restart wave and the end of the run (R128, R447 to R453, R507).
-/

namespace Sys2Proof.Machine

/-- `d` holds the Tallies and the fault log of `c`, and no Hearth runs in it that does not run in `c`. -/
structure Core.KeepsTallies (c d : Core) : Prop where
  tally : ∀ scope unit i, d.tally scope unit i = c.tally scope unit i
  stays : ∀ h, (c.hearth h).running = false → (d.hearth h).running = false
  log : d.mgt.faultLog = c.mgt.faultLog

theorem Core.KeepsTallies.refl (c : Core) : c.KeepsTallies c := ⟨fun _ _ _ => rfl, fun _ h => h, rfl⟩

theorem Core.KeepsTallies.trans {c d e : Core} (hcd : c.KeepsTallies d) (hde : d.KeepsTallies e) : c.KeepsTallies e :=
  ⟨fun scope unit i => (hde.tally scope unit i).trans (hcd.tally scope unit i), fun h hh => hde.stays h (hcd.stays h hh), hde.log.trans hcd.log⟩

/-- A change of none of the stores that hold Tallies. -/
theorem Core.KeepsTallies.of_stores {c d : Core} (hhearths : d.hearths = c.hearths) (hsmithies : d.smithies = c.smithies) (hsync : d.sync = c.sync)
    (hlog : d.mgt.faultLog = c.mgt.faultLog) : c.KeepsTallies d := by
  have hhearth : ∀ h, d.hearth h = c.hearth h := fun h => by rw [Core.hearth, hhearths]; rfl
  have hsmithy : ∀ m, d.smithy m = c.smithy m := fun m => by rw [Core.smithy, hsmithies]; rfl
  refine ⟨fun scope unit i => ?_, fun h hh => by rw [hhearth]; exact hh, hlog⟩
  unfold Core.tally
  rw [hhearth, hsmithy, hsync]

/-- A change of a Hearth that starts no run and touches none of its Tallies. -/
theorem Core.KeepsTallies.modHearth (c : Core) (h : Nat) {f : Hearth → Hearth} (ht : ∀ x, (f x).tallies = x.tallies)
    (hr : ∀ x : Hearth, x.running = false → (f x).running = false) : c.KeepsTallies (c.modHearth h f) := by
  refine ⟨fun scope unit i => ?_, fun j hj => ?_, rfl⟩
  · unfold Core.tally
    split
    · rw [Core.hearth_modHearth]
      split
      · next he => rw [ht, he]
      · rfl
    · rfl
    · rfl
  · rw [Core.hearth_modHearth]
    split
    · next he => exact hr _ (he ▸ hj)
    · exact hj

theorem Core.KeepsTallies.foldl {α : Type} {f : Core → α → Core} (hf : ∀ (c : Core) a, c.KeepsTallies (f c a)) (l : List α) (c : Core) :
    c.KeepsTallies (l.foldl f c) := by
  induction l generalizing c with
  | nil => exact .refl c
  | cons a l ih => exact (hf c a).trans (ih _)

/-! Records, vectors and the restart wave (R435, R449, R452, R453). -/

/-- `d` differs from `c` in nothing that holds a Tally or that the restart wave reads of the memory and the routes, and its log is that of `c`. -/
structure Core.WaveKeeps (c d : Core) : Prop where
  hearths : d.hearths = c.hearths
  smithies : d.smithies = c.smithies
  sync : d.sync = c.sync
  dram : d.dram = c.dram
  route : d.route = c.route
  log : d.mgt.faultLog = c.mgt.faultLog

theorem Core.WaveKeeps.refl (c : Core) : c.WaveKeeps c := ⟨rfl, rfl, rfl, rfl, rfl, rfl⟩

theorem Core.WaveKeeps.trans {c d e : Core} (hcd : c.WaveKeeps d) (hde : d.WaveKeeps e) : c.WaveKeeps e :=
  ⟨hde.hearths.trans hcd.hearths, hde.smithies.trans hcd.smithies, hde.sync.trans hcd.sync, hde.dram.trans hcd.dram, hde.route.trans hcd.route,
    hde.log.trans hcd.log⟩

theorem Core.WaveKeeps.keepsTallies {c d : Core} (h : c.WaveKeeps d) : c.KeepsTallies d := .of_stores h.hearths h.smithies h.sync h.log

theorem Core.vectorAll_waveKeeps (c : Core) (v : Nat) : c.WaveKeeps (c.vectorAll v) := by
  have hone : ∀ (d : Core) (q : Nat), d.WaveKeeps (if (d.port q).lost then d else d.msix q v) := fun d q => by
    split
    · exact .refl d
    · exact ⟨rfl, rfl, rfl, rfl, rfl, rfl⟩
  exact (hone c 0).trans (hone _ 1)

theorem Core.trySend_waveKeeps {c d : Core} {t : Txn} {vc : Nat} {data : List Byte} {die : Option Nat} (h : c.trySend t vc data die = some d) :
    c.WaveKeeps d := by
  simp only [Core.trySend] at h
  split at h
  · cases h
  · split at h
    · cases h
    · cases h
      exact ⟨rfl, rfl, rfl, rfl, rfl, rfl⟩

/-- With no generation-1 port a frame of a Roll call goes wherever there is a route, so the wave raises no fault of its own (R383, R452). -/
theorem Core.sendWave_waveKeeps {c : Core} (hgen : c.route.gen1 = []) (number origin status dst : Nat) : c.WaveKeeps (c.sendWave number origin status dst) := by
  unfold Core.sendWave
  split
  · next d hsent => exact Core.trySend_waveKeeps hsent
  · next hnone =>
    have hroute : c.outPort (c.srcName dst) dst = none := by
      cases hport : c.outPort (c.srcName dst) dst with
      | none => rfl
      | some p => simp [Core.trySend, packTxn, hport, hgen] at hnone
    rw [hroute]
    exact .refl c

theorem Core.sendWaves_waveKeeps (number origin status : Nat) (l : List Nat) {c : Core} (hgen : c.route.gen1 = []) :
    c.WaveKeeps (l.foldl (fun c k => c.sendWave number origin status k) c) := by
  induction l generalizing c with
  | nil => exact .refl c
  | cons k l ih =>
    have hsent := Core.sendWave_waveKeeps hgen number origin status k
    exact hsent.trans (ih (by rw [hsent.route]; exact hgen))

/-- A change of the management block alone that leaves the log. -/
theorem Core.WaveKeeps.of_mgt (c : Core) {m : Mgt} (hlog : m.faultLog = c.mgt.faultLog) : c.WaveKeeps { c with mgt := m } := ⟨rfl, rfl, rfl, rfl, rfl, hlog⟩

theorem Core.beginReset_waveKeeps (c : Core) (number : Nat) : c.WaveKeeps (c.beginReset number) := by
  unfold Core.beginReset
  split
  · exact .of_mgt c rfl
  · exact .refl c

theorem run_senseJob {c : Core} (herrors : c.dram.errors = []) : senseJob.run c = .ok () c := by
  rw [senseJob, run_bind_ok _ (run_get c)]
  exact run_senseHub c _ _ herrors

theorem Core.forwardWave_waveKeeps {c : Core} (herrors : c.dram.errors = []) (hgen : c.route.gen1 = []) (number origin status : Nat) (sender : Option Nat) :
    c.WaveKeeps (c.forwardWave number origin status sender) := by
  simp only [Core.forwardWave, run_senseJob herrors]
  split
  · refine .trans ?_ (Core.beginReset_waveKeeps _ _)
    split
    · exact .of_mgt c rfl
    · refine (Core.WaveKeeps.of_mgt c ?_).trans (Core.sendWaves_waveKeeps number origin status _ ?_)
      · rfl
      · exact hgen
  · split
    · exact .refl c
    · split
      · refine (Core.WaveKeeps.of_mgt c ?_).trans (Core.sendWave_waveKeeps ?_ ..)
        · rfl
        · exact hgen
      · exact .of_mgt c rfl

theorem Core.quiesce_waveKeeps {c : Core} (herrors : c.dram.errors = []) (hgen : c.route.gen1 = []) (number origin status : Nat) (sender : Option Nat) :
    c.WaveKeeps (c.quiesce number origin status sender) := by
  have hquiet := (Core.WaveKeeps.of_mgt c (m := { c.mgt with jobState := .quiesced, waveNum := number, waveOrigin := origin }) rfl).trans
    (Core.vectorAll_waveKeeps _ 64)
  exact hquiet.trans (Core.forwardWave_waveKeeps (by rw [hquiet.dram]; exact herrors) (by rw [hquiet.route]; exact hgen) ..)

/-! A fault (R447, R449, R507). -/

/-- The class and status of the last record of the fault log. -/
def Core.lastFault (c : Core) : Option (Nat × Nat) := (c.mgt.faultLog.getLast?).map (fun r => (r.req.cls, r.req.status))

theorem Core.lastFault_of_log {c d : Core} (h : d.mgt.faultLog = c.mgt.faultLog) : d.lastFault = c.lastFault := by rw [Core.lastFault, h]; rfl

theorem Core.lastFault_logFault (c : Core) (f : FaultReq) (origin wave : Nat) : (c.logFault f origin wave).lastFault = some (f.cls, f.status) := by
  simp [Core.lastFault, Core.logFault]

section
variable {c : Core} {f : FaultReq} (hcls : f.cls ≠ clsStorage) (hwho : f.who = [])
include hcls hwho

/-- A fault that is no STORAGE fault and names no descriptor is logged; no later record comes behind it. -/
theorem Core.noteFault_waveKeeps : ∃ origin wave, (c.logFault f origin wave).WaveKeeps (c.noteFault f) := by
  have hcount : c.countStorage f = c := by simp [Core.countStorage, hcls]
  simp only [Core.noteFault, hcount]
  split
  · rw [Core.endBlamed, hwho]
    exact ⟨_, _, Core.vectorAll_waveKeeps _ 64⟩
  · split
    · exact ⟨_, _, .of_mgt _ rfl⟩
    · exact ⟨_, _, .refl _⟩

theorem Core.raise_waveKeeps (herrors : c.dram.errors = []) (hgen : c.route.gen1 = []) :
    ∃ origin wave, (c.logFault f origin wave).WaveKeeps (c.raise f) := by
  obtain ⟨origin, wave, hnoted⟩ := Core.noteFault_waveKeeps (c := c) hcls hwho
  refine ⟨origin, wave, ?_⟩
  unfold Core.raise
  split
  · exact hnoted.trans (Core.quiesce_waveKeeps (by rw [hnoted.dram]; exact herrors) (by rw [hnoted.route]; exact hgen) ..)
  · exact hnoted

end

/-! The end of a run (R128, R433, R507). -/

theorem Core.complete_waveKeeps (c : Core) (o : Origin) (status data : Nat) : c.WaveKeeps (c.complete o status data) := by
  have hwrite : ∀ (d : Core) (q a : Nat) (b : List Byte), d.WaveKeeps (d.hostWrite q a b) := fun d q a b => by
    unfold Core.hostWrite
    split <;> exact ⟨rfl, rfl, rfl, rfl, rfl, rfl⟩
  have hring : ∀ (d : Core) (q r : Nat) (g : Ring → Ring), d.WaveKeeps (d.modRing q r g) := fun d q r g => ⟨rfl, rfl, rfl, rfl, rfl, rfl⟩
  have hirq : ∀ (d : Core) (q r pos : Nat), d.WaveKeeps (d.ringIrq q r pos) := fun d q r pos => by
    simp only [Core.ringIrq]
    split <;> exact ⟨rfl, rfl, rfl, rfl, rfl, rfl⟩
  simp only [Core.complete]
  split
  · exact .refl c
  · split
    · exact hring ..
    · split
      · exact (((hring c o.port o.ring _).trans (hwrite ..)).trans (hring ..)).trans (hirq ..)
      · exact ((hring c o.port o.ring _).trans (hwrite ..)).trans (hring ..)

theorem Core.completeStopped_keepsTallies (c : Core) (o : Origin) (status : Nat) : c.KeepsTallies (c.completeStopped o status) :=
  (Core.KeepsTallies.of_stores (c := c) (d := { c with free := c.free + 1 }) rfl rfl rfl rfl).trans (Core.complete_waveKeeps ..).keepsTallies

theorem Core.endClaims_keepsTallies (c : Core) (q r : Nat) (hs : List Nat) : c.KeepsTallies (c.endClaims q r hs) :=
  .foldl (fun c h => .modHearth c h (fun x => by split <;> rfl) (fun x hx => by split <;> exact hx)) hs c

theorem Core.memberEnd_keepsTallies (c : Core) (o : Origin) (h : Nat) (code : Option Nat) (status : Nat) : c.KeepsTallies (c.memberEnd o h code status) := by
  have hring : ∀ g : Ring → Ring, c.KeepsTallies (c.modRing o.port o.ring g) := fun g => .of_stores rfl rfl rfl rfl
  simp only [Core.memberEnd]
  split
  · exact hring _
  · split
    · exact hring _
    · refine .trans ?_ ((Core.endClaims_keepsTallies ..).trans (Core.complete_waveKeeps ..).keepsTallies)
      exact .of_stores rfl rfl rfl rfl

theorem Core.stopHearth_keepsTallies (c : Core) (h : Nat) : c.KeepsTallies (c.stopHearth h) := by
  have hstopped : c.KeepsTallies ((c.dropWaiter h).modHearth h Hearth.stopped) :=
    (show c.KeepsTallies (c.dropWaiter h) from ⟨fun _ _ _ => rfl, fun _ hh => hh, rfl⟩).trans (.modHearth _ h (fun _ => rfl) (fun _ _ => rfl))
  refine hstopped.trans ⟨fun scope unit i => ?_, fun _ hh => hh, rfl⟩
  have hheld : ∀ (l : List (Nat × Smithy)) (m : Nat), (((kvGet (l.map (fun s => (s.1, { s.2 with held := s.2.held.filter (fun p => p.1 != h) }))) m).getD {}) : Smithy).tallies =
      ((kvGet l m).getD {}).tallies := fun l m => by
    rw [kvGet_map (fun x : Smithy => { x with held := x.held.filter (fun p => p.1 != h) })]
    cases kvGet l m <;> rfl
  unfold Core.tally
  split
  · rfl
  · exact congrArg (fun t => spGet {} t i) (hheld _ unit)
  · rfl

/-- `d` holds the Tallies and the log of `c`, and a Hearth has stopped in it. -/
def Core.StopsHearth (c : Core) (h : Nat) (d : Core) : Prop := c.KeepsTallies d ∧ (d.hearth h).running = false

theorem Core.StopsHearth.after {c d e : Core} {h : Nat} (hd : c.StopsHearth h d) (he : d.KeepsTallies e) : c.StopsHearth h e := by
  obtain ⟨hkept, hstopped⟩ := hd
  exact ⟨hkept.trans he, he.stays h hstopped⟩

theorem Core.KeepsTallies.stopsHearth {c d e : Core} {h : Nat} (hd : c.KeepsTallies d) (he : d.StopsHearth h e) : c.StopsHearth h e := by
  obtain ⟨hkept, hstopped⟩ := he
  exact ⟨hd.trans hkept, hstopped⟩

theorem Core.stopHearth_stops (c : Core) (h : Nat) : c.StopsHearth h (c.stopHearth h) := by
  refine ⟨c.stopHearth_keepsTallies h, ?_⟩
  show (((c.dropWaiter h).modHearth h Hearth.stopped).hearth h).running = false
  rw [Core.hearth_modHearth_same]
  rfl

/-- A Hearth with no split part open stops and nothing more (R97). -/
theorem Core.stopParts_stops {c : Core} {h : Nat} (hparts : (c.hearth h).splitsOpen = []) (status : Nat) : c.StopsHearth h (c.stopParts h status) := by
  simp only [Core.stopParts, hparts, List.foldl_nil]
  refine ((c.stopHearth_stops h).after (.modHearth _ h (f := fun x => { x with lentRun := (c.hearth h).lentRun, picked := (c.hearth h).picked })
    (fun _ => rfl) (fun _ hx => hx))).after ?_
  exact .of_stores rfl rfl rfl rfl

/-- A SYNC fault of an operation of a Hearth with no split part open: its record is the log's last, the Hearth stops and the Tallies stay. -/
theorem Core.lessonFault_stops {c : Core} {h slot : Nat} {f : FaultReq} (hparts : (c.hearth h).splitsOpen = []) (herrors : c.dram.errors = [])
    (hgen : c.route.gen1 = []) (hcls : f.cls = clsSync) (hwho : f.who = []) :
    ∃ origin wave, (c.logFault { f with step := (c.hearth h).step } origin wave).StopsHearth h (c.lessonFault h slot f) := by
  have hfilled : f.filled clsLesson (hearthPath h) slot = f := by simp [FaultReq.filled, hcls, clsSync, clsAlways, clsHold, clsKey]
  have hplaced : (f.cls == clsLesson) = false := by simp [hcls, clsSync, clsLesson]
  obtain ⟨origin, wave, hraised⟩ := Core.raise_waveKeeps (c := c) (f := { f with step := (c.hearth h).step }) (by simp [hcls, clsSync, clsStorage]) hwho herrors hgen
  refine ⟨origin, wave, ?_⟩
  simp only [Core.lessonFault, hfilled, hplaced, Bool.false_and, Bool.false_eq_true, if_false]
  generalize c.raise { f with step := (c.hearth h).step } = d at hraised ⊢
  have hparts' : (d.hearth h).splitsOpen = [] := by
    rw [Core.hearth, hraised.hearths]
    exact hparts
  have hstopped : d.StopsHearth h ((d.stopParts h f.status).modHearth h (fun x => { x with lentRun := none })) :=
    (Core.stopParts_stops hparts' _).after (.modHearth _ h (fun _ => rfl) (fun _ hx => hx))
  refine hraised.keepsTallies.stopsHearth ?_
  cases hactive : c.mgt.active with
  | true =>
    simp only [if_true]
    split <;> exact d.stopHearth_stops h
  | false =>
    simp only [Bool.false_eq_true, if_false]
    generalize (d.stopParts h f.status).modHearth h (fun x => { x with lentRun := none }) = e at hstopped ⊢
    split
    · split
      · exact hstopped.after (Core.completeStopped_keepsTallies ..)
      · exact hstopped.after (Core.memberEnd_keepsTallies ..)
    · exact hstopped

end Sys2Proof.Machine
end

section
/-!
PROOFS. SIGNAL and SUB as operations of the Y slot (R120, R124, R126, R311, R313, R315).
-/

namespace Sys2Proof.Machine

/-! What goes out to another device has nothing of a Hearth's Y queue. -/

section
variable (c : Core) (h : Nat) (l : List YOp)

@[simp] theorem Core.setYq_fabric : (c.setYq h l).fabric = c.fabric := rfl
@[simp] theorem Core.setYq_twoTenant : (c.setYq h l).twoTenant = c.twoTenant := rfl
@[simp] theorem Core.setYq_srcName (dst : Nat) : (c.setYq h l).srcName dst = c.srcName dst := rfl
@[simp] theorem Core.setYq_gen1To (dst : Nat) : (c.setYq h l).gen1To dst = c.gen1To dst := rfl
@[simp] theorem Core.setYq_ackSeqOf (dst next : Nat) (sig : Bool) : (c.setYq h l).ackSeqOf dst sig next = c.ackSeqOf dst sig next := rfl
@[simp] theorem Core.setYq_outPort (src dst : Nat) : (c.setYq h l).outPort src dst = c.outPort src dst := rfl
@[simp] theorem Core.setYq_route : (c.setYq h l).route = c.route := rfl
@[simp] theorem Core.setYq_reg (off : Nat) : (c.setYq h l).reg off = c.reg off := rfl

theorem Core.setYq_trySend (t : Txn) (vc : Nat) (data : List Byte) (die : Option Nat) :
    (c.setYq h l).trySend t vc data die = (c.trySend t vc data die).map (fun d => d.setYq h l) := by
  simp only [Core.trySend, Core.setYq_srcName, Core.setYq_outPort, Core.setYq_route, Core.setYq_reg]
  split
  · rfl
  · rw [apply_ite (Option.map _)]
    rfl

variable {c} {d : Core} (w : Who) (use : ReqUse)

theorem run_senseOut (he : c.dram.errors = []) : (senseOut w).run c = .ok () c := by simp [senseOut, he]

/-- What is done with a frame that has found its route, or the fault of one that has none. -/
theorem run_routed_setYq {o : Option Core} {f : FaultReq} {g : Core → Core} (hg : ∀ e : Core, g (e.setYq h l) = (g e).setYq h l)
    (hrouted : (match o with | none => throw f | some e => set (g e) : OpM Unit).run c = .ok () d) :
    (match o.map (fun e => e.setYq h l) with | none => throw f | some e => set (g e) : OpM Unit).run (c.setYq h l) = .ok () (d.setYq h l) := by
  cases o with
  | none => cases hrouted
  | some e =>
    cases hrouted
    exact congrArg (EStateM.Result.ok ()) (hg e)

theorem run_sendTagged_setYq {tag vc : Nat} {t : Txn} {data : List Byte} (he : c.dram.errors = []) (hsent : (sendTagged w use tag t vc data).run c = .ok () d) :
    (sendTagged w use tag t vc data).run (c.setYq h l) = .ok () (d.setYq h l) := by
  unfold sendTagged at hsent ⊢
  rw [run_bind_ok _ (run_senseOut w he), run_bind_ok _ (run_get c)] at hsent
  rw [run_bind_ok _ (run_senseOut w (c := c.setYq h l) he), run_bind_ok _ (run_get _)]
  simp only [Core.setYq_trySend, Core.setYq_fabric, Core.setYq_twoTenant, Core.setYq_srcName, Core.setYq_gen1To, Core.setYq_ackSeqOf, Core.setYq_reg]
  by_cases hkey : (c.gen1To t.dst && (decide (0xFFFF < t.key) || (c.twoTenant && w.tenant == 1))) = true
  · rw [if_pos hkey] at hsent
    cases hsent
  · rw [if_neg hkey] at hsent ⊢
    exact run_routed_setYq h l (fun _ => rfl) hsent

/-- A request on SYNC goes out as it would with any other Y queue (R407, R410). -/
theorem run_sendRequest_setYq {t : Txn} {data : List Byte} (he : c.dram.errors = []) (hsent : (sendRequest w use t vcSync data).run c = .ok () d) :
    (sendRequest w use t vcSync data).run (c.setYq h l) = .ok () (d.setYq h l) :=
  run_sendTagged_setYq h l w use (c := { c with fabric := { c.fabric with nextTag := (c.fabric.nextTag + 1) % 2 ^ 16 } }) he hsent

end

/-! A Tally operation at the head of the queue. -/

/-- The device that a SIGNAL names by its register; the code for none where it names no register (R126). -/
def Hearth.signalDevice (x : Hearth) (f : TallyF) : Nat := if f.dev = 0 then max32 else (x.reg f.dev).toNat % 2 ^ 15

theorem Core.yOpOf_signal (c c0 : Core) (h : Nat) (f : TallyF) :
    c.yOpOf c0 h (.signal f) = some (.signal f.scope f.index ((c.hearth h).tallyCount f) ((c.hearth h).signalDevice f)) := by
  simp [Core.yOpOf, Hearth.tallyCount, Hearth.signalDevice]

theorem Core.yOpOf_sub (c c0 : Core) (h : Nat) (f : TallyF) :
    c.yOpOf c0 h (.sub f) = some (.sub f.scope f.index ((c.hearth h).tallyCount f)) := by
  simp [Core.yOpOf, Hearth.tallyCount]

section
variable {c d : Core} {h scope i n dev : Nat} (l : List YOp) (he : c.dram.errors = [])
include he

theorem run_yHead_sub (ha : c.TallyAllowed h scope i) : (yHead h).run (c.setYq h (.sub scope i n :: l)) =
    .ok () ((c.subTally scope (scopeUnit h scope) i n).setYq h l) := by
  simp only [yHead, run_bind, run_get, Core.setYq_hearth, run_senseWord (c.setYq h _) _ _ he, (ha.setYq _).run_checkTally, run_update, Core.setYq_subTally,
    Core.setYq_yDone]

/-- A signal of a Tally of this device comes to what its Tally makes of it (R311). -/
theorem run_yHead_signal (hhere : scope ≠ 2 ∨ dev = max32 ∨ c.isSelf dev = true) (ha : c.TallyAllowed h scope i) :
    (yHead h).run (c.setYq h (.signal scope i n dev :: l)) = (do
      signalTally scope (scopeUnit h scope) i n
      update (fun c => c.yDone h) : OpM Unit).run (c.setYq h (.signal scope i n dev :: l)) := by
  have hlocal : (scope != 2 || dev == max32 || (c.setYq h (.signal scope i n dev :: l)).isSelf dev) = true := by
    show (scope != 2 || dev == max32 || c.isSelf dev) = true
    simpa [or_assoc] using hhere
  simp only [yHead, run_bind, run_get, Core.setYq_hearth, run_senseWord (c.setYq h _) _ _ he, hlocal, if_true, (ha.setYq _).run_checkTally]

theorem run_yHead_signal_holds (hhere : scope ≠ 2 ∨ dev = max32 ∨ c.isSelf dev = true) (ha : c.TallyAllowed h scope i) {t : Tally}
    (ht : (c.tally scope (scopeUnit h scope) i).signal n = t) (hover : t.overSet = (c.tally scope (scopeUnit h scope) i).overSet) :
    (yHead h).run (c.setYq h (.signal scope i n dev :: l)) = .ok () ((c.setTally scope (scopeUnit h scope) i t).setYq h l) := by
  rw [run_yHead_signal l he hhere ha, run_bind_ok _ (run_signalTally (t := t) (by rwa [Core.setYq_tally]) (by rwa [Core.setYq_tally])), run_update, Core.setYq_setTally,
    Core.setYq_yDone]

theorem run_yHead_signal_sticks (hhere : scope ≠ 2 ∨ dev = max32 ∨ c.isSelf dev = true) (ha : c.TallyAllowed h scope i)
    (hover : (c.tally scope (scopeUnit h scope) i).overSet = false) (hfull : 0xFFFFFFFF < (c.tally scope (scopeUnit h scope) i).value + n) :
    (yHead h).run (c.setYq h (.signal scope i n dev :: l)) = .error { cls := clsSync, status := stTallyOver, unit := i, detail := scope }
      ((c.setTally scope (scopeUnit h scope) i { c.tally scope (scopeUnit h scope) i with value := 0xFFFFFFFF, overSet := true }).setYq h
        (.signal scope i n dev :: l)) := by
  rw [run_yHead_signal l he hhere ha, run_bind, run_signalTally_sticks (by rwa [Core.setYq_tally]) (by rwa [Core.setYq_tally]), Core.setYq_tally,
    Core.setYq_setTally]

/-- A signal of 0 to another device sends nothing (R126). -/
theorem run_yHead_signal_none (hname : dev ≠ max32) (haway : c.isSelf dev = false) :
    (yHead h).run (c.setYq h (.signal 2 i 0 dev :: l)) = .ok () (c.setYq h l) := by
  have hremote : (2 != 2 || dev == max32 || (c.setYq h (.signal 2 i 0 dev :: l)).isSelf dev) = false := by
    show (2 != 2 || dev == max32 || c.isSelf dev) = false
    simp [hname, haway]
  simp only [yHead, run_bind, run_get, Core.setYq_hearth, run_senseWord (c.setYq h _) _ _ he, hremote, Bool.false_eq_true, if_false, beq_self_eq_true, if_true,
    run_set, Core.setYq_yDone]

/-- One of a count goes out, and its place at the head waits for the delivery (R126, R315). -/
theorem run_yHead_signal_sent (hname : dev ≠ max32) (haway : c.isSelf dev = false) (hcount : n ≠ 0) (hlent : (c.hearth h).lentRun = none)
    (hsent : (sendRequest { actor := .hearth h, tenant := c.hearthTenant h, keyed := false } .signal
      { op := opSignalTx, dst := dev % 2 ^ 15, addr := globalAddr dev (0x500060000000 + 8 * i), len := 8, opndA := n + 1 <<< 32 } vcSync []).run c = .ok () d) :
    (yHead h).run (c.setYq h (.signal 2 i n dev :: l)) = .ok () (d.setYq h (.sent c.fabric.nextTag :: l)) := by
  have hremote : (2 != 2 || dev == max32 || (c.setYq h (.signal 2 i n dev :: l)).isSelf dev) = false := by
    show (2 != 2 || dev == max32 || c.isSelf dev) = false
    simp [hname, haway]
  have htenant : (c.setYq h (.signal 2 i n dev :: l)).runTenant h = c.hearthTenant h := by
    simp only [Core.runTenant, Core.setYq_hearth, hlent]
    rfl
  have hnotLent : (refuseLent h).run (c.setYq h (.signal 2 i n dev :: l)) = .ok () _ := run_refuseLent (by rw [Core.setYq_hearth]; exact hlent)
  have hzero : (n == 0) = false := by simpa using hcount
  simp only [yHead, run_bind, run_get, Core.setYq_hearth, run_senseWord (c.setYq h _) _ _ he, hremote, hzero, Bool.false_eq_true, if_false,
    hnotLent, htenant, Core.setYq_fabric, run_sendRequest_setYq _ _ _ _ he hsent, run_update,
    Core.setYq_yHold]

end

/-- Settles O9: an operation that finds the Y queue empty runs at its head; a signal and a subtract come to what `Tally.signal` and `Tally.sub` make of their
Tally, an overflow is a fault that leaves it, and a signal to another device is one request. -/
theorem signalAndSubMoveTheirTally : Obligations.SignalAndSubMoveTheirTally := by
  unfold Obligations.SignalAndSubMoveTheirTally
  refine ⟨?_, ?_⟩
  · intro s h f hs hscope he x dev away u n y
    have hyq : (s.core.hearth h).yq = [] := hs.yq_empty
    have hop := s.core.yOpOf_signal s.core h f
    have hkept : ∀ t, ((s.core.setTally f.scope u f.index t).hearth h).yq = [] := fun t => (Core.setTally_yq ..).trans hyq
    have hnamed : away → f.scope = 2 ∧ x.signalDevice f = dev ∧ dev ≠ max32 ∧ s.core.isSelf dev = false := by
      rintro ⟨hfabric, hdev, hremote⟩
      have hlt : dev < 2 ^ 15 := Nat.mod_lt _ (by decide)
      exact ⟨hfabric, by rw [Hearth.signalDevice, if_neg hdev], by rw [max32]; omega, hremote⟩
    refine ⟨fun hhere ha => ?_, fun haway hnone => ?_, fun haway hcount hlent c hsent => ?_⟩
    · have hhere' : f.scope ≠ 2 ∨ x.signalDevice f = max32 ∨ s.core.isSelf (x.signalDevice f) = true := by
        by_cases hdev : f.dev = 0
        · exact .inr (.inl (by rw [Hearth.signalDevice, if_pos hdev]))
        · rw [Hearth.signalDevice, if_neg hdev]
          by_cases hfabric : f.scope = 2
          · have hself : s.core.isSelf dev = true := by simpa [away, hfabric, hdev] using hhere
            exact .inr (.inr hself)
          · exact .inl hfabric
      refine ⟨fun hover => ?_, fun hover hfits => ?_, fun hover hfull hgen hparts => ?_⟩
      · exact hs.becomes_done hop rfl (run_yHead_signal_holds _ he hhere' ha (Tally.signal_over hover) rfl) (hkept y)
      · exact hs.becomes_done hop rfl (run_yHead_signal_holds _ he hhere' ha (Tally.signal_fits hover hfits) rfl) (hkept _)
      · have hfault := hs.issues_faulted hop rfl (run_yHead_signal_sticks [] he hhere' ha hover hfull)
          (show clsSync ≠ clsHold by decide) (show clsSync ≠ clsBreach by decide)
        obtain ⟨ts, hx⟩ := s.core.setTally_hearth h (scope := f.scope) (i := f.index) u { y with value := 0xFFFFFFFF, overSet := true }
        obtain ⟨origin, wave, hkeeps, hstopped⟩ := Core.lessonFault_stops (slot := 4) (h := h)
          (c := (s.core.setTally f.scope u f.index { y with value := 0xFFFFFFFF, overSet := true }).setYq h [.signal f.scope f.index n (x.signalDevice f)])
          (f := { cls := clsSync, status := stTallyOver, unit := f.index, detail := f.scope })
          (by rw [Core.setYq_hearth, hx]; exact hparts) (by simpa using he) (by simpa using hgen) rfl rfl
        rw [← hfault] at hkeeps hstopped
        refine ⟨_, rfl, ?_, hstopped, ?_⟩
        · exact (hkeeps.tally ..).trans ((Core.setYq_tally ..).trans (Core.tally_setTally ..))
        · exact (Core.lastFault_of_log hkeeps.log).trans (Core.lastFault_logFault ..)
    · obtain ⟨hfabric, hdev, hname, hremote⟩ := hnamed haway
      refine hs.becomes_done hop rfl (e := s.core) ?_ hyq
      rw [hfabric, hdev]
      exact (congrArg _ (by rw [show x.tallyCount f = 0 from hnone])).trans (run_yHead_signal_none [] he hname hremote)
    · obtain ⟨hfabric, hdev, hname, hremote⟩ := hnamed haway
      refine hs.becomes_waiting hop rfl ?_
      rw [hfabric, hdev]
      exact run_yHead_signal_sent [] he hname hremote hcount hlent (by rwa [Nat.mod_eq_of_lt (Nat.mod_lt _ (by decide))])
  · intro s h f hs hscope ha he u n y
    have hyq : (s.core.hearth h).yq = [] := hs.yq_empty
    have hsub : s.Becomes (exec (.sub h f) s) (s.core.subTally f.scope u f.index n) :=
      hs.becomes_done (s.core.yOpOf_sub s.core h f) rfl (run_yHead_sub [] he ha) ((Core.subTally_yq ..).trans hyq)
    refine ⟨fun hover => ?_, fun hover hfits => ?_, fun hover hless => ?_⟩
    · rwa [Core.subTally_holds (Tally.sub_over hover) (.inl hover)] at hsub
    · rwa [Core.subTally_holds (Tally.sub_fits hover hfits) (.inr hfits)] at hsub
    · rwa [Core.subTally_under hover hless] at hsub

end Sys2Proof.Machine
end

section
/-!
PROOFS. Roll calls (R322 to R328): where an arrival stands, what a local participant's arrival and another device's come to, and when a device's own goes on.
-/

namespace Sys2Proof.Machine

/-! Where an arrival stands (Table 11-5). -/

section
variable {g a : Nat} {now ahead : Bool}

theorem arrivalCase_counted (hopen : (a + 256 - g) % 256 = 0) : arrivalCase g a false ahead = .counted := by simp [arrivalCase, hopen]

theorem arrivalCase_held (hnext : (a + 256 - g) % 256 = 1) : arrivalCase g a now false = .held := by simp [arrivalCase, hnext]

theorem arrivalCase_duplicate (hopen : (a + 256 - g) % 256 = 0) : arrivalCase g a true ahead = .ignored := by simp [arrivalCase, hopen]

theorem arrivalCase_heldDuplicate (hnext : (a + 256 - g) % 256 = 1) : arrivalCase g a now true = .ignored := by simp [arrivalCase, hnext]

theorem arrivalCase_overrun (hahead : 1 < (a + 256 - g) % 256) (hhalf : (a + 256 - g) % 256 < 128) : arrivalCase g a now ahead = .overrun := by
  have h0 : (a + 256 - g) % 256 ≠ 0 := by omega
  have h1 : (a + 256 - g) % 256 ≠ 1 := by omega
  simp [arrivalCase, h0, h1, hhalf]

theorem arrivalCase_past (hpast : 128 ≤ (a + 256 - g) % 256) : arrivalCase g a now ahead = .ignored := by
  have h0 : (a + 256 - g) % 256 ≠ 0 := by omega
  have h1 : (a + 256 - g) % 256 ≠ 1 := by omega
  simp [arrivalCase, h0, h1, Nat.not_lt.mpr hpast]

end

/-! Arrivals (R325, R328). -/

/-- Another device's arrival by its place in Table 11-5. -/
def takeMessage (f : RollMsg) (r : CtxRec) (x : RollCtx) : ArrivalCase → OpM Unit
  | .counted => do
    update (fun c => c.setRollCtx f.ctx { x with remote := x.remote ++ [(f.sender, f.payload)] })
    rollAdvance f.ctx
  | .held => update (fun c => (c.setRollCtx f.ctx { x with remoteHeld := x.remoteHeld ++ [(f.sender, f.payload)] }).bump (kSyn 1))
  | .overrun => syncFault f.ctx r.scope stRollOverrun
  | .ignored => update (fun c => c.bump (kSyn 2))

/-- A local participant's arrival for a generation by its place in Table 11-5. -/
def takeArrival (ctx : Nat) (p : Party) (a : Nat) (payload : List Byte) (wb : Nat) (r : CtxRec) (x : RollCtx) : ArrivalCase → OpM Bool
  | .counted => do
    update (fun c => c.setRollCtx ctx { x with counts := spPut 0 x.counts p.key ((a + 1) % 256), arrived := x.arrived ++ [(p, payload, wb)] })
    rollAdvance ctx
    pure false
  | .held => do
    update (fun c => (c.setRollCtx ctx { x with counts := spPut 0 x.counts p.key ((a + 1) % 256), held := x.held ++ [(p, payload, wb, a)] }).bump (kSyn 1))
    pure false
  | .overrun => syncFault ctx r.scope stRollOverrun
  | .ignored => do
    update (fun c => c.bump (kSyn 2))
    pure true

section
variable {c : Core} {l : List Nat} {me : Nat} (he : c.dram.errors = [])
include he

theorem run_senseCtx (ctx : Nat) : (senseCtx ctx).run c = .ok () c := by
  rw [senseCtx, run_bind_ok _ (run_get c)]
  exact run_senseHub c _ _ he

/-- A message that its context takes (R328). -/
theorem run_rollMessage {f : RollMsg} (hvalid : (c.ctxRec f.ctx).valid = true) (hred : f.red = (c.ctxRec f.ctx).reduction)
    (hself : (ctxSelf f.ctx (c.ctxRec f.ctx)).run c = .ok (l, me) c) (hscope : (c.ctxRec f.ctx).scope ≠ 0) (hsender : f.sender ∈ l) :
    (rollMessage f).run c = (takeMessage f (c.ctxRec f.ctx) (c.rollCtx f.ctx) (arrivalCase (c.rollCtx f.ctx).gen f.gen
      ((c.rollCtx f.ctx).remote.any (fun q => q.1 == f.sender)) ((c.rollCtx f.ctx).remoteHeld.any (fun q => q.1 == f.sender)))).run c := by
  have hshape : (!(c.ctxRec f.ctx).valid || f.red != (c.ctxRec f.ctx).reduction) = false := by simp [hvalid, hred]
  have htakes : ((c.ctxRec f.ctx).scope == 0 || !l.contains f.sender) = false := by simp [hscope, hsender]
  rw [rollMessage, run_bind_ok _ (run_senseCtx he f.ctx), run_bind_ok _ (run_get c)]
  simp only [hshape, Bool.false_eq_true, if_false, run_bind, hself, htakes]
  cases arrivalCase (c.rollCtx f.ctx).gen f.gen ((c.rollCtx f.ctx).remote.any (fun q => q.1 == f.sender))
    ((c.rollCtx f.ctx).remoteHeld.any (fun q => q.1 == f.sender)) <;> rfl

/-- An arrival of a participant that its context admits (R323, R325). -/
theorem run_rollArrive {ctx red wb : Nat} {p : Party} {explicit : Option Nat} (payload : List Byte) (hvalid : (c.ctxRec ctx).valid = true)
    (hred : red = (c.ctxRec ctx).reduction) (hself : (ctxSelf ctx (c.ctxRec ctx)).run c = .ok (l, me) c)
    (hadmits : (c.ctxRec ctx).admits c (c.ctxTenant ctx) p = true) {a : Nat} (ha : explicit.getD (spGet 0 (c.rollCtx ctx).counts p.key) = a) :
    (rollArrive ctx p red explicit payload wb).run c = (takeArrival ctx p a payload wb (c.ctxRec ctx) (c.rollCtx ctx) (arrivalCase (c.rollCtx ctx).gen a
      ((c.rollCtx ctx).arrived.any (fun q => q.1.key == p.key)) ((c.rollCtx ctx).held.any (fun q => q.1.key == p.key)))).run c := by
  have hshape : (!(c.ctxRec ctx).valid || !(c.ctxRec ctx).admits c (c.ctxTenant ctx) p || red != (c.ctxRec ctx).reduction) = false := by simp [hvalid, hadmits, hred]
  rw [rollArrive, run_bind_ok _ (run_senseCtx he ctx), run_bind_ok _ (run_get c)]
  simp only [hshape, Bool.false_eq_true, if_false, run_bind, hself, ha]
  cases arrivalCase (c.rollCtx ctx).gen a ((c.rollCtx ctx).arrived.any (fun q => q.1.key == p.key)) ((c.rollCtx ctx).held.any (fun q => q.1.key == p.key)) <;> rfl

end

theorem run_ctxSelf {c : Core} {r : CtxRec} {l : List Nat} {me : Nat} (ctx : Nat) (hnames : (ctxNames r).run c = .ok l c) (hme : c.selfIn l = some me) :
    (ctxSelf ctx r).run c = .ok (l, me) c := by
  simp only [ctxSelf, run_bind, hnames, run_get, hme, run_pure]

/-! A device's own arrival (R324). -/

/-- All that a device waits for has come for the open generation: its own participants and its senders (R323, R324). -/
def Core.AllArrived (c : Core) (ctx : Nat) (l : List Nat) (me : Nat) : Prop :=
  c.localArrived ctx (c.ctxRec ctx) = true ∧ ∀ k ∈ treeChildren l me, ∃ m ∈ (c.rollCtx ctx).remote, m.1 = k

/-- The reduction of what has come (R326). -/
def Core.rollTotal (c : Core) (ctx : Nat) (l : List Nat) (me : Nat) : List Byte :=
  rollReduce (c.ctxRec ctx).reduction ((c.rollCtx ctx).arrived.map (fun a => a.2.1) ++
    ((c.rollCtx ctx).remote.filter (fun m => (treeChildren l me).contains m.1)).map (fun m => m.2))

section
variable {c : Core} {ctx me : Nat} {l : List Nat} (hself : (ctxSelf ctx (c.ctxRec ctx)).run c = .ok (l, me) c) (hsent : (c.rollCtx ctx).sentUp = false)
include hself hsent

theorem run_rollAdvance_waits (hwaits : ¬ c.AllArrived ctx l me) : (rollAdvance ctx).run c = .ok () c := by
  rw [rollAdvance, run_bind_ok _ (run_get c)]
  by_cases hlocal : c.localArrived ctx (c.ctxRec ctx) = true
  · have hkids : ((treeChildren l me).all fun k => (c.rollCtx ctx).remote.any fun m => m.1 == k) = false := by
      rw [Bool.eq_false_iff]
      intro hall
      exact hwaits ⟨hlocal, by simpa using hall⟩
    simp only [hsent, hlocal, Bool.not_true, Bool.or_false, Bool.false_eq_true, if_false, run_bind, hself, hkids, Bool.not_false, if_true, run_pure]
  · simp [hlocal]

theorem run_rollAdvance (hall : c.AllArrived ctx l me) : (rollAdvance ctx).run c = (match treeParent l me with
    | some p => do
      update (fun d => d.setRollCtx ctx { c.rollCtx ctx with sentUp := true })
      sendRoll 0 ctx (c.rollCtx ctx).gen (c.ctxRec ctx).reduction p (c.rollTotal ctx l me)
    | none => do
      update (fun d => d.setRollCtx ctx { c.rollCtx ctx with sentUp := true, result := some (c.rollTotal ctx l me) })
      (treeChildren l me).forM (fun k => sendRoll 1 ctx (c.rollCtx ctx).gen (c.ctxRec ctx).reduction k (c.rollTotal ctx l me)) : OpM Unit).run c := by
  obtain ⟨hlocal, hsenders⟩ := hall
  have hkids : ((treeChildren l me).all fun k => (c.rollCtx ctx).remote.any fun m => m.1 == k) = true := by simpa using hsenders
  rw [rollAdvance, run_bind_ok _ (run_get c)]
  simp only [hsent, hlocal, Bool.not_true, Bool.or_false, Bool.false_eq_true, if_false, run_bind, hself, hkids]
  cases treeParent l me <;> rfl

theorem run_rollAdvance_up (hall : c.AllArrived ctx l me) {p : Nat} (hparent : treeParent l me = some p) :
    (rollAdvance ctx).run c = (sendRoll 0 ctx (c.rollCtx ctx).gen (c.ctxRec ctx).reduction p (c.rollTotal ctx l me)).run
      (c.setRollCtx ctx { c.rollCtx ctx with sentUp := true }) := by
  rw [run_rollAdvance hself hsent hall, hparent]
  exact run_bind_ok _ (run_update _ _)

theorem run_rollAdvance_root (hall : c.AllArrived ctx l me) (hroot : treeParent l me = none) :
    (rollAdvance ctx).run c = ((treeChildren l me).forM (fun k => sendRoll 1 ctx (c.rollCtx ctx).gen (c.ctxRec ctx).reduction k (c.rollTotal ctx l me))).run
      (c.setRollCtx ctx { c.rollCtx ctx with sentUp := true, result := some (c.rollTotal ctx l me) }) := by
  rw [run_rollAdvance hself hsent hall, hroot]
  exact run_bind_ok _ (run_update _ _)

end

end Sys2Proof.Machine
end

section
/-!
PROOFS. Roll calls between devices, their close and their timeout (R314, R324 to R329).
-/

namespace Sys2Proof.Machine

theorem State.Arrives.accept_errors {s : State} {w : Head} {vc n : Nat} {i : Instr} (h : s.Arrives w vc i) : (s.accept w vc n).core.dram.errors = [] := by
  obtain ⟨-, -, -, herrors⟩ := h
  rw [State.accept_core, State.retryCounted_dram, herrors]

/-! What a block's work comes to (R447). -/

section
variable {c d : Core} {cls unit detail : Nat} {op : OpM Unit}

theorem Core.runBlock_ok (hop : op.run c = .ok () d) : c.runBlock cls unit detail op = d := by
  rw [Core.runBlock, hop]

/-- A fault that names its class itself is raised as it is. -/
theorem Core.runBlock_sync {f : FaultReq} (hop : op.run c = .error f d) (hcls : f.cls = clsSync) : c.runBlock cls unit detail op = d.raise f := by
  have hfilled : f.filled cls unit detail = f := by simp [FaultReq.filled, hcls, clsSync, clsAlways, clsHold, clsKey]
  rw [Core.runBlock, hop]
  exact congrArg d.raise hfilled

end

/-! ROLL_ARRIVAL_MSG (R325, R328). -/

section
variable {s : State} {w : Head} {f : RollMsg} (hhalted : s.core.halted = false) (harrives : s.Arrives w vcSync (.rollArrivalMsg w f))
include hhalted harrives

/-- A message for the other tenant's context is dropped and counted (R314). -/
theorem rollArrivalMsg_foreign (hforeign : (s.accept w vcSync 64).core.rollForeign w.port f = true) :
    (s.accept w vcSync 64).Becomes (exec (.rollArrivalMsg w f) s) ((s.accept w vcSync 64).core.bump kKeyRefused) :=
  harrives.becomes hhalted (fun _ => rfl) (by simp only [Core.takeFrame, hforeign, if_true])

theorem rollArrivalMsg_becomes {d : Core} (hown : (s.accept w vcSync 64).core.rollForeign w.port f = false)
    (hruns : (s.accept w vcSync 64).core.runBlock clsSync f.ctx ((s.accept w vcSync 64).core.ctxRec f.ctx).scope (rollMessage f) = d) :
    (s.accept w vcSync 64).Becomes (exec (.rollArrivalMsg w f) s) d :=
  harrives.becomes hhalted (fun _ => rfl) (by simpa only [Core.takeFrame, hown, Bool.false_eq_true, if_false] using hruns)

end

theorem any_sender_iff {m : List (Nat × List Byte)} {k : Nat} : m.any (fun q => q.1 == k) = true ↔ ∃ q ∈ m, q.1 = k := by simp

theorem any_sender_none {m : List (Nat × List Byte)} {k : Nat} (h : ∀ q ∈ m, q.1 ≠ k) : m.any (fun q => q.1 == k) = false := by simpa using h

/-! ROLL_RESULT_MSG (R324, R327). -/

theorem run_rollResult {c : Core} {f : RollMsg} {l : List Nat} {me : Nat} (he : c.dram.errors = []) (hvalid : (c.ctxRec f.ctx).valid = true)
    (hself : (ctxSelf f.ctx (c.ctxRec f.ctx)).run c = .ok (l, me) c) (hparent : treeParent l me = some f.sender) (hgen : f.gen = (c.rollCtx f.ctx).gen) :
    (rollResult f).run c = ((treeChildren l me).forM (fun k => sendRoll 1 f.ctx f.gen (c.ctxRec f.ctx).reduction k f.payload)).run
      (c.setRollCtx f.ctx { c.rollCtx f.ctx with result := some f.payload }) := by
  have hexpected : (treeParent l me != some f.sender || f.gen != (c.rollCtx f.ctx).gen) = false := by simp [hparent, hgen]
  rw [rollResult, run_bind_ok _ (run_senseCtx he f.ctx), run_bind_ok _ (run_get c)]
  simp only [hvalid, Bool.not_true, Bool.false_eq_true, if_false, run_bind, hself, hexpected, run_update]

/-! ROLL_CALL_CLOSE (R327). -/

/-- The next generation of a context, with what was held for it (R325). -/
def RollCtx.next (x : RollCtx) : RollCtx :=
  { gen := (x.gen + 1) % 256, counts := x.counts, arrived := x.held.map (fun h => (h.1, h.2.1, h.2.2.1)), remote := x.remoteHeld }

theorem run_rollClose {c : Core} (he : c.dram.errors = []) (ctx : Nat) :
    (rollClose ctx).run c = (rollAdvance ctx).run ((c.setRollCtx ctx (c.rollCtx ctx).next).bump (kSyn 0)) := by
  rw [rollClose, run_bind_ok _ (run_senseCtx he ctx), run_bind_ok _ (run_get c)]
  exact run_bind_ok _ (run_set _ _)

theorem Core.closeRoll_ok {c d : Core} {ctx : Nat} {pay : List Byte} (he : c.dram.errors = []) (hresult : (c.rollCtx ctx).result = some pay)
    (hnext : (rollAdvance ctx).run ((c.setRollCtx ctx (c.rollCtx ctx).next).bump (kSyn 0)) = .ok () d) :
    c.closeRoll ctx = (c.rollCtx ctx).arrived.foldl (Core.rollDeliver pay) d := by
  simp only [Core.closeRoll, hresult, Core.runBlock_ok ((run_rollClose he ctx).trans hnext)]

/-- A waiting ROLL gets the result over its payload and leaves the queue (R327). -/
theorem Core.rollDeliver_hearth {c : Core} {h ctx p off : Nat} (pay own : List Byte) (he : c.dram.errors = []) (hyq : (c.hearth h).yq = [.rolled ctx p]) :
    c.rollDeliver pay (.hearth h, own, off) = (c.putScratch h off pay).setYq h [] := by
  have hdone : (c.putScratch h off pay).yDone h = (c.putScratch h off pay).setYq h [] := by
    refine Core.modHearth_congr ?_
    rw [Core.putScratch, Core.hearth_modHearth_same]
    simp [hyq]
  have hpump : (yPump h 5).run ((c.putScratch h off pay).setYq h []) = .ok () ((c.putScratch h off pay).setYq h []) := by
    simp [yPump]
  simp only [Core.rollDeliver, hyq]
  refine perform_ok c ?_
  rw [run_bind_ok _ (run_writeScratch c h off pay he), run_bind_ok _ (run_update _ _)]
  exact (congrArg _ hdone).trans hpump

/-- Settles O41: a message runs as its place in Table 11-5 says; a close opens the next generation, and what its delivery comes to is `Core.rollDeliver`'s. -/
theorem rollCallsGatherAndClose : Obligations.RollCallsGatherAndClose := by
  unfold Obligations.RollCallsGatherAndClose
  refine ⟨?_, ?_, ?_, ?_, ?_⟩
  · intro s w f l me hhalted harrives a r x dist
    have he : a.core.dram.errors = [] := harrives.accept_errors
    refine ⟨rollArrivalMsg_foreign hhalted harrives, fun hown hvalid hred hself hscope hsender => ?_⟩
    have hrun := run_rollMessage he hvalid hred hself hscope hsender
    have hdone : ∀ {k : ArrivalCase} {d : Core}, arrivalCase x.gen f.gen (x.remote.any (fun q => q.1 == f.sender)) (x.remoteHeld.any (fun q => q.1 == f.sender)) = k →
        (takeMessage f r x k).run a.core = .ok () d → a.Becomes (exec (.rollArrivalMsg w f) s) d := fun hcase htake =>
      rollArrivalMsg_becomes hhalted harrives hown (Core.runBlock_ok (hrun.trans (by rw [hcase]; exact htake)))
    refine ⟨?_, ?_, ?_, ?_, ?_⟩
    · intro hopen hnew c hadvance
      rw [any_sender_none hnew] at hdone
      exact hdone (arrivalCase_counted hopen) ((run_bind_ok _ (run_update _ _)).trans hadvance)
    · rintro (⟨hopen, hold⟩ | ⟨hnext, hold⟩)
      · rw [any_sender_iff.mpr hold] at hdone
        exact hdone (arrivalCase_duplicate hopen) rfl
      · rw [any_sender_iff.mpr hold] at hdone
        exact hdone (arrivalCase_heldDuplicate hnext) rfl
    · intro hnext hnew
      rw [any_sender_none hnew] at hdone
      exact hdone (arrivalCase_held hnext) rfl
    · intro hahead hhalf
      refine rollArrivalMsg_becomes hhalted harrives hown (Core.runBlock_sync (hrun.trans ?_) rfl)
      rw [arrivalCase_overrun hahead hhalf]
      rfl
    · intro hpast
      exact hdone (arrivalCase_past hpast) rfl
  · intro s w f l me c hhalted harrives a r x hvalid hself hparent hgen hsent
    exact harrives.becomes hhalted (fun _ => rfl) (Core.runBlock_ok ((run_rollResult harrives.accept_errors hvalid hself hparent hgen).trans hsent))
  · intro s ctx pay c hhalted he hready x y hresult hnext
    refine State.becomes_of_eq ?_
    simp only [exec, execRollCallClose, Core.gated_of_not_halted _ hhalted, hready, if_true, Core.closeRoll_ok he hresult hnext]
    rfl
  · intro c h ctx p off pay own he hyq
    rw [Core.rollDeliver_hearth pay own he hyq]
    exact .refl _
  · intro s ctx hhalted who
    refine ⟨fun hopen => State.becomes_of_eq ?_, fun hshut => State.becomes_of_eq ?_⟩
    · simp only [exec, execRollCallTimeout, Core.gated_of_not_halted _ hhalted, hopen, if_true]
      rfl
    · simp only [exec, execRollCallTimeout, Core.gated_of_not_halted _ hhalted, hshut, Bool.false_eq_true, if_false]

end Sys2Proof.Machine
end

section
/-!
PROOFS. ROLL (R124, R127, R323 to R327): the operation at the head of its Y queue, its arrival, and the result at a context of device scope.
-/

namespace Sys2Proof.Machine

/-! The Y queue has no part in what a ROLL reads or in what goes out for it. -/

section
variable (c : Core) (h : Nat) (l : List YOp)

/-- What a unit's operation touches is told without the Y queue. -/
theorem Core.opTouches_yq (hs : List (Nat × Hearth)) (x : Hearth) (earlier : List Issued) (before : List Touch) (op : SlotOp) :
    ({ c with hearths := hs } : Core).opTouches h { x with yq := l } earlier before op = c.opTouches h x earlier before op := by
  cases op <;> rfl

theorem Core.setYq_queuedTouches (q : List Issued) (earlier : List Issued) (before : List Touch) :
    (c.setYq h l).queuedTouches h earlier q before = c.queuedTouches h earlier q before := by
  induction q generalizing earlier before with
  | nil => rfl
  | cons i q ih =>
    simp only [Core.queuedTouches, Core.setYq_hearth]
    rw [ih]
    exact congrArg (fun t => c.queuedTouches h (earlier ++ [i]) q (before ++ t)) (c.opTouches_yq h l _ ((c.hearth h).seenBy i) _ _ _)

theorem Core.setYq_rollClear (payload : Nat) (prior : Prior) : (c.setYq h l).rollClear h payload prior = c.rollClear h payload prior := by
  have hfabric : ∀ x : Fabric, ({ c.setYq h l with fabric := x } : Core) = ({ c with fabric := x } : Core).setYq h l := fun _ => rfl
  simp only [Core.rollClear, Core.setYq_fabric, Core.setYq_hearth, hfabric, Core.setYq_queuedTouches]
  simp only [Core.setYq, Core.modHearth_modHearth]

end

section
variable {c d : Core} (h : Nat) (l : List YOp)

theorem run_sendRoll_setYq {form ctx gen red dst : Nat} {payload : List Byte} (hsent : (sendRoll form ctx gen red dst payload).run c = .ok () d) :
    (sendRoll form ctx gen red dst payload).run (c.setYq h l) = .ok () (d.setYq h l) := by
  rw [sendRoll, run_bind_ok _ (run_get _)] at hsent ⊢
  rw [Core.setYq_trySend]
  split at hsent
  · next e hroute =>
    have hroute' : c.trySend (packTxn { op := opRollTx, dst := dst, len := 64, tenant := (c.setYq h l).ctxTenant ctx } (rollFields form ctx gen red)) vcSync
      payload = some e := hroute
    cases hsent
    rw [hroute']
    rfl
  · cases hsent

theorem run_forM_setYq {α : Type} {g : α → OpM Unit} (hg : ∀ (a : α) {c d : Core}, (g a).run c = .ok () d → (g a).run (c.setYq h l) = .ok () (d.setYq h l))
    {m : List α} (hrun : (m.forM g).run c = .ok () d) : (m.forM g).run (c.setYq h l) = .ok () (d.setYq h l) := by
  induction m generalizing c with
  | nil =>
    cases hrun
    rfl
  | cons a m ih =>
    change (g a >>= fun _ => m.forM g).run c = _ at hrun
    change (g a >>= fun _ => m.forM g).run (c.setYq h l) = _
    cases hfirst : (g a).run c with
    | error f e =>
      rw [run_bind, hfirst] at hrun
      cases hrun
    | ok u e =>
      rw [run_bind_ok _ hfirst] at hrun
      rw [run_bind_ok _ (hg a hfirst)]
      exact ih hrun

end

section
variable {c d : Core} {ctx me : Nat} {l : List Nat} (h : Nat) (q : List YOp) (hself : (ctxSelf ctx (c.ctxRec ctx)).run (c.setYq h q) = .ok (l, me) (c.setYq h q))
  (hsent : (c.rollCtx ctx).sentUp = false)
include hself hsent

theorem run_rollAdvance_setYq_waits (hwaits : ¬ c.AllArrived ctx l me) : (rollAdvance ctx).run (c.setYq h q) = .ok () (c.setYq h q) :=
  run_rollAdvance_waits (c := c.setYq h q) hself hsent hwaits

theorem run_rollAdvance_setYq_up (hall : c.AllArrived ctx l me) {p : Nat} (hparent : treeParent l me = some p)
    (hsends : (sendRoll 0 ctx (c.rollCtx ctx).gen (c.ctxRec ctx).reduction p (c.rollTotal ctx l me)).run
      (c.setRollCtx ctx { c.rollCtx ctx with sentUp := true }) = .ok () d) : (rollAdvance ctx).run (c.setYq h q) = .ok () (d.setYq h q) :=
  (run_rollAdvance_up (c := c.setYq h q) hself hsent hall hparent).trans (run_sendRoll_setYq h q hsends)

theorem run_rollAdvance_setYq_root (hall : c.AllArrived ctx l me) (hroot : treeParent l me = none)
    (hsends : ((treeChildren l me).forM (fun k => sendRoll 1 ctx (c.rollCtx ctx).gen (c.ctxRec ctx).reduction k (c.rollTotal ctx l me))).run
      (c.setRollCtx ctx { c.rollCtx ctx with sentUp := true, result := some (c.rollTotal ctx l me) }) = .ok () d) :
    (rollAdvance ctx).run (c.setYq h q) = .ok () (d.setYq h q) :=
  (run_rollAdvance_root (c := c.setYq h q) hself hsent hall hroot).trans (run_forM_setYq h q (fun _ {_ _} => run_sendRoll_setYq h q) hsends)

end

/-! ROLL at the head of its queue. -/

theorem roll_becomes {s : State} {h : Nat} {f : RollF} {d : Core} (hissues : s.core.gated (fun c => c.issueY h (.roll f)) = d) :
    s.Becomes (exec (.roll h f) s) d := by
  subst hissues
  exact State.becomes_of_eq rfl

theorem Core.yOpOf_roll (c c0 : Core) (h : Nat) (f : RollF) : c.yOpOf c0 h (.roll f) = some (.roll f.ctx f.red f.payload (c0.priorWork h)) := rfl

section
variable {c : Core} {h ctx red payload : Nat} {prior : Prior} (l : List YOp) (he : c.dram.errors = []) (hown : c.Own h)
  (hclear : c.rollClear h payload prior = true) (hfits : 64 * payload + 64 ≤ 0x800000) (htenant : c.twoTenant = true → c.ctxTenant ctx = c.hearthTenant h)
include he hown hclear hfits htenant

/-- A ROLL with its payload clear and inside its Hearth's scratch arrives with its 64 bytes (R127, R325). -/
theorem run_yHead_roll : (yHead h).run (c.setYq h (.roll ctx red payload prior :: l)) = (do
    let dup ← rollArrive ctx (.hearth h) red none (c.scratchBytes h (64 * payload) 64) (64 * payload)
    update (fun c => if dup then c.yDone h else c.yHold h (.rolled ctx payload)) : OpM Unit).run (c.setYq h (.roll ctx red payload prior :: l)) := by
  have hnotLent : (refuseLent h).run (c.setYq h (.roll ctx red payload prior :: l)) = .ok () _ := run_refuseLent (by rw [Core.setYq_hearth]; exact hown.1)
  have hinside : (checkScratch h (64 * payload) 64).run (c.setYq h (.roll ctx red payload prior :: l)) = .ok () _ :=
    run_checkScratch hown.setYq (by omega) hfits
  have hbytes : (readScratch h (64 * payload) 64).run (c.setYq h (.roll ctx red payload prior :: l)) =
      .ok (c.scratchBytes h (64 * payload) 64) (c.setYq h (.roll ctx red payload prior :: l)) := by
    rw [run_readScratch_bytes _ _ (c := c.setYq h _) he]
    simp only [Core.scratchBytes, Core.scratchByte, Core.setYq_hearth]
    rfl
  have hnames : ((c.setYq h (.roll ctx red payload prior :: l)).twoTenant &&
      (c.setYq h (.roll ctx red payload prior :: l)).ctxTenant ctx != (c.setYq h (.roll ctx red payload prior :: l)).runTenant h) = false := by
    have hrun : (c.setYq h (.roll ctx red payload prior :: l)).runTenant h = c.hearthTenant h := by
      simp only [Core.runTenant, Core.setYq_hearth, hown.1]
      rfl
    rw [hrun]
    show (c.twoTenant && c.ctxTenant ctx != c.hearthTenant h) = false
    cases htwo : c.twoTenant with
    | false => rfl
    | true => simp [htenant htwo]
  simp only [yHead, run_bind, run_get, Core.setYq_hearth, run_senseWord (c.setYq h _) _ _ he, hnotLent, Core.setYq_rollClear, hclear, Bool.not_true,
    Bool.false_eq_true, if_false, hinside, hbytes, hnames]

end

/-! A ROLL that its context admits. -/

/-- The participants of a context, whatever Hearths and Roll calls do (R324). -/
def Core.Participants (c : Core) (r : CtxRec) (l : List Nat) : Prop :=
  ∀ d : Core, d.hub = c.hub → d.cfg = c.cfg → d.latched = c.latched → d.mgt = c.mgt → d.dram = c.dram → d.stacked = c.stacked → (ctxNames r).run d = .ok l d

/-- A ROLL that can issue, at a context that is its tenant's, admits its Hearth and names its reduction; the device is `me` among the participants `l`. -/
structure State.Rolls (s : State) (h : Nat) (f : RollF) (l : List Nat) (me : Nat) : Prop where
  syncs : s.Syncs h (.roll f)
  clear : s.core.rollClear h f.payload (s.core.priorWork h) = true
  errors : s.core.dram.errors = []
  own : s.core.Own h
  fits : 64 * f.payload + 64 ≤ 0x800000
  tenant : s.core.twoTenant = true → s.core.ctxTenant f.ctx = s.core.hearthTenant h
  valid : (s.core.ctxRec f.ctx).valid = true
  reduction : (s.core.ctxRec f.ctx).reduction = f.red
  admits : (s.core.ctxRec f.ctx).admits s.core (s.core.ctxTenant f.ctx) (.hearth h) = true
  names : s.core.Participants (s.core.ctxRec f.ctx) l
  self : s.core.selfIn l = some me

/-- A context with a Hearth's arrival counted. -/
def RollCtx.counted (x : RollCtx) (h : Nat) (pay : List Byte) (wb : Nat) : RollCtx :=
  { x with counts := spPut 0 x.counts h ((x.gen + 1) % 256), arrived := x.arrived ++ [(.hearth h, pay, wb)] }

/-- A context with a Hearth's arrival held for the next generation. -/
def RollCtx.holding (x : RollCtx) (h : Nat) (pay : List Byte) (wb : Nat) : RollCtx :=
  { x with counts := spPut 0 x.counts h ((x.gen + 2) % 256), held := x.held ++ [(.hearth h, pay, wb, (x.gen + 1) % 256)] }

/-- The core with a Hearth's ROLL counted at its context. -/
def Core.countedRoll (c : Core) (h : Nat) (f : RollF) : Core :=
  c.setRollCtx f.ctx ((c.rollCtx f.ctx).counted h (c.scratchBytes h (64 * f.payload) 64) (64 * f.payload))

@[simp] theorem Core.countedRoll_rollCtx (c : Core) (h : Nat) (f : RollF) :
    (c.countedRoll h f).rollCtx f.ctx = (c.rollCtx f.ctx).counted h (c.scratchBytes h (64 * f.payload) 64) (64 * f.payload) :=
  (Core.rollCtx_setRollCtx ..).trans (if_pos rfl)

theorem Core.countedRoll_sentUp (c : Core) (h : Nat) (f : RollF) (hsent : (c.rollCtx f.ctx).sentUp = false) :
    ((c.countedRoll h f).rollCtx f.ctx).sentUp = false := by
  rw [Core.countedRoll_rollCtx]
  exact hsent

section
variable {s : State} {h me : Nat} {f : RollF} {l : List Nat} (hr : s.Rolls h f l me)
include hr

theorem State.Rolls.countedSelf (q : List YOp) :
    (ctxSelf f.ctx (s.core.ctxRec f.ctx)).run ((s.core.countedRoll h f).setYq h q) = .ok (l, me) ((s.core.countedRoll h f).setYq h q) :=
  run_ctxSelf f.ctx (hr.names _ rfl rfl rfl rfl rfl rfl) hr.self

/-- It arrives for the generation of its Hearth's own count (R325). -/
theorem State.Rolls.run_yHead {k : ArrivalCase}
    (hcase : arrivalCase (s.core.rollCtx f.ctx).gen (spGet 0 (s.core.rollCtx f.ctx).counts h) ((s.core.rollCtx f.ctx).arrived.any (fun q => q.1.key == h))
      ((s.core.rollCtx f.ctx).held.any (fun q => q.1.key == h)) = k) :
    (yHead h).run (s.core.setYq h [.roll f.ctx f.red f.payload (s.core.priorWork h)]) = (do
      let dup ← takeArrival f.ctx (.hearth h) (spGet 0 (s.core.rollCtx f.ctx).counts h) (s.core.scratchBytes h (64 * f.payload) 64) (64 * f.payload)
        (s.core.ctxRec f.ctx) (s.core.rollCtx f.ctx) k
      update (fun c => if dup then c.yDone h else c.yHold h (.rolled f.ctx f.payload)) : OpM Unit).run
        (s.core.setYq h [.roll f.ctx f.red f.payload (s.core.priorWork h)]) := by
  have hself : (ctxSelf f.ctx (s.core.ctxRec f.ctx)).run (s.core.setYq h [.roll f.ctx f.red f.payload (s.core.priorWork h)]) = .ok (l, me) _ :=
    run_ctxSelf f.ctx (hr.names _ rfl rfl rfl rfl rfl rfl) hr.self
  have harrive := run_rollArrive (c := s.core.setYq h [.roll f.ctx f.red f.payload (s.core.priorWork h)]) hr.errors (ctx := f.ctx) (red := f.red)
    (wb := 64 * f.payload) (p := .hearth h) (explicit := none) (s.core.scratchBytes h (64 * f.payload) 64) hr.valid hr.reduction.symm hself hr.admits rfl
  rw [run_yHead_roll [] hr.errors hr.own hr.clear hr.fits hr.tenant, run_bind, run_bind, harrive]
  subst hcase
  rfl

/-- A ROLL that is no duplicate waits at the queue's head for the result of its generation. -/
theorem State.Rolls.issues_waiting {k : ArrivalCase} {d : Core}
    (hcase : arrivalCase (s.core.rollCtx f.ctx).gen (spGet 0 (s.core.rollCtx f.ctx).counts h) ((s.core.rollCtx f.ctx).arrived.any (fun q => q.1.key == h))
      ((s.core.rollCtx f.ctx).held.any (fun q => q.1.key == h)) = k)
    (htaken : (takeArrival f.ctx (.hearth h) (spGet 0 (s.core.rollCtx f.ctx).counts h) (s.core.scratchBytes h (64 * f.payload) 64) (64 * f.payload)
      (s.core.ctxRec f.ctx) (s.core.rollCtx f.ctx) k).run (s.core.setYq h [.roll f.ctx f.red f.payload (s.core.priorWork h)]) =
        .ok false (d.setYq h [.roll f.ctx f.red f.payload (s.core.priorWork h)])) :
    s.core.gated (fun c => c.issueY h (.roll f)) = d.setYq h [.rolled f.ctx f.payload] := by
  refine hr.syncs.issues (s.core.yOpOf_roll s.core h f) rfl ?_ (by simp)
  rw [hr.run_yHead hcase, run_bind_ok _ htaken, run_update]
  exact congrArg _ (Core.setYq_yHold ..)

section
variable (hcount : spGet 0 (s.core.rollCtx f.ctx).counts h = (s.core.rollCtx f.ctx).gen) (hnew : ∀ a ∈ (s.core.rollCtx f.ctx).arrived, a.1.key ≠ h)
include hcount hnew

/-- A ROLL is counted, and its device's own arrival does what it then does. -/
theorem State.Rolls.issues_counted {d : Core} (hadvance : (rollAdvance f.ctx).run ((s.core.countedRoll h f).setYq h
      [.roll f.ctx f.red f.payload (s.core.priorWork h)]) = .ok () (d.setYq h [.roll f.ctx f.red f.payload (s.core.priorWork h)])) :
    s.core.gated (fun c => c.issueY h (.roll f)) = d.setYq h [.rolled f.ctx f.payload] := by
  have hnone : (s.core.rollCtx f.ctx).arrived.any (fun q => q.1.key == h) = false := by simpa using hnew
  refine hr.issues_waiting (k := .counted) ?_ ?_
  · rw [hnone]
    exact arrivalCase_counted (by omega)
  · rw [hcount, takeArrival, run_bind_ok _ (run_update _ _)]
    exact run_bind_ok _ hadvance

/-- With participants or senders still to come it only waits (R323, R324). -/
theorem State.Rolls.issues_early (hsent : (s.core.rollCtx f.ctx).sentUp = false) (hwaits : ¬ (s.core.countedRoll h f).AllArrived f.ctx l me) :
    s.core.gated (fun c => c.issueY h (.roll f)) = (s.core.countedRoll h f).setYq h [.rolled f.ctx f.payload] :=
  hr.issues_counted hcount hnew (run_rollAdvance_setYq_waits h _ (hr.countedSelf _) (s.core.countedRoll_sentUp h f hsent) hwaits)

/-- With all there the device's arrival goes to its parent (R324). -/
theorem State.Rolls.issues_up (hsent : (s.core.rollCtx f.ctx).sentUp = false) (hall : (s.core.countedRoll h f).AllArrived f.ctx l me) {p : Nat}
    (hparent : treeParent l me = some p) {d : Core}
    (hsends : (sendRoll 0 f.ctx ((s.core.countedRoll h f).rollCtx f.ctx).gen (s.core.ctxRec f.ctx).reduction p ((s.core.countedRoll h f).rollTotal f.ctx l me)).run
      ((s.core.countedRoll h f).setRollCtx f.ctx { (s.core.countedRoll h f).rollCtx f.ctx with sentUp := true }) = .ok () d) :
    s.core.gated (fun c => c.issueY h (.roll f)) = d.setYq h [.rolled f.ctx f.payload] :=
  hr.issues_counted hcount hnew (run_rollAdvance_setYq_up h _ (hr.countedSelf _) (s.core.countedRoll_sentUp h f hsent) hall hparent hsends)

/-- With all there at the root the result is made and goes down to every child (R324). -/
theorem State.Rolls.issues_root (hsent : (s.core.rollCtx f.ctx).sentUp = false) (hall : (s.core.countedRoll h f).AllArrived f.ctx l me)
    (hroot : treeParent l me = none) {d : Core}
    (hsends : ((treeChildren l me).forM (fun k =>
        sendRoll 1 f.ctx ((s.core.countedRoll h f).rollCtx f.ctx).gen (s.core.ctxRec f.ctx).reduction k ((s.core.countedRoll h f).rollTotal f.ctx l me))).run
      ((s.core.countedRoll h f).setRollCtx f.ctx
        { (s.core.countedRoll h f).rollCtx f.ctx with sentUp := true, result := some ((s.core.countedRoll h f).rollTotal f.ctx l me) }) = .ok () d) :
    s.core.gated (fun c => c.issueY h (.roll f)) = d.setYq h [.rolled f.ctx f.payload] :=
  hr.issues_counted hcount hnew (run_rollAdvance_setYq_root h _ (hr.countedSelf _) (s.core.countedRoll_sentUp h f hsent) hall hroot hsends)

end

theorem State.Rolls.becomes_held (hcount : spGet 0 (s.core.rollCtx f.ctx).counts h = ((s.core.rollCtx f.ctx).gen + 1) % 256)
    (hgen : (s.core.rollCtx f.ctx).gen < 256) (hnew : ∀ a ∈ (s.core.rollCtx f.ctx).held, a.1.key ≠ h) : s.Becomes (exec (.roll h f) s)
      (((s.core.setRollCtx f.ctx ((s.core.rollCtx f.ctx).holding h (s.core.scratchBytes h (64 * f.payload) 64) (64 * f.payload))).bump (kSyn 1)).setYq h
        [.rolled f.ctx f.payload]) := by
  have hnone : (s.core.rollCtx f.ctx).held.any (fun q => q.1.key == h) = false := by simpa using hnew
  have hnext : (((s.core.rollCtx f.ctx).gen + 1) % 256 + 1) % 256 = ((s.core.rollCtx f.ctx).gen + 2) % 256 := by omega
  refine roll_becomes (hr.issues_waiting (k := .held) (by rw [hnone]; exact arrivalCase_held (by omega))
    (by rw [hcount, RollCtx.holding, ← hnext]; rfl))

theorem State.Rolls.becomes_duplicate (hcount : spGet 0 (s.core.rollCtx f.ctx).counts h = (s.core.rollCtx f.ctx).gen)
    (hold : ∃ a ∈ (s.core.rollCtx f.ctx).arrived, a.1.key = h) :
    s.Becomes (exec (.roll h f) s) (s.core.bump (kSyn 2)) := by
  have hsome : (s.core.rollCtx f.ctx).arrived.any (fun q => q.1.key == h) = true := by simpa using hold
  refine hr.syncs.becomes_done (s.core.yOpOf_roll s.core h f) rfl ((hr.run_yHead (k := .ignored) ?_).trans ?_) hr.syncs.yq_empty
  · rw [hsome]
    exact arrivalCase_duplicate (by omega)
  · exact congrArg (EStateM.Result.ok ()) (Core.setYq_yDone (s.core.bump (kSyn 2)) h [] _)

end

/-! A context of device scope has no other device (R324). -/

theorem treeParent_alone (me : Nat) : treeParent [me] me = none := by
  cases hplane : bit me 14 <;> simp [treeParent, planeA, planeB, hplane]

theorem treeChildren_alone (me : Nat) : treeChildren [me] me = [] := by simp [treeChildren]

theorem run_ctxNames_device {c : Core} {r : CtxRec} (hscope : r.scope = 0) : (ctxNames r).run c = .ok [c.selfId] c := by
  rw [ctxNames, run_bind_ok _ (run_get c), hscope]
  rfl

theorem Core.selfIn_alone (c : Core) : c.selfIn [c.selfId] = some c.selfId := by simp [Core.selfIn, Core.isSelf, Core.selfId]

/-- Every Hearth of a context's path has arrived (R323). -/
theorem Core.localArrived_of_targets {c : Core} {ctx h : Nat} {r : CtxRec} (hadmits : r.admits c (c.ctxTenant ctx) (.hearth h) = true)
    (hall : ∀ k ∈ (c.targets (c.ctxTenant ctx) r.unitPath).getD [], ∃ a ∈ (c.rollCtx ctx).arrived, a.1 = .hearth k) : c.localArrived ctx r = true := by
  simp only [CtxRec.admits, Bool.and_eq_true, beq_iff_eq, List.contains_iff_mem] at hadmits
  obtain ⟨hsource, hpath⟩ := hadmits
  simp only [Core.localArrived, hsource, beq_self_eq_true, if_true, Bool.and_eq_true, Bool.not_eq_true', List.isEmpty_eq_false_iff, List.all_eq_true,
    List.any_eq_true, beq_iff_eq]
  exact ⟨List.ne_nil_of_mem hpath, hall⟩

section
variable {s : State} {h : Nat} {f : RollF} (hr : s.Rolls h f [s.core.selfId] s.core.selfId)
  (hcount : spGet 0 (s.core.rollCtx f.ctx).counts h = (s.core.rollCtx f.ctx).gen) (hnew : ∀ a ∈ (s.core.rollCtx f.ctx).arrived, a.1.key ≠ h)
  (hsent : (s.core.rollCtx f.ctx).sentUp = false)
include hr hcount hnew hsent

/-- A ROLL of a context of device scope is counted there, and the last one makes the result (R323, R326). -/
theorem State.Rolls.issues_device : ∃ d : Core, s.core.gated (fun c => c.issueY h (.roll f)) = d.setYq h [.rolled f.ctx f.payload] ∧
    d = { s.core with sync := d.sync } ∧ (d.rollCtx f.ctx).arrived = ((s.core.countedRoll h f).rollCtx f.ctx).arrived ∧
    (d.rollCtx f.ctx).gen = (s.core.rollCtx f.ctx).gen ∧ ((s.core.countedRoll h f).localArrived f.ctx (s.core.ctxRec f.ctx) = true →
      (d.rollCtx f.ctx).result = some (rollReduce f.red (((s.core.countedRoll h f).rollCtx f.ctx).arrived.map (fun a => a.2.1)))) := by
  have hthere : (s.core.countedRoll h f).AllArrived f.ctx [s.core.selfId] s.core.selfId ↔
      (s.core.countedRoll h f).localArrived f.ctx (s.core.ctxRec f.ctx) = true := by
    rw [Core.AllArrived, treeChildren_alone]
    exact and_iff_left (by simp)
  by_cases hall : (s.core.countedRoll h f).localArrived f.ctx (s.core.ctxRec f.ctx) = true
  · have htotal : (s.core.countedRoll h f).rollTotal f.ctx [s.core.selfId] s.core.selfId =
        rollReduce f.red (((s.core.countedRoll h f).rollCtx f.ctx).arrived.map (fun a => a.2.1)) := by
      have hnone : ∀ m : List (Nat × List Byte), m.filter (fun q => ([] : List Nat).contains q.1) = [] := fun m =>
        List.filter_eq_nil_iff.mpr (fun _ _ => Bool.false_ne_true)
      rw [Core.rollTotal, treeChildren_alone, show (s.core.countedRoll h f).ctxRec f.ctx = s.core.ctxRec f.ctx from rfl, hr.reduction, hnone, List.map_nil,
        List.append_nil]
    refine ⟨_, hr.issues_root hcount hnew hsent (hthere.2 hall) (treeParent_alone _) (by rw [treeChildren_alone]; rfl), rfl, ?_⟩
    rw [Core.rollCtx_setRollCtx, if_pos rfl, htotal, Core.countedRoll_rollCtx]
    exact ⟨rfl, rfl, fun _ => rfl⟩
  · refine ⟨_, hr.issues_early hcount hnew hsent (fun h => hall (hthere.1 h)), rfl, rfl, ?_, fun h => absurd h hall⟩
    rw [Core.countedRoll_rollCtx]
    rfl

end

/-- Settles O11: a ROLL finds its queue empty, so it arrives at once with the Y queue as the only other thing of the state; what its arrival does there is what
`takeArrival` and `rollAdvance` do without that queue. -/
theorem rollArrivesWithItsPayload : Obligations.RollArrivesWithItsPayload := by
  unfold Obligations.RollArrivesWithItsPayload
  refine ⟨?_, ?_⟩
  · intro s h f hs hclear he hown hfits htenant r x pay hvalid hscope hred hadmits hcount hgen hnew hsent
    have hr : s.Rolls h f [s.core.selfId] s.core.selfId := by
      refine ⟨hs, hclear, he, hown, hfits, htenant, hvalid, hred, hadmits, fun d _ _ _ hmgt _ _ => ?_, s.core.selfIn_alone⟩
      rw [run_ctxNames_device hscope, Core.selfId, hmgt]
      rfl
    obtain ⟨d, hissues, hsync, harrived, hgen', hresult⟩ := hr.issues_device hcount hnew hsent
    rw [Core.countedRoll_rollCtx] at harrived hresult
    refine ⟨{ s with core := d.setYq h [.rolled f.ctx f.payload] }, ?_, harrived, hgen', by rw [Core.setYq_hearth], fun hlast => ?_, fun j hj => ?_, ?_⟩
    · rw [← hissues]
      rfl
    · refine (hresult (Core.localArrived_of_targets hadmits fun k hk => ?_)).trans ?_
      · rw [Core.countedRoll_rollCtx]
        rcases hlast k hk with rfl | ⟨a, ha, hka⟩
        · exact ⟨_, List.mem_append_right _ (List.mem_singleton_self _), rfl⟩
        · exact ⟨a, List.mem_append_left _ ha, hka⟩
      · rw [RollCtx.counted, List.map_append]
        rfl
    · rw [Core.setYq_hearth_other _ _ _ hj, hsync]
      rfl
    · rw [hsync]
      rfl
  · intro s h me f l hs hclear he hown hfits htenant r x pay hvalid hred hadmits hgen hsent hnames hme
    have hr : s.Rolls h f l me := ⟨hs, hclear, he, hown, hfits, htenant, hvalid, hred, hadmits, hnames, hme⟩
    refine ⟨?_, fun hcount hnew => hr.becomes_held hcount hgen hnew, fun hcount hold => hr.becomes_duplicate hcount hold⟩
    intro hcount hnew y b kids here all waits
    have hthere : (s.core.countedRoll h f).AllArrived f.ctx l me ↔ here := by
      rw [Core.AllArrived, Core.countedRoll_rollCtx]
      rfl
    have htotal : (s.core.countedRoll h f).rollTotal f.ctx l me = all := by
      rw [Core.rollTotal, Core.countedRoll_rollCtx]
      exact congrArg (fun k => rollReduce k _) hred
    refine ⟨fun hwaits => ?_, fun hall p c hparent hsends => ?_, fun hall c hroot hsends => ?_⟩
    · exact roll_becomes (hr.issues_early hcount hnew hsent (fun hall => hwaits (hthere.1 hall)))
    · exact roll_becomes (hr.issues_up hcount hnew hsent (hthere.2 hall) hparent (by rw [htotal, Core.countedRoll_rollCtx, hred]; exact hsends))
    · exact roll_becomes (hr.issues_root hcount hnew hsent (hthere.2 hall) hroot (by rw [htotal, Core.countedRoll_rollCtx, hred]; exact hsends))

end Sys2Proof.Machine
end

section
/-!
PROOFS. OP_SIGNAL and OP_ROLL (R133, R309 to R313, R325): a list of units whose Tallies a descriptor signals or subtracts from, one signal to another device,
and a host's arrival.
-/

namespace Sys2Proof.Machine

/-! The Tallies of several units (R311, R313). -/

/-- A Tally with a count added to it in full. -/
def Core.addTally (c : Core) (scope unit i n : Nat) : Core :=
  c.setTally scope unit i { c.tally scope unit i with value := (c.tally scope unit i).value + n }

/-- A signal leaves other units' Tallies alone; the fabric's have no unit. -/
theorem Core.tally_setTally_other {c : Core} {scope u v i : Nat} {t : Tally} (hscope : scope < 2) (hunit : v ≠ u) :
    (c.setTally scope u i t).tally scope v i = c.tally scope v i := by
  match scope, hscope with
  | 0, _ => simp only [Core.setTally, Core.tally, Core.hearth_modHearth, if_neg hunit]
  | 1, _ => simp only [Core.setTally, Core.tally, Core.smithy_modSmithy, if_neg hunit]

section
variable {scope i n : Nat}

theorem run_tallyEach_sub (units : List Nat) (c : Core) :
    (tallyEach true scope i n units).run c = .ok () (units.foldl (fun c u => c.subTally scope u i n) c) := by
  induction units generalizing c with
  | nil => rfl
  | cons u units ih =>
    simp only [tallyEach, if_true, run_bind, run_update, List.foldl_cons]
    exact ih _

theorem run_tallyEach_signal_cons {c : Core} {u : Nat} (units : List Nat) (hover : (c.tally scope u i).overSet = false)
    (hfits : (c.tally scope u i).value + n ≤ 0xFFFFFFFF) :
    (tallyEach false scope i n (u :: units)).run c = (tallyEach false scope i n units).run (c.addTally scope u i n) := by
  simp only [tallyEach, Bool.false_eq_true, if_false, run_bind, run_tryCatch, run_signalTally (Tally.signal_fits hover hfits) rfl, Core.addTally]

/-- Signals that their Tallies have room for are all added. -/
theorem run_tallyEach_signal (hscope : scope < 2) {units : List Nat} (hnodup : units.Nodup) {c : Core}
    (hroom : ∀ u ∈ units, (c.tally scope u i).overSet = false ∧ (c.tally scope u i).value + n ≤ 0xFFFFFFFF) :
    (tallyEach false scope i n units).run c = .ok () (units.foldl (fun c u => c.addTally scope u i n) c) := by
  induction units generalizing c with
  | nil => rfl
  | cons u units ih =>
    obtain ⟨hu, hrest⟩ := List.nodup_cons.1 hnodup
    obtain ⟨hover, hfits⟩ := hroom u List.mem_cons_self
    rw [run_tallyEach_signal_cons units hover hfits, List.foldl_cons]
    refine ih hrest fun v hv => ?_
    rw [Core.addTally, Core.tally_setTally_other hscope (ne_of_mem_of_not_mem hv hu)]
    exact hroom v (List.mem_cons_of_mem _ hv)

end

/-! OP_SIGNAL (R133, R309). -/

section
variable {c : Core} {o : Origin} {e : Desc}

/-- The units whose Tallies of this device an OP_SIGNAL names: the fabric's one set, or a path's Hearths or Smithies. -/
def Core.SignalsUnits (c : Core) (o : Origin) (e : Desc) (units : List Nat) : Prop :=
  (descSigScope e = 2 → descSigDevice e c = none ∧ c.tallyOwned (c.originTenant o) (descSigIndex e) = true ∧ units = [0]) ∧
    (descSigScope e ≠ 2 → ∃ hs, c.targets (c.originTenant o) e.path = some hs ∧ units = (if descSigScope e = 0 then hs else smithiesOf hs))

theorem run_signalOp {units : List Nat} {d : Core} (hunits : c.SignalsUnits o e units)
    (heach : (tallyEach (descSigSub e) (descSigScope e) (descSigIndex e) (descSigCount e) units).run c = .ok () d) :
    (signalOp o e).run c = .ok () (d.complete o stOk 0) := by
  obtain ⟨hfabric, hpath⟩ := hunits
  by_cases hscope : descSigScope e = 2
  · obtain ⟨hhere, howned, rfl⟩ := hfabric hscope
    rw [hscope] at heach
    simp only [signalOp, signalFabricOp, hscope, beq_self_eq_true, if_true, run_bind, run_get, hhere, howned, Bool.not_true, Bool.false_eq_true, if_false,
      heach, run_update]
  · obtain ⟨hs, htargets, rfl⟩ := hpath hscope
    have hnotFabric : (descSigScope e == 2) = false := by simpa using hscope
    simp only [signalOp, hnotFabric, Bool.false_eq_true, if_false, run_bind, run_get, htargets, beq_iff_eq, heach, run_update]

/-- What an OP_SIGNAL for another device sends (R315). -/
def descSignal (e : Desc) (dev : Nat) : Txn :=
  { op := opSignalTx, dst := dev, addr := globalAddr dev (0x500060000000 + 8 * descSigIndex e), len := 8,
    opndA := descSigCount e + (if descSigSub e then 3 else 1) <<< 32 }

theorem run_signalOp_remote {dev : Nat} {d : Core} (hscope : descSigScope e = 2) (hdev : descSigDevice e c = some dev)
    (hsends : descSigCount e ≠ 0 ∨ descSigSub e = true)
    (hsent : (sendRequest { c.descWho o 0 with keyed := false } .signal (descSignal e dev) vcSync []).run c = .ok () d) :
    (signalOp o e).run c = .ok () (d.descDone o stOk) := by
  have hsome : ((descSigCount e == 0) && !descSigSub e) = false := by
    rcases hsends with hn | hsub
    · simp [hn]
    · simp [hsub]
  rw [descSignal] at hsent
  simp only [signalOp, signalFabricOp, hscope, beq_self_eq_true, if_true, run_bind, run_get, hdev, hsome, Bool.false_eq_true, if_false, hsent, run_update]

/-- The operand rules leave an OP_SIGNAL that is not of the fabric a Hearth's scope or a Smithy's (Table 11-1). -/
theorem State.Starts.signal_scope {s : State} {hs : List Nat} (h : s.Starts o 6 e hs) (hnotFabric : descSigScope e ≠ 2) : descSigScope e < 2 := by
  obtain ⟨-, -, hr, -, -⟩ := h
  have hrules : descRulesOk e 6 = true := by
    simp only [Core.descRefused, Bool.or_eq_false_iff, Bool.not_eq_false'] at hr
    obtain ⟨⟨⟨⟨-, hrules⟩, -⟩, -⟩, -⟩ := hr
    exact hrules
  simp only [descRulesOk, Bool.and_eq_true, bne_iff_ne] at hrules
  obtain ⟨⟨-, hnotThree : descSigScope e ≠ 3⟩, -⟩ := hrules
  have hlt : descSigScope e < 4 := Nat.mod_lt _ (by decide)
  omega

end

/-- Both commands of an OP_SIGNAL are the fetch of a descriptor with op-code 6. -/
theorem exec_signal {s : State} {o : Origin} {d e : Desc} {i : Instr}
    (hi : (i, e) ∈ [(.opSignal o d, d), (.opSignalSub o d, { d with p := d.p % 2 ^ 56 + 3 <<< 56 })]) :
    exec i s = .next { s with core := s.core.gated (fun c => c.fetchedDesc o 6 e) } := by
  simp only [List.mem_cons, Prod.mk.injEq, List.not_mem_nil, or_false] at hi
  rcases hi with ⟨rfl, rfl⟩ | ⟨rfl, rfl⟩ <;> rfl

/-! OP_ROLL (R325). -/

section
variable {c : Core} {o : Origin} {d : Desc}

theorem run_opRollOp_host (hhost : d.aHost = true) : (opRollOp o d).run c = .ok () (c.hostAsked (.desc o) o.port (.roll o d) d.a 64) := by
  simp only [opRollOp, run_bind, run_get, hhost, readFor_host, run_pure]

theorem run_opRollOp_fabric {data : List Byte} {dup : Bool} {e : Core} (hhost : d.aHost = false)
    (htenant : c.twoTenant = true → c.ctxTenant (d.p % 2 ^ 8) = c.originTenant o)
    (hread : c.Reads { actor := .desc o, tenant := c.originTenant o, key := d.ka, keyed := false } [(d.a, 64)] data)
    (harrive : (rollArrive (d.p % 2 ^ 8) (.host o) (bits d.p 9 8) (if bit d.p 10 then some (bits d.p 23 16) else none) data (descRollBack d)).run c = .ok dup e) :
    (opRollOp o d).run c = .ok () (if dup then e.complete o stRollDuplicate 0 else e) := by
  have hnames : (c.twoTenant && c.ctxTenant (d.p % 2 ^ 8) != c.originTenant o) = false := by
    cases htwo : c.twoTenant with
    | false => rfl
    | true => rw [htenant htwo, bne_self_eq_false, Bool.and_false]
  simp only [opRollOp, run_bind, run_get, hhost, readFor_fabric _ hread, rollArrived, hnames, Bool.false_eq_true, if_false, harrive]
  cases dup <;> rfl

end

/-- Settles O33: a descriptor that starts does its work on the state in which it has begun; OP_SIGNAL's work is unit by unit, and each unit's Tally is apart from
the others'. -/
theorem hostSignalsAndRollsArrive : Obligations.HostSignalsAndRollsArrive := by
  unfold Obligations.HostSignalsAndRollsArrive
  refine ⟨?_, ?_⟩
  · intro s o d i e hi hstart b n idx scope sub
    rw [exec_signal hi]
    constructor
    · intro units hfabric hpath hnodup
      have hunits : b.SignalsUnits o e units := ⟨hfabric, hpath⟩
      refine ⟨fun hsub => hstart.becomes (run_signalOp hunits ?_), fun hsub hroom => hstart.becomes (run_signalOp hunits ?_)⟩
      · rw [show descSigSub e = true from hsub]
        exact run_tallyEach_sub units b
      · rw [show descSigSub e = false from hsub]
        by_cases hscope : descSigScope e = 2
        · obtain ⟨-, -, rfl⟩ := hfabric hscope
          obtain ⟨hover, hfits⟩ := hroom 0 (List.mem_singleton_self 0)
          exact run_tallyEach_signal_cons (c := b) [] hover hfits
        · exact run_tallyEach_signal (hstart.signal_scope hscope) hnodup hroom
    · intro dev c hscope hdev hsends t hsent
      exact hstart.becomes (run_signalOp_remote hscope hdev hsends hsent)
  · intro s o d data hstart b ctx
    exact ⟨fun hhost => hstart.becomes (run_opRollOp_host hhost),
      fun hhost htenant hread dup c harrive => hstart.becomes (run_opRollOp_fabric hhost htenant hread harrive)⟩

end Sys2Proof.Machine
end
